-- ==== Sys2Proof/Word.lean ====
section
/-! DEFINITION. The word types of the Dacharak (R8, R9, R58) and their plainest arithmetic. -/

namespace Sys2Proof

/-- One byte. -/
abbrev Byte := BitVec 8

/-- One 32-bit register (R58). -/
abbrev Word := BitVec 32

/-- A 64-bit operand: a register pair (R102), an address, a tally word. -/
abbrev DWord := BitVec 64

/-- A 16-byte operand: four registers (R102). -/
abbrev QWord := BitVec 128

/-- A 32-byte sector of DRAM or of a cache (R23). -/
abbrev Sector := BitVec 256

/-- A 128-byte line: four sectors, sector 0 in the low bits (R247, R256). -/
abbrev Line := BitVec 1024

/-- A 16-bit status code (R596). -/
abbrev Status := BitVec 16

end Sys2Proof
end

