-- ==== Sys2Proof/Syntax.lean ====
section
/-! DEFINITION. The commands of the Dacharak: one constructor per row of spec/opcode_table.json, with the row's operands.
A core instruction's command names the group that issues it and the fields of its format (R98 to R106); an engine's event
names the engine; a queue command names the queue whose fetched packet it dispatches; a message or frame carries its fields. -/

namespace Sys2Proof

/-- A resident thread group: core, quadrant and group slot (R58). -/
structure GroupRef where
  core : Nat
  quad : Nat
  slot : Nat
  deriving DecidableEq, Repr

/-- GUARD, bits [12:8] of every format (R100). -/
structure Guard where
  en   : Bool
  neg  : Bool
  pred : BitVec 3
  deriving DecidableEq, Repr

/-- The R format below GUARD; `mod` is MOD, bits [63:52]. -/
structure RFields where
  guard  : Guard
  dst    : BitVec 9
  srcA   : BitVec 9
  srcB   : BitVec 9
  srcC   : BitVec 9
  reuseA : Bool
  reuseB : Bool
  reuseC : Bool
  mod    : BitVec 12
  deriving DecidableEq, Repr

/-- The I format. -/
structure IFields where
  guard  : Guard
  dst    : BitVec 9
  srcA   : BitVec 9
  reuseA : Bool
  imm    : Word
  deriving DecidableEq, Repr

/-- The M format. -/
structure MFields where
  guard     : Guard
  data      : BitVec 9
  addr      : BitVec 9
  data2     : BitVec 9
  size      : BitVec 3
  cache     : BitVec 2
  sem       : BitVec 2
  space     : Bool
  sext      : Bool
  reuseData : Bool
  reuseAddr : Bool
  reuseD2   : Bool
  offset    : BitVec 12
  deriving DecidableEq, Repr

/-- The B format; `rsv` is bit [63]. -/
structure BFields where
  guard  : Guard
  target : BitVec 25
  reconv : BitVec 25
  rsv    : Bool
  deriving DecidableEq, Repr

/-- The X format, of `mx.op` alone; `rsv` is bits [63:62]. -/
structure XFields where
  guard  : Guard
  acc    : BitVec 3
  zero   : Bool
  fmtA   : BitVec 4
  fmtB   : BitVec 4
  axisA  : Bool
  axisB  : Bool
  aOff   : BitVec 11
  bOff   : BitVec 11
  kM1    : BitVec 9
  expand : BitVec 2
  caddy  : BitVec 2
  rsv    : BitVec 2
  deriving DecidableEq, Repr

/-- The three pipes of a matrix engine (R192). -/
inductive MxPipe where
  | load | array | store
  deriving DecidableEq, Repr

/-- One evaluation's sensor readings (R52, R515): binary32 degrees Celsius of the sixteen layers and the logic die,
binary32 watts averaged over the last Steep, and millivolts. -/
structure Readings where
  layers : List Word
  logic  : Word
  power  : Word
  vdd    : BitVec 16
  deriving DecidableEq, Repr

/-- A Scehel Message Transport message as it arrives (R415, R419); the row gives its TYPE.
`rsv` says that a reserved header bit is set. -/
structure Msg where
  port     : Nat
  srcIp    : BitVec 128
  srcUdp   : BitVec 16
  vlan     : BitVec 12
  version  : Byte
  session  : BitVec 16
  seq      : Word
  ack      : Word
  ackValid : Bool
  ackNow   : Bool
  more     : Bool
  gap      : Bool
  rsv      : Bool
  status   : Status
  tag      : Word
  arg0     : DWord
  payload  : List Byte
  deriving DecidableEq, Repr

/-- A RoCEv2 packet that arrives on a connection (R409 to R414); `syndrome` belongs to a NAK, `marked` is Congestion Experienced. -/
structure RocePacket where
  port     : Nat
  conn     : Nat
  psn      : BitVec 24
  va       : DWord
  rkey     : Word
  length   : Nat
  syndrome : Nat
  marked   : Bool
  vlan     : BitVec 12
  payload  : List Byte
  deriving DecidableEq, Repr

/-- An ARP or Neighbor Discovery message (R406). -/
structure AddrMsg where
  port      : Nat
  request   : Bool
  senderIp  : BitVec 128
  senderMac : BitVec 48
  targetIp  : BitVec 128
  vlan      : BitVec 12
  deriving DecidableEq, Repr

/-- An ICMP or ICMPv6 echo message (R403). -/
structure EchoMsg where
  port     : Nat
  request  : Bool
  srcIp    : BitVec 128
  targetIp : BitVec 128
  vlan     : BitVec 12
  payload  : List Byte
  deriving DecidableEq, Repr

/-- The PTP messages that a slave acts on (R403): a Sync, whose own time of sending a one-step master gives and a two-step
master's Follow_Up, and the answer to a delay request. -/
inductive PtpKind where
  | sync (sentAt : Option Nat)
  | followUp (sentAt : Nat)
  | delayResp (receivedAt : Nat)
  deriving DecidableEq, Repr

/-- A PTP message as a port receives it (R403, R432). -/
structure PtpMsg where
  vlan : BitVec 12
  kind : PtpKind
  deriving DecidableEq, Repr

/-- A change of a link: its new LINK_STATE, and the modes that its partner has (R404). -/
structure LinkChange where
  state   : Nat
  partner : BitVec 3
  deriving DecidableEq, Repr

/-- What is wrong with a frame that no other row takes (R402, R405, R407, R409, R415, R450). -/
inductive OddKind where
  /-- A protocol, option, fragment or standard that the port does not accept (R402, R403). -/
  | foreign
  /-- An IP packet of a length that may pass MTU (R405). -/
  | tooLong (bytes : Nat)
  /-- A frame on a VLAN that may be neither VLAN_ID nor MGMT_VLAN (R407). -/
  | wrongVlan (vlan : BitVec 12)
  /-- A RoCEv2 request with an opcode outside R403 on a connection (R409). -/
  | roceOpcode (conn : Nat) (psn : BitVec 24)
  /-- A Scehel Message Transport message of unknown TYPE (R415), with its session and TAG. -/
  | smtUnknown (session : BitVec 16) (tag : Word)
  /-- A Peer Transport frame of a TYPE in 0x10 to 0x1F that R450 does not name. -/
  | reductionUnknown
  deriving DecidableEq, Repr

/-- A frame that is discarded. -/
structure OddFrame where
  port : Nat
  kind : OddKind
  deriving DecidableEq, Repr

/-- A Peer Transport frame as it arrives (R424); `poison` holds one flag per 32-byte sector of the payload (R40). -/
structure PeerFrame where
  port    : Nat
  srcIp   : BitVec 128
  vlan    : BitVec 12
  version : Byte
  rsv     : Bool
  tag     : Word
  opx     : Byte
  addr    : BitVec 44
  length  : Nat
  status  : Status
  ack     : Word
  seq     : Word
  context : BitVec 10
  tenant  : Byte
  dst     : BitVec 12
  src     : BitVec 12
  poison  : List Bool
  payload : List Byte
  deriving DecidableEq, Repr

/-- What the environment gives a start-up step: whether the step's own check passes (PLL lock, fuse check, vault training
or zeroing, a readable flash), the straps, the tamper check's samples and the ports whose first attempt ended up (R564). -/
structure StartEnv where
  ok      : Bool
  straps  : BitVec 3
  sealOk  : Bool
  partners : BitVec 30
  deriving DecidableEq, Repr

/-- A JTAG instruction (R593). -/
inductive JtagOp where
  | bypass | idcode
  | other (code : Nat)
  deriving DecidableEq, Repr

/-- The commands of the block: a constructor per row of spec/opcode_table.json, those without operands last. -/
inductive Instr where
  /-- NOP (R110). Instruction with no effect. -/
  | nop (g : GroupRef) (f : RFields)
  /-- BRA (R108). Conditional branch: lanes that pass the guard take the target, and a divergent branch pushes a reconvergence entry. -/
  | bra (g : GroupRef) (f : BFields)
  /-- CALL (R109). Writes the return address to s62:s63 and jumps to the target. -/
  | call (g : GroupRef) (f : BFields)
  /-- JMP_R (R109). Continues at the address held in an s register pair. -/
  | jmpR (g : GroupRef) (f : RFields)
  /-- EXIT (R110). Ends the acting threads and clears them from the active mask and the stack masks. -/
  | exit (g : GroupRef) (f : RFields)
  /-- BRK (R110). Stops the group for the debugger when debug is enabled for the context; otherwise raises the illegal-instruction fault. -/
  | brk (g : GroupRef) (f : RFields)
  /-- RD_SV (R111). Writes the selected special value to the destination. -/
  | rdSv (g : GroupRef) (f : RFields)
  /-- FLG_RD (R112). Reads the group's sticky floating-point flags. -/
  | flgRd (g : GroupRef) (f : RFields)
  /-- FLG_CLR (R112). Clears the selected sticky flags. -/
  | flgClr (g : GroupRef) (f : RFields)
  /-- VOTE (R113). Forms an any, all or ballot result over the predicates of the acting lanes. -/
  | vote (g : GroupRef) (f : RFields)
  /-- SHFL (R114). Exchanges a register value between lanes by index, up, down or xor. -/
  | shfl (g : GroupRef) (f : RFields)
  /-- ADD (R115). Integer addition, optionally saturating. -/
  | add (g : GroupRef) (f : RFields)
  /-- SUB (R115). Integer subtraction, optionally saturating. -/
  | sub (g : GroupRef) (f : RFields)
  /-- MUL_LO (R115). Low 32 bits of an integer product. -/
  | mulLo (g : GroupRef) (f : RFields)
  /-- MUL_HI (R115). High 32 bits of an integer product. -/
  | mulHi (g : GroupRef) (f : RFields)
  /-- MAD (R115). Integer multiply-add. -/
  | mad (g : GroupRef) (f : RFields)
  /-- DIV (R115). Truncating integer division, with defined results for division by zero and overflow. -/
  | div (g : GroupRef) (f : RFields)
  /-- REM (R115). Integer remainder with the sign of the dividend. -/
  | rem (g : GroupRef) (f : RFields)
  /-- MIN (R115). Integer minimum. -/
  | min (g : GroupRef) (f : RFields)
  /-- MAX (R115). Integer maximum. -/
  | max (g : GroupRef) (f : RFields)
  /-- ABS (R115). Integer absolute value. -/
  | abs (g : GroupRef) (f : RFields)
  /-- NEG (R115). Integer negation. -/
  | neg (g : GroupRef) (f : RFields)
  /-- POPC (R115). Population count. -/
  | popc (g : GroupRef) (f : RFields)
  /-- CLZ (R115). Count of leading zeroes. -/
  | clz (g : GroupRef) (f : RFields)
  /-- BREV (R115). Bit reversal. -/
  | brev (g : GroupRef) (f : RFields)
  /-- AND (R115). Bitwise and. -/
  | and (g : GroupRef) (f : RFields)
  /-- OR (R115). Bitwise or. -/
  | or (g : GroupRef) (f : RFields)
  /-- XOR (R115). Bitwise exclusive or. -/
  | xor (g : GroupRef) (f : RFields)
  /-- NOT (R115). Bitwise complement. -/
  | not (g : GroupRef) (f : RFields)
  /-- SHL (R115). Logical left shift. -/
  | shl (g : GroupRef) (f : RFields)
  /-- SHR (R115). Logical right shift. -/
  | shr (g : GroupRef) (f : RFields)
  /-- SAR (R115). Arithmetic right shift. -/
  | sar (g : GroupRef) (f : RFields)
  /-- ROT (R115). Left rotation. -/
  | rot (g : GroupRef) (f : RFields)
  /-- BFE (R115). Bit-field extraction. -/
  | bfe (g : GroupRef) (f : RFields)
  /-- BFI (R115). Bit-field insertion. -/
  | bfi (g : GroupRef) (f : RFields)
  /-- BFN3 (R115). Three-input bitwise function given by a truth-table byte. -/
  | bfn3 (g : GroupRef) (f : RFields)
  /-- SETP (R115). Integer comparison into a predicate. -/
  | setp (g : GroupRef) (f : RFields)
  /-- SEL (R115). Selects one of two sources by a predicate. -/
  | sel (g : GroupRef) (f : RFields)
  /-- MOV (R115). Register move. -/
  | mov (g : GroupRef) (f : RFields)
  /-- PRMT (R115). Byte permutation. -/
  | prmt (g : GroupRef) (f : RFields)
  /-- PLOP (R115). Logical operation on two predicates. -/
  | plop (g : GroupRef) (f : RFields)
  /-- ADD_I (R115). Addition of an immediate. -/
  | addI (g : GroupRef) (f : IFields)
  /-- MUL_I (R115). Multiplication by an immediate. -/
  | mulI (g : GroupRef) (f : IFields)
  /-- AND_I (R115). Bitwise and with an immediate. -/
  | andI (g : GroupRef) (f : IFields)
  /-- OR_I (R115). Bitwise or with an immediate. -/
  | orI (g : GroupRef) (f : IFields)
  /-- XOR_I (R115). Bitwise exclusive or with an immediate. -/
  | xorI (g : GroupRef) (f : IFields)
  /-- SHL_I (R115). Left shift by an immediate. -/
  | shlI (g : GroupRef) (f : IFields)
  /-- SHR_I (R115). Logical right shift by an immediate. -/
  | shrI (g : GroupRef) (f : IFields)
  /-- SAR_I (R115). Arithmetic right shift by an immediate. -/
  | sarI (g : GroupRef) (f : IFields)
  /-- MOVI (R115). Moves an immediate into a register. -/
  | movi (g : GroupRef) (f : IFields)
  /-- SETP_I (R115). Comparison with an immediate into a predicate. -/
  | setpI (g : GroupRef) (f : IFields)
  /-- MIN_I (R115). Signed minimum with an immediate. -/
  | minI (g : GroupRef) (f : IFields)
  /-- MAX_I (R115). Signed maximum with an immediate. -/
  | maxI (g : GroupRef) (f : IFields)
  /-- FADD (R116). Floating-point addition. -/
  | fadd (g : GroupRef) (f : RFields)
  /-- FSUB (R116). Floating-point subtraction. -/
  | fsub (g : GroupRef) (f : RFields)
  /-- FMUL (R116). Floating-point multiplication. -/
  | fmul (g : GroupRef) (f : RFields)
  /-- FMA (R116). Fused floating-point multiply-add with one rounding. -/
  | fma (g : GroupRef) (f : RFields)
  /-- FMIN (R116). Floating-point minimumNumber. -/
  | fmin (g : GroupRef) (f : RFields)
  /-- FMAX (R116). Floating-point maximumNumber. -/
  | fmax (g : GroupRef) (f : RFields)
  /-- FABS (R116). Clears the sign bit. -/
  | fabs (g : GroupRef) (f : RFields)
  /-- FNEG (R116). Flips the sign bit. -/
  | fneg (g : GroupRef) (f : RFields)
  /-- FSETP (R116). Floating-point comparison into a predicate. -/
  | fsetp (g : GroupRef) (f : RFields)
  /-- FCLASS (R116). Classifies a floating-point value as a one-hot mask. -/
  | fclass (g : GroupRef) (f : RFields)
  /-- FRCP (R604). Approximate reciprocal, with defined results for special operands. -/
  | frcp (g : GroupRef) (f : RFields)
  /-- FRSQ (R604). Approximate reciprocal square root. -/
  | frsq (g : GroupRef) (f : RFields)
  /-- FEX2 (R604). Approximate base-2 exponential. -/
  | fex2 (g : GroupRef) (f : RFields)
  /-- FLG2 (R604). Approximate base-2 logarithm. -/
  | flg2 (g : GroupRef) (f : RFields)
  /-- CVT (R117). Conversion between the long floating-point and integer types. -/
  | cvt (g : GroupRef) (f : RFields)
  /-- CVT_PK (R117). Encodes binary32 into a Leaf code under a Caddy scale and packs it into a container. -/
  | cvtPk (g : GroupRef) (f : RFields)
  /-- CVT_UP (R117). Decodes a packed Leaf code with its Caddy to binary32. -/
  | cvtUp (g : GroupRef) (f : RFields)
  /-- CDY_FIT (R118). Chooses a Caddy code for each block of lanes. -/
  | cdyFit (g : GroupRef) (f : RFields)
  /-- LD (R119). Per-lane load from global memory or local store. -/
  | ld (g : GroupRef) (f : MFields)
  /-- ST (R119). Per-lane store to global memory or local store. -/
  | st (g : GroupRef) (f : MFields)
  /-- LD_RES (R122). Load that also sets the thread's reservation. -/
  | ldRes (g : GroupRef) (f : MFields)
  /-- ST_COND (R123). Conditional store that succeeds only while the reservation holds, and writes a status. -/
  | stCond (g : GroupRef) (f : MFields)
  /-- FENCE_ORDER (R129). Orders the group's later accesses after its earlier ones, without waiting. -/
  | fenceOrder (g : GroupRef) (f : RFields)
  /-- FENCE_DONE (R129). Makes the group wait until every earlier access has completed at its end point. -/
  | fenceDone (g : GroupRef) (f : RFields)
  /-- FENCE_DONE_RELEASE (R289). The fence's wait ends: the L1 is invalidated, or remote write lost is raised on a failure. -/
  | fenceDoneRelease (g : GroupRef)
  /-- CMO (R131). Cache maintenance on a virtual range at the L1, the cluster cache or both. -/
  | cmo (g : GroupRef) (f : RFields)
  /-- CMO_SW (R132). Cache maintenance on one set and way. -/
  | cmoSw (g : GroupRef) (f : RFields)
  /-- ATOM_ADD (R126). Atomic add at the end point, with the pairwise tree for floating point. -/
  | atomAdd (g : GroupRef) (f : MFields)
  /-- ATOM_MIN (R126). Atomic minimum. -/
  | atomMin (g : GroupRef) (f : MFields)
  /-- ATOM_MAX (R126). Atomic maximum. -/
  | atomMax (g : GroupRef) (f : MFields)
  /-- ATOM_AND (R126). Atomic and. -/
  | atomAnd (g : GroupRef) (f : MFields)
  /-- ATOM_OR (R126). Atomic or. -/
  | atomOr (g : GroupRef) (f : MFields)
  /-- ATOM_XOR (R126). Atomic exclusive or. -/
  | atomXor (g : GroupRef) (f : MFields)
  /-- ATOM_EXCH (R126). Atomic exchange. -/
  | atomExch (g : GroupRef) (f : MFields)
  /-- ATOM_CAS (R126). Atomic compare and swap. -/
  | atomCas (g : GroupRef) (f : MFields)
  /-- RELEASE_PERFORM (R285). A release is performed once the group's earlier reads and the quadrant's earlier writes have completed. -/
  | releasePerform (acc : Nat)
  /-- ACCESS_COMPLETE (R277). An access is accepted at its end point, or its value is fixed, or it completes with a failure status. -/
  | accessComplete (acc : Nat)
  /-- TLY_SIG (R134). After its release, signals a tally to a value and wakes the watches it meets. -/
  | tlySig (g : GroupRef) (f : RFields)
  /-- TLY_ADD (R134). After its release, adds to a tally and wakes the watches it meets. -/
  | tlyAdd (g : GroupRef) (f : RFields)
  /-- TLY_WAIT (R134). Returns at once if the target is met, or registers a watch and puts the group to sleep. -/
  | tlyWait (g : GroupRef) (f : RFields)
  /-- TLY_POLL (R134). Reads a tally word with acquire. -/
  | tlyPoll (g : GroupRef) (f : RFields)
  /-- WATCH_WAKE (R321). A watch firing reaches its group, queue or host session, which wakes or receives its event. -/
  | watchWake (tally : Nat)
  /-- BAR_BLK (R135). Arrives at the block barrier, which releases when every group has arrived or exited. -/
  | barBlk (g : GroupRef) (f : RFields)
  /-- BAR_DEV (R135). Arrives at a device-wide barrier channel and waits for its release. -/
  | barDev (g : GroupRef) (f : RFields)
  /-- DEVICE_BARRIER_RELEASE (R331). The AND of all cores' arrival bits completes, the phase flips and the waiting groups become ready. -/
  | deviceBarrierRelease (ch : Nat)
  /-- MX_LD (R136). Hands off a copy from local store to operand buffer A or B. -/
  | mxLd (g : GroupRef) (f : RFields)
  /-- MX_LDX (R187). Hands off a load of the expansion table or scale image. -/
  | mxLdx (g : GroupRef) (f : RFields)
  /-- MX_OP (R138). Hands off an outer-product accumulation into an accumulator tile. -/
  | mxOp (g : GroupRef) (f : XFields)
  /-- MX_ST (R140). Hands off a conversion and store of an accumulator tile to local store. -/
  | mxSt (g : GroupRef) (f : RFields)
  /-- MX_ZERO (R141). Hands off the zeroing of an accumulator tile. -/
  | mxZero (g : GroupRef) (f : RFields)
  /-- MX_SYNC (R196). Issues once every matrix instruction the group handed off earlier has completed. -/
  | mxSync (g : GroupRef) (f : RFields)
  /-- MX_START (R194). An accepted matrix instruction starts once its dependences, the array input and residency allow. -/
  | mxStart (core : Nat) (pipe : MxPipe)
  /-- MX_COMPLETE (R195). A started matrix instruction completes after its fixed span. -/
  | mxComplete (core : Nat) (pipe : MxPipe)
  /-- TS_RUN (R209). Starts a tile streamer on a descriptor copied from local store. -/
  | tsRun (g : GroupRef) (f : RFields)
  /-- TS_WAIT (R230). Waits for the group's descriptors on a streamer to finish and writes their first failure status. -/
  | tsWait (g : GroupRef) (f : RFields)
  /-- TS_DESCRIPTOR_START (R213). A streamer starts its next descriptor, checking its format and local-store range. -/
  | tsDescriptorStart (core : Nat) (str : Nat)
  /-- GATE_POLL (R221). Every 256 cycles a gated descriptor polls its tally, opening or ending on abandonment or a tenant mismatch. -/
  | gatePoll (core : Nat) (str : Nat)
  /-- TRANSLATION_PREFETCH (R223). A streamer requests translations for tiles ahead of the data. -/
  | translationPrefetch (core : Nat) (str : Nat) (tile : Nat)
  /-- TILE_PUBLISH (R216). A load tile is wholly in local store, and the streamer writes PROD with release. -/
  | tilePublish (core : Nat) (str : Nat)
  /-- COUNTER_OBSERVE (R219). The streamer observes a counter written by the program, freeing ring slots or releasing store tiles. -/
  | counterObserve (core : Nat) (str : Nat)
  /-- STORE_TILE_READ (R218). The streamer has read a produced store tile from its slot and writes CONS. -/
  | storeTileRead (core : Nat) (str : Nat)
  /-- TS_DESCRIPTOR_FINISH (R225). A descriptor finishes with its last tile published or its writes completed, and the next starts. -/
  | tsDescriptorFinish (core : Nat) (str : Nat)
  /-- DIGEST_COMPLETE (R232). A digest engine delivers the SHAKE256 digest of a page with its poison flag. -/
  | digestComplete (cluster : Nat) (i : Nat)
  /-- BLOCK_PLACEMENT (R383). A cluster sequencer places the next block of a launch on a core with room. -/
  | blockPlacement (launch : Nat) (core : Nat)
  /-- BLOCK_RETIRE (R62). A block retires once its threads have exited and its streamer descriptors have ended, freeing its resources. -/
  | blockRetire (core : Nat) (block : Nat)
  /-- LAUNCH_STOP_SAVE_COMPLETE (R95). The save of a launch stopped on a core ends, and the core becomes free. -/
  | launchStopSaveComplete (core : Nat)
  /-- L1_FILL (R252). A fill arrives at the L1 and is installed, merged with later stores, or only delivered. -/
  | l1Fill (core : Nat) (line : Nat)
  /-- VAULT_READ (R33). A vault delivers a sector after decoding it as clean, corrected, uncorrectable or poisoned. -/
  | vaultRead (pa : Nat)
  /-- EVICTION_DRAIN (R261). The oldest eviction-buffer entry is accepted by the vault and leaves the buffer. -/
  | evictionDrain (cluster : Nat)
  /-- SCRUB_READ (R45). The scrubber reads a sector and corrects it, rewrites it from the cache or poisons it. -/
  | scrubRead (vault : Nat)
  /-- SCRUB_PASS_START (R57). At each scrub period a vault starts a new scrub pass. -/
  | scrubPassStart (vault : Nat)
  /-- REFRESH (R54). The vault issues refresh commands at the rate of each layer's band. -/
  | refresh (vault : Nat) (layer : Nat)
  /-- TEMPERATURE_EVALUATION (R52). Every millisecond each layer's temperature is evaluated and its refresh band selected. -/
  | temperatureEvaluation (r : Readings)
  /-- DOORBELL (R375). A doorbell message sets a queue's write position and pending bit, or is refused or stale. -/
  | doorbell (m : Msg)
  /-- QUEUE_FETCH (R375). The fetch loop fetches and checks the packets of an active queue until it turns idle. -/
  | queueFetch (q : Nat)
  /-- PRE_DECODE (R387). While a WAIT is unresolved, the Desk pre-decodes up to 16 following packets. -/
  | preDecode (q : Nat)
  /-- NOP_COMMAND (R379). Command that does nothing but can signal on completion. -/
  | nopCommand (q : Nat)
  /-- LAUNCH (R382). Reads and checks a launch descriptor and starts the launch's blocks. -/
  | launch (q : Nat)
  /-- LAUNCH_COMPLETE (R384). A launch completes when its blocks have retired and its accesses have completed. -/
  | launchComplete (launch : Nat)
  /-- WAIT (R386). Registers a queue watch and puts the queue in WAITING until the tally meets the target. -/
  | wait (q : Nat)
  /-- QUEUE_WAIT_POLL (R386). A WAIT refused a watch entry polls its tally every 256 Desk cycles. -/
  | queueWaitPoll (q : Nat)
  /-- EVENT_WATCH (R320). Registers an event watch that sends tally events to a host session. -/
  | eventWatch (q : Nat)
  /-- CACHE_MAINT (R266). Cache maintenance over a virtual or physical range, or whole caches. -/
  | cacheMaint (q : Nat)
  /-- CONTEXT_CREATE (R359). Creates a context with its root, entries and dirty map in a carrel. -/
  | contextCreate (q : Nat)
  /-- CONTEXT_TEARDOWN (R361). Begins teardown of a context, cancelling its queued commands. -/
  | contextTeardown (q : Nat)
  /-- CONTEXT_TEARDOWN_COMPLETE (R361). Once nothing remains in flight, the mappings are removed, the tallies abandoned and the context becomes FREE. -/
  | contextTeardownComplete (ctx : Nat)
  /-- MAP (R348). Maps a run of pages with a leaf image. -/
  | mapPages (q : Nat)
  /-- UNMAP (R350). Removes a run of mappings and invalidates cached entries. -/
  | unmapPages (q : Nat)
  /-- PROTECT (R350). Changes the permissions and memory type of a run of mappings. -/
  | protect (q : Nat)
  /-- MAPPING_CHANGE_COMPLETE (R350). An unmap or protect completes once every access translated with an old entry has ended. -/
  | mappingChangeComplete (q : Nat)
  /-- CARREL_SET (R338). Writes a carrel's definition as a transaction applied at the boundary. -/
  | carrelSet (q : Nat)
  /-- TALLY_ASSIGN (R314). Assigns a range of tallies to a context with an initial value. -/
  | tallyAssign (q : Nat)
  /-- TALLY_RELEASE (R315). Abandons and frees a range of tallies. -/
  | tallyRelease (q : Nat)
  /-- TALLY_READ (R379). Writes a tally's whole state to context 0 memory. -/
  | tallyRead (q : Nat)
  /-- PAGE_RETIRE (R49). Retires one DRAM page in the field, moving table-area data if needed. -/
  | pageRetire (q : Nat)
  /-- QUEUE_CREATE (R371). Creates a queue in IDLE for a context and class. -/
  | queueCreate (q : Nat)
  /-- QUEUE_DESTROY (R371). Disables a queue and unbinds its slot. -/
  | queueDestroy (q : Nat)
  /-- QUEUE_RESUME (R388). QUEUE_CONTROL resume continues a halted queue at READ_POS. -/
  | queueResume (q : Nat)
  /-- QUEUE_HALT (R388). QUEUE_CONTROL halt stops fetching and removes the pending watch. -/
  | queueHalt (q : Nat)
  /-- QUEUE_FLUSH (R388). QUEUE_CONTROL flush skips a halted queue's unfetched packets. -/
  | queueFlush (q : Nat)
  /-- RECALL (R467). Queues a Recall of a loaned context, ahead of waiting Folio commands. -/
  | recall (q : Nat)
  /-- FOLIO_WRITE (R467). Queues the writing of a Folio image of a loaned context. -/
  | folioWrite (q : Nat)
  /-- FOLIO_RESTORE (R484). Queues the restore of a Folio chain into a target context. -/
  | folioRestore (q : Nat)
  /-- MIGRATE_SUPPLY (R353). The host supplies a page, and the unit starts its RDMA READ. -/
  | migrateSupply (m : Msg)
  /-- MIGRATE_REFUSE (R354). The host refuses a migration, and every queued engine fails. -/
  | migrateRefuse (m : Msg)
  /-- MIGRATION_COMPLETE (R353). The page is written, the leaf becomes KIND 1, and the queued engines resume. -/
  | migrationComplete (rec : Nat)
  /-- OPEN (R416). Opens a session from an allowed address and replies with OPEN_REPLY. -/
  | openSession (m : Msg)
  /-- CLOSE (R418). Closes a session and everything bound to it. -/
  | closeSession (m : Msg)
  /-- ACK (R417). Acknowledges sequenced messages; GAP prompts an immediate resend. -/
  | ack (m : Msg)
  /-- SMT_ACK_TIMER (R417). A receiver acknowledges 2 µs after the oldest unacknowledged message. -/
  | smtAckTimer (session : Nat)
  /-- SMT_RESEND_TIMER (R417). With no progress in ACK, the sender resends with a doubling wait. -/
  | smtResendTimer (session : Nat)
  /-- SESSION_LOST (R418). After 12 resends without progress, the session is lost with everything bound to it. -/
  | sessionLost (session : Nat)
  /-- COMMAND (R420). An operator session writes command packets to queue 0 and rings its doorbell. -/
  | command (m : Msg)
  /-- CONNECT (R421). Creates a RoCEv2 connection, optionally bound to a queue. -/
  | connect (m : Msg)
  /-- DISCONNECT (R414). Removes a RoCEv2 connection, failing its outstanding accesses. -/
  | disconnect (m : Msg)
  /-- FOLIO_STORED (R478). The host confirms durable storage of an image on one session. -/
  | folioStored (m : Msg)
  /-- FOLIO_READ_DATA (R478). The host returns a segment of an image for a restore. -/
  | folioReadData (m : Msg)
  /-- FOLIO_REFUSE (R482). The host refuses an image, which fails with folio sink failed. -/
  | folioRefuse (m : Msg)
  /-- CAT_READ (R504). Reads an entry, or a segment of it. -/
  | catRead (m : Msg)
  /-- CAT_WRITE (R493). Writes an entry that has no behaviour of its own, under its access class. -/
  | catWrite (m : Msg)
  /-- DESCRIBE (R498). Returns an entry's descriptor. -/
  | describe (m : Msg)
  /-- TXN (R508). Checks a transaction of items and accepts it for the next boundary, or refuses it whole. -/
  | txn (m : Msg)
  /-- WRITE_SEG (R505). Delivers one segment of a segmented octet write. -/
  | writeSeg (m : Msg)
  /-- SCRUB_PERIOD_H_WRITE (R57). A write of the scrub period changes the period or starts a pass in each vault. -/
  | scrubPeriodHWrite (m : Msg)
  /-- CARREL_ENTRY_WRITE (R338). A write of a carrel entry is checked and applied as an RWS write. -/
  | carrelEntryWrite (m : Msg)
  /-- STEEP_ALIGN_WRITE (R368). Setting STEEP_ALIGN claims the step control of the time base. -/
  | steepAlignWrite (m : Msg)
  /-- LINK_MODE_WRITE (R404). A written link mode restarts the port's link at once. -/
  | linkModeWrite (m : Msg)
  /-- PTP_MODE_WRITE (R432). A written PTP mode claims the PTP function and possibly the step control. -/
  | ptpModeWrite (m : Msg)
  /-- FW_STAGE_WRITE (R530). The last segment of a staged image is checked against the presence window and the header. -/
  | fwStageWrite (m : Msg)
  /-- DRAM_COUNTERS_CLEAR (R56). Sets the DRAM error and layer counters to zero. -/
  | dramCountersClear (m : Msg)
  /-- TALLY_COUNTERS_CLEAR (R334). Sets the tally counters to zero. -/
  | tallyCountersClear (m : Msg)
  /-- CC_MAINT_CLEAN (R274). Cleans every cluster cache and, optionally, every L1. -/
  | ccMaintClean (m : Msg)
  /-- CC_MAINT_INVALIDATE (R274). Invalidates every cluster cache and, optionally, every L1. -/
  | ccMaintInvalidate (m : Msg)
  /-- CC_MAINT_CLEAN_INVALIDATE (R274). Cleans then invalidates every cluster cache and, optionally, every L1. -/
  | ccMaintCleanInvalidate (m : Msg)
  /-- PEER_SET (R429). Writes a peer-table entry and restarts its channels at SEQ 0. -/
  | peerSet (m : Msg)
  /-- PLAN_SET (R437). Installs a reduction or re-shard plan and claims its staging pools. -/
  | planSet (m : Msg)
  /-- PLAN_CLEAR (R439). Clears a plan, failing any running step. -/
  | planClear (m : Msg)
  /-- WARM_RESET (R558). Catalogue action that begins a warm reset after the reply. -/
  | warmReset (m : Msg)
  /-- POWER_DOWN (R576). Begins an orderly power-down. -/
  | powerDown (m : Msg)
  /-- DOMAIN_RESET (R561). Begins the reset of one cluster or port domain. -/
  | domainReset (m : Msg)
  /-- DOMAIN_RESET_COMPLETE (R561). After the clean and 1 µs of reset, the domain's clock restarts and its cores or link rejoin. -/
  | domainResetComplete (dom : Nat)
  /-- KEY_REVOKE (R541). Blows the revocation fuse of a vendor key. -/
  | keyRevoke (m : Msg)
  /-- FW_COMMIT (R531). Verifies the staged image and starts writing it to the flash. -/
  | fwCommit (m : Msg)
  /-- FW_COMMIT_COMPLETE (R531). Programming and read-back end, busy clears, a STATUS message is sent and held resets are taken. -/
  | fwCommitComplete (programmed : Bool)
  /-- ATTEST (R544). Measures the firmware and protected entries and returns a signed report. -/
  | attest (m : Msg)
  /-- RDMA_WRITE (R411). An incoming RoCEv2 RDMA WRITE is checked and performed in the named context. -/
  | rdmaWrite (p : RocePacket)
  /-- RDMA_READ (R411). An incoming RoCEv2 RDMA READ is checked and answered. -/
  | rdmaRead (p : RocePacket)
  /-- SEND (R412). A SEND on a bound connection writes packets to the ring and acts as a doorbell. -/
  | send (p : RocePacket)
  /-- ROCE_ACK (R413). A host acknowledgement completes the device's RDMA WRITEs. -/
  | roceAck (p : RocePacket)
  /-- RDMA_READ_RESPONSE (R413). A host read response completes a device-issued RDMA READ. -/
  | rdmaReadResponse (p : RocePacket)
  /-- ROCE_NAK (R414). A NAK from the host fails the connection and its outstanding accesses. -/
  | roceNak (p : RocePacket)
  /-- ROCE_RETRY_TIMER (R410). An unanswered request is retried. -/
  | roceRetryTimer (conn : Nat)
  /-- CONNECTION_FAILED (R414). After 7 retries the connection fails, and its accesses complete with host connection lost. -/
  | connectionFailed (conn : Nat)
  /-- CNP (R414). A Congestion Notification Packet halves the connection's sending rate. -/
  | cnp (conn : Nat)
  /-- PFC_FRAME (R408). A received priority flow control frame pauses the named priorities. -/
  | pfcFrame (port : Nat) (mask : BitVec 8) (quanta : List Nat)
  /-- PFC_PAUSE_EXPIRY (R408). The pause time of a priority expires, and sending resumes. -/
  | pfcPauseExpiry (port : Nat) (prio : Nat)
  /-- ARP (R406). An ARP request or reply is answered or resolves a held address. -/
  | arp (a : AddrMsg)
  /-- NEIGHBOR_DISCOVERY (R406). An IPv6 Neighbor Discovery message is answered or resolves a held address. -/
  | neighborDiscovery (a : AddrMsg)
  /-- ICMP_ECHO (R403). An ICMP or ICMPv6 echo request is answered. -/
  | icmpEcho (e : EchoMsg)
  /-- PTP_MESSAGE (R432). An IEEE 1588 message adjusts the time base by slewing or stepping. -/
  | ptpMessage (port : Nat) (m : PtpMsg)
  /-- UNSUPPORTED_FRAME (R402). A frame of another protocol, VLAN or size is discarded and counted in RX_DROPPED. -/
  | unsupportedFrame (u : OddFrame)
  /-- LINK_STATE_CHANGE (R404). A port's link trains, comes up or goes down. -/
  | linkStateChange (port : Nat) (change : LinkChange)
  /-- PEER_WRITE (R430). An incoming Peer Transport WRITE is checked and performed. -/
  | peerWrite (p : PeerFrame)
  /-- PEER_READ (R430). An incoming Peer Transport READ is checked and answered. -/
  | peerRead (p : PeerFrame)
  /-- PEER_ATOMIC (R430). An incoming Peer Transport ATOMIC is checked and performed. -/
  | peerAtomic (p : PeerFrame)
  /-- READ_RESP (R430). A peer's read response completes a read at the requester. -/
  | readResp (p : PeerFrame)
  /-- ATOMIC_RESP (R430). A peer's atomic response completes an atomic at the requester. -/
  | atomicResp (p : PeerFrame)
  /-- WRITE_ACK (R430). A peer's write acknowledgement completes a write at the requester. -/
  | writeAck (p : PeerFrame)
  /-- KEEPALIVE (R428). A received keepalive resets a channel's miss count and can bring the entry up. -/
  | keepalive (p : PeerFrame)
  /-- KEEPALIVE_TIMER (R428). Every 10 µs each channel of an idle or up entry sends a keepalive. -/
  | keepaliveTimer (peer : Nat) (port : Nat)
  /-- KEEPALIVE_CHECK (R428). Every 10 µs the receiver raises the miss count of each silent channel. -/
  | keepaliveCheck (peer : Nat) (port : Nat)
  /-- PEER_LOST (R301). A miss count of 3 makes the entry lost, and every access to the peer completes with peer lost. -/
  | peerLost (peer : Nat)
  /-- PEER_RESEND_TIMER (R427). A peer channel resends after 4 µs without progress. -/
  | peerResendTimer (peer : Nat) (port : Nat)
  /-- PEER_ACK_TIMER (R427). A peer channel acknowledges 1 µs after an unacknowledged frame. -/
  | peerAckTimer (peer : Nat) (port : Nat)
  /-- REDUCE (R444). A REDUCE frame is staged, added to the local contribution and forwarded or written. -/
  | reduce (p : PeerFrame)
  /-- ABORT (R458). An ABORT fails the plan at the step and is forwarded. -/
  | abort (p : PeerFrame)
  /-- RESHARD_WRITE (R456). A re-shard write is performed and counted toward the step. -/
  | reshardWrite (p : PeerFrame)
  /-- PLAN_CONTROL_POLL (R441). Every 256 cycles the engine reads a plan's control block and starts requested steps. -/
  | planControlPoll (plan : Nat)
  /-- PLAN_STEP_COMPLETE (R442). A plan step meets its conditions, and DONE is written with release. -/
  | planStepComplete (plan : Nat)
  /-- SEAL_PERIOD (R535). Every 10 µs the tamper loop is driven and sampled for a mismatch. -/
  | sealPeriod (firstHalf : Bool) (secondHalf : Bool)
  /-- PORST_N_RELEASE (R564). Release of PORST_N starts the start-up sequence at step 2. -/
  | porstNRelease (flash : List Byte)
  /-- STARTUP_STEP_COMPLETE (R564). A start-up step ends, and the next begins, or recovery mode is entered on failure. -/
  | startupStepComplete (e : StartEnv)
  /-- JTAG_INSTRUCTION (R593). A JTAG instruction acts as BYPASS or IDCODE unless JTAG is unlocked. -/
  | jtagInstruction (ir : JtagOp)
  /-- CORE_GRANT_RESTORE_DONE (R97). The restore of a stopped launch's saved state on its core ends; the launch's groups may issue again, with barrier arrival bits set first. -/
  | coreGrantRestoreDone (core : Nat)
  /-- UNDEFINED_OPCODE (R107). A group issues an instruction whose opcode is shown as reserved, which raises the illegal-instruction fault. -/
  | undefinedOpcode (g : GroupRef) (w : BitVec 64)
  /-- ETH_REFCLK_LOSS (R551). An Ethernet reference clock input is lost, and the clocks of the port domains it serves stop. -/
  | ethRefclkLoss (n : Nat)
  /-- ETH_REFCLK_RETURN (R555). An absent Ethernet reference clock returns, the port domains' clocks restart, and accesses waiting in the crossings proceed. -/
  | ethRefclkReturn (n : Nat)
  /-- THERMAL_TRIP (R574). An excess temperature asserts THERMTRIP_N, stops every clock but domain 0, records LAST_TRIP_C and drives STOPPED_N low. -/
  | thermalTrip
  /-- STEEP_BOUNDARY (R393). At a boundary the Desk ends overruns, applies transactions, fixes the floor, updates promotion and admits serving work. -/
  | steepBoundary
  /-- FOLIO_COMMAND_START (R463). The Folio unit starts its next command and makes its claims. -/
  | folioCommandStart
  /-- FOLIO_FREEZE_COMPLETE (R467). Every save of the frozen context ends, and image writing begins. -/
  | folioFreezeComplete
  /-- FOLIO_IMAGE_COMPLETE (R479). Every item write has completed, the seal is written and the chain position recorded, or the image fails. -/
  | folioImageComplete
  /-- FOLIO_RESTORE_COMPLETE (R486). After every image is checked, the last image's state is installed and the target becomes LIVE. -/
  | folioRestoreComplete
  /-- CC_MAINT_COMPLETE (R268). A whole-cache walk ends, its writes have been accepted, and CC_MAINT_BUSY clears. -/
  | ccMaintComplete
  /-- POWER_DOWN_COMPLETE (R576). Once writes drain and the caches are clean, every clock but domain 0 stops and STOPPED_N goes low. -/
  | powerDownComplete
  /-- PRESENCE_WINDOW_OPEN (R537). After PRESENCE_N has been held low for 2 s with the loop intact, a 300 s window opens or restarts. -/
  | presenceWindowOpen
  /-- PRESENCE_WINDOW_CLOSE (R538). The presence window reaches its end and closes. -/
  | presenceWindowClose
  /-- SEAL_BROKEN_LATCH (R535). Three consecutive mismatches latch SEAL_BROKEN and close the presence window. -/
  | sealBrokenLatch
  /-- PORST_N_ASSERT (R557). PORST_N driven low begins a cold reset that overrides everything. -/
  | porstNAssert
  /-- WARMRST_N_RISE (R558). WARMRST_N rising after 1 µs low begins a warm reset. -/
  | warmrstNRise
  /-- POWER_LOSS (R309). Power is lost, and nothing is promised about writes, caches or DRAM. -/
  | powerLoss
  deriving DecidableEq, Repr

end Sys2Proof
end

