-- ==== Sys2Proof/Decode.lean ====
section
/-! DEFINITION. The 64-bit word of a core instruction: the five formats and the opcode map of 04_instruction_set.md (R98 to
R107). No row of spec/opcode_table.json gives bits, so `decodeTableWord` answers none. -/

namespace Sys2Proof

/-- GUARD, bits [12:8]. -/
def encGuard (g : Guard) : BitVec 5 := BitVec.ofBool g.en ++ BitVec.ofBool g.neg ++ g.pred

/-- GUARD of a word. -/
def decGuard (w : DWord) : Guard := { en := w.getLsbD 12, neg := w.getLsbD 11, pred := w.extractLsb' 8 3 }

/-- The R format. -/
def encR (op : Byte) (f : RFields) : DWord :=
  f.mod ++ BitVec.ofBool f.reuseC ++ BitVec.ofBool f.reuseB ++ BitVec.ofBool f.reuseA ++ f.srcC ++ f.srcB ++ f.srcA ++ f.dst ++
    encGuard f.guard ++ op

/-- The R format of a word. -/
def decR (w : DWord) : RFields :=
  { guard := decGuard w, dst := w.extractLsb' 13 9, srcA := w.extractLsb' 22 9, srcB := w.extractLsb' 31 9,
    srcC := w.extractLsb' 40 9, reuseA := w.getLsbD 49, reuseB := w.getLsbD 50, reuseC := w.getLsbD 51,
    mod := w.extractLsb' 52 12 }

/-- The I format. -/
def encI (op : Byte) (f : IFields) : DWord :=
  f.imm ++ BitVec.ofBool f.reuseA ++ f.srcA ++ f.dst ++ encGuard f.guard ++ op

/-- The I format of a word. -/
def decI (w : DWord) : IFields :=
  { guard := decGuard w, dst := w.extractLsb' 13 9, srcA := w.extractLsb' 22 9, reuseA := w.getLsbD 31,
    imm := w.extractLsb' 32 32 }

/-- The M format. -/
def encM (op : Byte) (f : MFields) : DWord :=
  f.offset ++ BitVec.ofBool f.reuseD2 ++ BitVec.ofBool f.reuseAddr ++ BitVec.ofBool f.reuseData ++ BitVec.ofBool f.sext ++
    BitVec.ofBool f.space ++ f.sem ++ f.cache ++ f.size ++ f.data2 ++ f.addr ++ f.data ++ encGuard f.guard ++ op

/-- The M format of a word. -/
def decM (w : DWord) : MFields :=
  { guard := decGuard w, data := w.extractLsb' 13 9, addr := w.extractLsb' 22 9, data2 := w.extractLsb' 31 9,
    size := w.extractLsb' 40 3, cache := w.extractLsb' 43 2, sem := w.extractLsb' 45 2, space := w.getLsbD 47,
    sext := w.getLsbD 48, reuseData := w.getLsbD 49, reuseAddr := w.getLsbD 50, reuseD2 := w.getLsbD 51,
    offset := w.extractLsb' 52 12 }

/-- The B format. -/
def encB (op : Byte) (f : BFields) : DWord :=
  BitVec.ofBool f.rsv ++ f.reconv ++ f.target ++ encGuard f.guard ++ op

/-- The B format of a word. -/
def decB (w : DWord) : BFields :=
  { guard := decGuard w, target := w.extractLsb' 13 25, reconv := w.extractLsb' 38 25, rsv := w.getLsbD 63 }

/-- The X format. -/
def encX (op : Byte) (f : XFields) : DWord :=
  f.rsv ++ f.caddy ++ f.expand ++ f.kM1 ++ f.bOff ++ f.aOff ++ BitVec.ofBool f.axisB ++ BitVec.ofBool f.axisA ++ f.fmtB ++
    f.fmtA ++ BitVec.ofBool f.zero ++ f.acc ++ encGuard f.guard ++ op

/-- The X format of a word. -/
def decX (w : DWord) : XFields :=
  { guard := decGuard w, acc := w.extractLsb' 13 3, zero := w.getLsbD 16, fmtA := w.extractLsb' 17 4,
    fmtB := w.extractLsb' 21 4, axisA := w.getLsbD 25, axisB := w.getLsbD 26, aOff := w.extractLsb' 27 11,
    bOff := w.extractLsb' 38 11, kM1 := w.extractLsb' 49 9, expand := w.extractLsb' 58 2, caddy := w.extractLsb' 60 2,
    rsv := w.extractLsb' 62 2 }

/-- The command for the instruction word `w` in group `g`: an opcode that the map shows as reserved is UNDEFINED_OPCODE
(R107). -/
def decodeWord (g : GroupRef) (w : DWord) : Instr :=
  match (w.extractLsb' 0 8).toNat with
  | 0x00 => .nop g (decR w)
  | 0x01 => .bra g (decB w)
  | 0x02 => .call g (decB w)
  | 0x03 => .jmpR g (decR w)
  | 0x04 => .exit g (decR w)
  | 0x05 => .brk g (decR w)
  | 0x06 => .rdSv g (decR w)
  | 0x07 => .flgRd g (decR w)
  | 0x08 => .flgClr g (decR w)
  | 0x09 => .vote g (decR w)
  | 0x0A => .shfl g (decR w)
  | 0x10 => .add g (decR w)
  | 0x11 => .sub g (decR w)
  | 0x12 => .mulLo g (decR w)
  | 0x13 => .mulHi g (decR w)
  | 0x14 => .mad g (decR w)
  | 0x15 => .div g (decR w)
  | 0x16 => .rem g (decR w)
  | 0x17 => .min g (decR w)
  | 0x18 => .max g (decR w)
  | 0x19 => .abs g (decR w)
  | 0x1A => .neg g (decR w)
  | 0x1B => .popc g (decR w)
  | 0x1C => .clz g (decR w)
  | 0x1D => .brev g (decR w)
  | 0x20 => .and g (decR w)
  | 0x21 => .or g (decR w)
  | 0x22 => .xor g (decR w)
  | 0x23 => .not g (decR w)
  | 0x24 => .shl g (decR w)
  | 0x25 => .shr g (decR w)
  | 0x26 => .sar g (decR w)
  | 0x27 => .rot g (decR w)
  | 0x28 => .bfe g (decR w)
  | 0x29 => .bfi g (decR w)
  | 0x2A => .bfn3 g (decR w)
  | 0x2B => .setp g (decR w)
  | 0x2C => .sel g (decR w)
  | 0x2D => .mov g (decR w)
  | 0x2E => .prmt g (decR w)
  | 0x2F => .plop g (decR w)
  | 0x30 => .addI g (decI w)
  | 0x31 => .mulI g (decI w)
  | 0x32 => .andI g (decI w)
  | 0x33 => .orI g (decI w)
  | 0x34 => .xorI g (decI w)
  | 0x35 => .shlI g (decI w)
  | 0x36 => .shrI g (decI w)
  | 0x37 => .sarI g (decI w)
  | 0x38 => .movi g (decI w)
  | 0x39 => .setpI g (decI w)
  | 0x3A => .minI g (decI w)
  | 0x3B => .maxI g (decI w)
  | 0x40 => .fadd g (decR w)
  | 0x41 => .fsub g (decR w)
  | 0x42 => .fmul g (decR w)
  | 0x43 => .fma g (decR w)
  | 0x44 => .fmin g (decR w)
  | 0x45 => .fmax g (decR w)
  | 0x46 => .fabs g (decR w)
  | 0x47 => .fneg g (decR w)
  | 0x48 => .fsetp g (decR w)
  | 0x49 => .fclass g (decR w)
  | 0x4A => .frcp g (decR w)
  | 0x4B => .frsq g (decR w)
  | 0x4C => .fex2 g (decR w)
  | 0x4D => .flg2 g (decR w)
  | 0x50 => .cvt g (decR w)
  | 0x51 => .cvtPk g (decR w)
  | 0x52 => .cvtUp g (decR w)
  | 0x53 => .cdyFit g (decR w)
  | 0x60 => .ld g (decM w)
  | 0x61 => .st g (decM w)
  | 0x62 => .ldRes g (decM w)
  | 0x63 => .stCond g (decM w)
  | 0x64 => .fenceOrder g (decR w)
  | 0x65 => .fenceDone g (decR w)
  | 0x66 => .cmo g (decR w)
  | 0x67 => .cmoSw g (decR w)
  | 0x70 => .atomAdd g (decM w)
  | 0x71 => .atomMin g (decM w)
  | 0x72 => .atomMax g (decM w)
  | 0x73 => .atomAnd g (decM w)
  | 0x74 => .atomOr g (decM w)
  | 0x75 => .atomXor g (decM w)
  | 0x76 => .atomExch g (decM w)
  | 0x77 => .atomCas g (decM w)
  | 0x80 => .tlySig g (decR w)
  | 0x81 => .tlyAdd g (decR w)
  | 0x82 => .tlyWait g (decR w)
  | 0x83 => .tlyPoll g (decR w)
  | 0x84 => .barBlk g (decR w)
  | 0x85 => .barDev g (decR w)
  | 0x90 => .mxLd g (decR w)
  | 0x91 => .mxLdx g (decR w)
  | 0x92 => .mxOp g (decX w)
  | 0x93 => .mxSt g (decR w)
  | 0x94 => .mxZero g (decR w)
  | 0x95 => .mxSync g (decR w)
  | 0xA0 => .tsRun g (decR w)
  | 0xA1 => .tsWait g (decR w)
  | _ => .undefinedOpcode g w

/-- The word of a core instruction; none for a command that is none. -/
def encodeWord : Instr → Option DWord
  | .nop _ f => some (encR 0x00 f)
  | .bra _ f => some (encB 0x01 f)
  | .call _ f => some (encB 0x02 f)
  | .jmpR _ f => some (encR 0x03 f)
  | .exit _ f => some (encR 0x04 f)
  | .brk _ f => some (encR 0x05 f)
  | .rdSv _ f => some (encR 0x06 f)
  | .flgRd _ f => some (encR 0x07 f)
  | .flgClr _ f => some (encR 0x08 f)
  | .vote _ f => some (encR 0x09 f)
  | .shfl _ f => some (encR 0x0A f)
  | .add _ f => some (encR 0x10 f)
  | .sub _ f => some (encR 0x11 f)
  | .mulLo _ f => some (encR 0x12 f)
  | .mulHi _ f => some (encR 0x13 f)
  | .mad _ f => some (encR 0x14 f)
  | .div _ f => some (encR 0x15 f)
  | .rem _ f => some (encR 0x16 f)
  | .min _ f => some (encR 0x17 f)
  | .max _ f => some (encR 0x18 f)
  | .abs _ f => some (encR 0x19 f)
  | .neg _ f => some (encR 0x1A f)
  | .popc _ f => some (encR 0x1B f)
  | .clz _ f => some (encR 0x1C f)
  | .brev _ f => some (encR 0x1D f)
  | .and _ f => some (encR 0x20 f)
  | .or _ f => some (encR 0x21 f)
  | .xor _ f => some (encR 0x22 f)
  | .not _ f => some (encR 0x23 f)
  | .shl _ f => some (encR 0x24 f)
  | .shr _ f => some (encR 0x25 f)
  | .sar _ f => some (encR 0x26 f)
  | .rot _ f => some (encR 0x27 f)
  | .bfe _ f => some (encR 0x28 f)
  | .bfi _ f => some (encR 0x29 f)
  | .bfn3 _ f => some (encR 0x2A f)
  | .setp _ f => some (encR 0x2B f)
  | .sel _ f => some (encR 0x2C f)
  | .mov _ f => some (encR 0x2D f)
  | .prmt _ f => some (encR 0x2E f)
  | .plop _ f => some (encR 0x2F f)
  | .addI _ f => some (encI 0x30 f)
  | .mulI _ f => some (encI 0x31 f)
  | .andI _ f => some (encI 0x32 f)
  | .orI _ f => some (encI 0x33 f)
  | .xorI _ f => some (encI 0x34 f)
  | .shlI _ f => some (encI 0x35 f)
  | .shrI _ f => some (encI 0x36 f)
  | .sarI _ f => some (encI 0x37 f)
  | .movi _ f => some (encI 0x38 f)
  | .setpI _ f => some (encI 0x39 f)
  | .minI _ f => some (encI 0x3A f)
  | .maxI _ f => some (encI 0x3B f)
  | .fadd _ f => some (encR 0x40 f)
  | .fsub _ f => some (encR 0x41 f)
  | .fmul _ f => some (encR 0x42 f)
  | .fma _ f => some (encR 0x43 f)
  | .fmin _ f => some (encR 0x44 f)
  | .fmax _ f => some (encR 0x45 f)
  | .fabs _ f => some (encR 0x46 f)
  | .fneg _ f => some (encR 0x47 f)
  | .fsetp _ f => some (encR 0x48 f)
  | .fclass _ f => some (encR 0x49 f)
  | .frcp _ f => some (encR 0x4A f)
  | .frsq _ f => some (encR 0x4B f)
  | .fex2 _ f => some (encR 0x4C f)
  | .flg2 _ f => some (encR 0x4D f)
  | .cvt _ f => some (encR 0x50 f)
  | .cvtPk _ f => some (encR 0x51 f)
  | .cvtUp _ f => some (encR 0x52 f)
  | .cdyFit _ f => some (encR 0x53 f)
  | .ld _ f => some (encM 0x60 f)
  | .st _ f => some (encM 0x61 f)
  | .ldRes _ f => some (encM 0x62 f)
  | .stCond _ f => some (encM 0x63 f)
  | .fenceOrder _ f => some (encR 0x64 f)
  | .fenceDone _ f => some (encR 0x65 f)
  | .cmo _ f => some (encR 0x66 f)
  | .cmoSw _ f => some (encR 0x67 f)
  | .atomAdd _ f => some (encM 0x70 f)
  | .atomMin _ f => some (encM 0x71 f)
  | .atomMax _ f => some (encM 0x72 f)
  | .atomAnd _ f => some (encM 0x73 f)
  | .atomOr _ f => some (encM 0x74 f)
  | .atomXor _ f => some (encM 0x75 f)
  | .atomExch _ f => some (encM 0x76 f)
  | .atomCas _ f => some (encM 0x77 f)
  | .tlySig _ f => some (encR 0x80 f)
  | .tlyAdd _ f => some (encR 0x81 f)
  | .tlyWait _ f => some (encR 0x82 f)
  | .tlyPoll _ f => some (encR 0x83 f)
  | .barBlk _ f => some (encR 0x84 f)
  | .barDev _ f => some (encR 0x85 f)
  | .mxLd _ f => some (encR 0x90 f)
  | .mxLdx _ f => some (encR 0x91 f)
  | .mxOp _ f => some (encX 0x92 f)
  | .mxSt _ f => some (encR 0x93 f)
  | .mxZero _ f => some (encR 0x94 f)
  | .mxSync _ f => some (encR 0x95 f)
  | .tsRun _ f => some (encR 0xA0 f)
  | .tsWait _ f => some (encR 0xA1 f)
  | .undefinedOpcode _ w => some w
  | .fenceDoneRelease _ => none
  | .releasePerform _ => none
  | .accessComplete _ => none
  | .watchWake _ => none
  | .deviceBarrierRelease _ => none
  | .mxStart _ _ => none
  | .mxComplete _ _ => none
  | .tsDescriptorStart _ _ => none
  | .gatePoll _ _ => none
  | .translationPrefetch _ _ _ => none
  | .tilePublish _ _ => none
  | .counterObserve _ _ => none
  | .storeTileRead _ _ => none
  | .tsDescriptorFinish _ _ => none
  | .digestComplete _ _ => none
  | .blockPlacement _ _ => none
  | .blockRetire _ _ => none
  | .launchStopSaveComplete _ => none
  | .l1Fill _ _ => none
  | .vaultRead _ => none
  | .evictionDrain _ => none
  | .scrubRead _ => none
  | .scrubPassStart _ => none
  | .refresh _ _ => none
  | .temperatureEvaluation _ => none
  | .thermalTrip => none
  | .steepBoundary => none
  | .doorbell _ => none
  | .queueFetch _ => none
  | .preDecode _ => none
  | .nopCommand _ => none
  | .launch _ => none
  | .launchComplete _ => none
  | .wait _ => none
  | .queueWaitPoll _ => none
  | .eventWatch _ => none
  | .cacheMaint _ => none
  | .contextCreate _ => none
  | .contextTeardown _ => none
  | .contextTeardownComplete _ => none
  | .mapPages _ => none
  | .unmapPages _ => none
  | .protect _ => none
  | .mappingChangeComplete _ => none
  | .carrelSet _ => none
  | .tallyAssign _ => none
  | .tallyRelease _ => none
  | .tallyRead _ => none
  | .pageRetire _ => none
  | .queueCreate _ => none
  | .queueDestroy _ => none
  | .queueResume _ => none
  | .queueHalt _ => none
  | .queueFlush _ => none
  | .recall _ => none
  | .folioWrite _ => none
  | .folioRestore _ => none
  | .folioCommandStart => none
  | .folioFreezeComplete => none
  | .folioImageComplete => none
  | .folioRestoreComplete => none
  | .migrateSupply _ => none
  | .migrateRefuse _ => none
  | .migrationComplete _ => none
  | .openSession _ => none
  | .closeSession _ => none
  | .ack _ => none
  | .smtAckTimer _ => none
  | .smtResendTimer _ => none
  | .sessionLost _ => none
  | .command _ => none
  | .connect _ => none
  | .disconnect _ => none
  | .folioStored _ => none
  | .folioReadData _ => none
  | .folioRefuse _ => none
  | .catRead _ => none
  | .catWrite _ => none
  | .describe _ => none
  | .txn _ => none
  | .writeSeg _ => none
  | .scrubPeriodHWrite _ => none
  | .carrelEntryWrite _ => none
  | .steepAlignWrite _ => none
  | .linkModeWrite _ => none
  | .ptpModeWrite _ => none
  | .fwStageWrite _ => none
  | .dramCountersClear _ => none
  | .tallyCountersClear _ => none
  | .ccMaintClean _ => none
  | .ccMaintInvalidate _ => none
  | .ccMaintCleanInvalidate _ => none
  | .ccMaintComplete => none
  | .peerSet _ => none
  | .planSet _ => none
  | .planClear _ => none
  | .warmReset _ => none
  | .powerDown _ => none
  | .powerDownComplete => none
  | .domainReset _ => none
  | .domainResetComplete _ => none
  | .keyRevoke _ => none
  | .fwCommit _ => none
  | .fwCommitComplete _ => none
  | .attest _ => none
  | .rdmaWrite _ => none
  | .rdmaRead _ => none
  | .send _ => none
  | .roceAck _ => none
  | .rdmaReadResponse _ => none
  | .roceNak _ => none
  | .roceRetryTimer _ => none
  | .connectionFailed _ => none
  | .cnp _ => none
  | .pfcFrame _ _ _ => none
  | .pfcPauseExpiry _ _ => none
  | .arp _ => none
  | .neighborDiscovery _ => none
  | .icmpEcho _ => none
  | .ptpMessage _ _ => none
  | .unsupportedFrame _ => none
  | .linkStateChange _ _ => none
  | .peerWrite _ => none
  | .peerRead _ => none
  | .peerAtomic _ => none
  | .readResp _ => none
  | .atomicResp _ => none
  | .writeAck _ => none
  | .keepalive _ => none
  | .keepaliveTimer _ _ => none
  | .keepaliveCheck _ _ => none
  | .peerLost _ => none
  | .peerResendTimer _ _ => none
  | .peerAckTimer _ _ => none
  | .reduce _ => none
  | .abort _ => none
  | .reshardWrite _ => none
  | .planControlPoll _ => none
  | .planStepComplete _ => none
  | .presenceWindowOpen => none
  | .presenceWindowClose => none
  | .sealPeriod _ _ => none
  | .sealBrokenLatch => none
  | .porstNAssert => none
  | .porstNRelease _ => none
  | .startupStepComplete _ => none
  | .warmrstNRise => none
  | .powerLoss => none
  | .jtagInstruction _ => none
  | .coreGrantRestoreDone _ => none
  | .ethRefclkLoss _ => none
  | .ethRefclkReturn _ => none

/-- Whether the opcode map shows an opcode as reserved (R107). -/
def opcodeReserved (op : Byte) : Bool :=
  let n := op.toNat
  let row (lo len : Nat) : Bool := decide (lo ≤ n) && decide (n < lo + len)
  !(row 0x00 11 || row 0x10 14 || row 0x20 16 || row 0x30 12 || row 0x40 14 || row 0x50 4 || row 0x60 8 || row 0x70 8 ||
    row 0x80 6 || row 0x90 6 || row 0xA0 2)

/-- The command that a table word spells: no row of the table gives bits. -/
def decodeTableWord (_nbits _w : Nat) : Option Instr := none

end Sys2Proof
end

