-- ==== Sys2Proof/Config.lean ====
section
/-! DEFINITION. What one die fixes (fuses) and what the spec leaves open: constants without a body, so that no proof can use
a value of theirs. -/

namespace Sys2Proof

/-- The byte of DRAM at address `pa` after its content was lost for the `n`-th time (R309, R557). -/
opaque Config.freeByte (n pa : Nat) : Byte

/-- The check symbols, XORed with those that R32 computes, of sector `k` after the `n`-th loss of content (R309, R557). -/
opaque Config.freeCheck (n k : Nat) : BitVec 16

/-- The `n`-th value drawn where the spec leaves a value open (LOG 6). -/
opaque Config.free (n : Nat) : Nat

/-- The fuse array's 40-bit records of factory-retired pages (02, Page retirement). -/
opaque Config.fuseRecords : List (BitVec 40)

/-- The revocation fuses as the part is shipped (R540). -/
opaque Config.fusedRevoked : BitVec 4

/-- The 32-byte digests of the four vendor key slots (R540). -/
opaque Config.keyDigest (slot : Nat) : List Byte

/-- The 16-byte serial number (R513). -/
opaque Config.serial : List Byte

/-- The fused MAC address of a port (R402, R433). -/
opaque Config.macAddr (port : Nat) : BitVec 48

/-- The die's unique secret of 32 bytes (R542). -/
opaque Config.uds : List Byte

/-- The next bit of the 16-bit linear-feedback sequence on SEAL_A, whose taps the spec does not give (R535). -/
opaque Config.lfsrNext (x : BitVec 16) : BitVec 16

/-- Whether `fma` of an infinity and a zero with a quiet NaN third operand sets invalid: IEEE 754-2019 leaves it to the
implementation, and R116 and R162 say no more. -/
opaque Config.fmaQuietInvalid : Bool

/-- Whether a local-store byte keeps the previous launch's value for a later launch of the same context (R240); `n` is the
draw and `off` the offset. -/
opaque Config.lsKept (n off : Nat) : Bool

end Sys2Proof
end

