-- ==== Sys2Proof/Machine/Sparse.lean ====
section
/-! DEFINITION. Sparse maps in canonical form, bit fields, byte strings and saturating counters: the plain helpers of
every other file. -/

namespace Sys2Proof.Machine

/-- The value at key `k`; an unlisted key reads as `d k`. -/
def sget {α : Type} (d : Nat → α) : List (Nat × α) → Nat → α
  | [], k => d k
  | (j, v) :: m, k => if k = j then v else if k < j then d k else sget d m k

/-- Write `v` at key `k`, keeping the keys rising and listing nothing that an unlisted key reads as. -/
def sput {α : Type} [DecidableEq α] (d : Nat → α) : List (Nat × α) → Nat → α → List (Nat × α)
  | [], k, v => if v = d k then [] else [(k, v)]
  | (j, w) :: m, k, v =>
    if k < j then (if v = d k then (j, w) :: m else (k, v) :: (j, w) :: m)
    else if k = j then (if v = d k then m else (j, v) :: m)
    else (j, w) :: sput d m k v

/-- The canonical form: keys strictly rising from `lo`, no listed default value. -/
def swfFrom {α : Type} [DecidableEq α] (d : Nat → α) : Nat → List (Nat × α) → Bool
  | _, [] => true
  | lo, (j, v) :: m => decide (lo ≤ j) && decide (v ≠ d j) && swfFrom d (j + 1) m

/-- The canonical form of a sparse map. -/
def swf {α : Type} [DecidableEq α] (d : Nat → α) (m : List (Nat × α)) : Bool := swfFrom d 0 m

/-- Keep the entries that `p` accepts. -/
def sfilter {α : Type} (p : Nat → α → Bool) (m : List (Nat × α)) : List (Nat × α) := m.filter fun e => p e.1 e.2

/-- Apply `f` to every listed value and drop what became the default. -/
def smap {α : Type} [DecidableEq α] (d : Nat → α) (f : Nat → α → α) (m : List (Nat × α)) : List (Nat × α) :=
  m.foldl (fun r e => sput d r e.1 (f e.1 e.2)) []

/-- Replace the keys `lo` to `lo + n - 1` by the values of `f`. -/
def sfill {α : Type} [DecidableEq α] (d : Nat → α) (m : List (Nat × α)) (lo n : Nat) (f : Nat → α) : List (Nat × α) :=
  m.filter (fun e => decide (e.1 < lo)) ++
  (List.range n).filterMap (fun i => if f i = d (lo + i) then none else some (lo + i, f i)) ++
  m.filter fun e => decide (lo + n ≤ e.1)

/-- Look up a map of optional values. -/
abbrev oget {α : Type} (m : List (Nat × Option α)) (k : Nat) : Option α := sget (fun _ => none) m k

/-- Write a map of optional values. -/
abbrev oput {α : Type} [DecidableEq α] (m : List (Nat × Option α)) (k : Nat) (v : Option α) : List (Nat × Option α) :=
  sput (fun _ => none) m k v

/-- The listed entries of a map of optional values. -/
def olist {α : Type} (m : List (Nat × Option α)) : List (Nat × α) :=
  m.filterMap fun e => e.2.map fun v => (e.1, v)

/-- Bits [lo + len - 1 : lo] of a word as a number (R8). -/
def fld {n : Nat} (x : BitVec n) (lo len : Nat) : Nat := (x.toNat >>> lo) % 2 ^ len

/-- Bit `i` of a word. -/
def bit {n : Nat} (x : BitVec n) (i : Nat) : Bool := x.getLsbD i

/-- A number placed at bit `lo` of an `n`-bit word, to be combined with `|||`. -/
def at_ (n lo v : Nat) : BitVec n := BitVec.ofNat n (v <<< lo)

/-- 1 or 0. -/
def b2n (b : Bool) : Nat := if b then 1 else 0

/-- `v` of `w` bits read as two's complement. -/
def sgn (w v : Nat) : Int := if v < 2 ^ (w - 1) then (v : Int) else (v : Int) - 2 ^ w

/-- The low `w` bits of an integer. -/
def wrapI (w : Nat) (x : Int) : Nat := (x % (2 ^ w : Int)).toNat

/-- Little-endian number of a byte string (R9). -/
def leNat : List Byte → Nat
  | [] => 0
  | b :: bs => b.toNat + 256 * leNat bs

/-- The `n` low bytes of a number, least significant first (R9). -/
def leBytes : Nat → Nat → List Byte
  | 0, _ => []
  | n + 1, v => BitVec.ofNat 8 v :: leBytes n (v / 256)

/-- Bytes `off` to `off + n - 1` of a byte string. -/
def sub (bs : List Byte) (off n : Nat) : List Byte := (bs.drop off).take n

/-- The bytes from `off` on, padded with zero to `n` bytes. -/
def padTo (n : Nat) (bs : List Byte) : List Byte := bs.take n ++ List.replicate (n - bs.length) 0

/-- A counter of `w` bits that saturates (R56, R334, R433, R460, R487). -/
def satAdd (w c k : Nat) : Nat := min (c + k) (2 ^ w - 1)

/-- Ceiling division. -/
def cdiv (a b : Nat) : Nat := (a + b - 1) / b

/-- The numbers below `n` for which `p` holds, ascending. -/
def below (n : Nat) (p : Nat → Bool) : List Nat := (List.range n).filter p

/-- The first number below `n` for which `p` holds. -/
def firstBelow (n : Nat) (p : Nat → Bool) : Option Nat := (List.range n).find? p

/-- The lanes of a mask, ascending. -/
def lanesOf (m : Word) : List Nat := below 32 fun l => bit m l

/-- The mask of a list of lanes. -/
def maskOf (ls : List Nat) : Word := ls.foldl (fun m l => m ||| (1#32 <<< l)) 0

/-- Bit `i` of a word set to `b`. -/
def setBit {n : Nat} (x : BitVec n) (i : Nat) (b : Bool) : BitVec n :=
  if b then x ||| (BitVec.ofNat n 1 <<< i) else x &&& ~~~(BitVec.ofNat n 1 <<< i)

/-- Replace bits [lo + len - 1 : lo] of a word by the low bits of `v`. -/
def setFld {n : Nat} (x : BitVec n) (lo len v : Nat) : BitVec n :=
  let mask : BitVec n := BitVec.ofNat n ((2 ^ len - 1) <<< lo)
  (x &&& ~~~mask) ||| (BitVec.ofNat n ((v % 2 ^ len) <<< lo))

/-- Fold a list of steps over a state. -/
def foldSt {σ α : Type} (xs : List α) (s : σ) (f : σ → α → σ) : σ := xs.foldl f s

/-- Replace the first element that `p` accepts. -/
def replaceFirst {α : Type} (p : α → Bool) (f : α → α) : List α → List α
  | [] => []
  | x :: xs => if p x then f x :: xs else x :: replaceFirst p f xs

/-- Insert keeping `key` ascending. -/
def insertBy {α : Type} (key : α → Nat) (x : α) : List α → List α
  | [] => [x]
  | y :: ys => if key x < key y then x :: y :: ys else y :: insertBy key x ys

end Sys2Proof.Machine
end

