-- ==== Sys2Proof/Machine/Flags.lean ====
section
/-! DEFINITION. The five sticky floating-point flags of a group (R112, R165). -/

namespace Sys2Proof.Machine

/-- Sticky flags (R112): [0] invalid, [1] division by zero, [2] overflow, [3] underflow, [4] inexact. -/
abbrev Flags := BitVec 5

/-- No flag. -/
def fNone : Flags := 0

/-- Invalid operation. -/
def fInvalid : Flags := 1

/-- Division by zero. -/
def fDivZero : Flags := 2

/-- Overflow. -/
def fOverflow : Flags := 4

/-- Underflow. -/
def fUnderflow : Flags := 8

/-- Inexact. -/
def fInexact : Flags := 16

end Sys2Proof.Machine
end

