-- ==== Sys2Proof/Machine/Float.lean ====
section
/-! DEFINITION. The long formats: binary16, binary32 and binary64 of IEEE 754-2019 with the device's NaN, tininess, flag
and subnormal rules (R116, R162 to R173, R604). Values are exact dyadic numbers between unpacking and one rounding. -/

namespace Sys2Proof.Machine

/-- A long format: precision with the hidden bit, and exponent bits. -/
structure Fmt where
  prec  : Nat
  ebits : Nat
  deriving DecidableEq, Repr

def f16 : Fmt := ⟨11, 5⟩
def f32 : Fmt := ⟨24, 8⟩
def f64 : Fmt := ⟨53, 11⟩

/-- Width of a format in bits. -/
def Fmt.width (f : Fmt) : Nat := f.prec + f.ebits

/-- Exponent bias. -/
def Fmt.bias (f : Fmt) : Nat := 2 ^ (f.ebits - 1) - 1

/-- Code of +infinity. -/
def Fmt.infCode (f : Fmt) : Nat := (2 ^ f.ebits - 1) * 2 ^ (f.prec - 1)

/-- Quiet bit. -/
def Fmt.quiet (f : Fmt) : Nat := 2 ^ (f.prec - 2)

/-- The default NaN: sign clear (R116, R164). -/
def Fmt.nan (f : Fmt) : Nat := f.infCode + f.quiet

/-- The sign bit as a number. -/
def Fmt.signBit (f : Fmt) : Nat := 2 ^ (f.width - 1)

/-- An unpacked operand: NaN with its code, infinity, or m x 2^e. -/
inductive FVal where
  | nan (code : Nat) (signalling : Bool)
  | inf (neg : Bool)
  | fin (neg : Bool) (m : Nat) (e : Int)
  deriving DecidableEq, Repr

/-- Unpack a code. -/
def unpack (f : Fmt) (x : Nat) : FVal :=
  let neg := decide (x / f.signBit % 2 = 1)
  let ex := x / 2 ^ (f.prec - 1) % 2 ^ f.ebits
  let fr := x % 2 ^ (f.prec - 1)
  if ex = 2 ^ f.ebits - 1 then
    if fr = 0 then .inf neg else .nan (x % 2 ^ f.width) (decide (fr / f.quiet % 2 = 0))
  else if ex = 0 then .fin neg fr (2 - (f.bias : Int) - f.prec)
  else .fin neg (fr + 2 ^ (f.prec - 1)) ((ex : Int) + 1 - f.bias - f.prec)

/-- Whether a code is subnormal. -/
def isSub (f : Fmt) (x : Nat) : Bool :=
  decide (x / 2 ^ (f.prec - 1) % 2 ^ f.ebits = 0) && decide (x % 2 ^ (f.prec - 1) ≠ 0)

/-- An input under subnormal mode `mode`: SHORTKEEP and FLUSHALL replace a subnormal by a zero of its sign, with no flag
(R166, R167). -/
def flushIn (f : Fmt) (mode x : Nat) : Nat :=
  if mode ≠ 0 && isSub f x then x / f.signBit % 2 * f.signBit else x

/-- A rounded result under the subnormal mode (R167). -/
def flushOut (f : Fmt) (mode : Nat) (r : Nat × Flags) : Nat × Flags :=
  if mode ≠ 0 && isSub f r.1 then (r.1 / f.signBit % 2 * f.signBit, r.2 ||| fUnderflow ||| fInexact) else r

/-- The quieted NaN of an operand (R164). -/
def quietNan (f : Fmt) (code : Nat) : Nat := if code / f.quiet % 2 = 0 then code + f.quiet else code

/-- Whether rounding mode `rm` takes the larger of the two neighbours in magnitude: `odd` is the smaller one's low bit,
`half` compares the remainder with one half (R format, RM). -/
def roundsUp (rm : Nat) (neg odd : Bool) (half : Ordering) (exact : Bool) : Bool :=
  if exact then false
  else match rm with
    | 0 => match half with | .gt => true | .eq => odd | .lt => false
    | 1 => false
    | 2 => !neg
    | 3 => neg
    | _ => match half with | .lt => false | _ => true

/-- Number of bits of `m`. -/
def bitLen (m : Nat) : Nat := if m = 0 then 0 else Nat.log2 m + 1

/-- m x 2^e in units of 2^q, rounded by `rm`: the integer and whether it is inexact. -/
def quantize (rm : Nat) (neg : Bool) (m : Nat) (e q : Int) : Nat × Bool :=
  if q ≤ e then (m <<< (e - q).toNat, false)
  else
    let sh := (q - e).toNat
    let k := m >>> sh
    let rem := m % 2 ^ sh
    let up := roundsUp rm neg (decide (k % 2 = 1)) (compare (2 * rem) (2 ^ sh)) (decide (rem = 0))
    (k + b2n up, decide (rem ≠ 0))

/-- The largest finite code or infinity, by the rounding mode (R170, overflow row). -/
def overflowCode (f : Fmt) (rm : Nat) (neg : Bool) : Nat :=
  let s := b2n neg * f.signBit
  let toInf := match rm with | 1 => false | 2 => !neg | 3 => neg | _ => true
  if toInf then s + f.infCode else s + f.infCode - 1

/-- Round the exact non-zero value m x 2^e to a format: code and flags, with tininess detected after rounding (R163). -/
def roundTo (f : Fmt) (rm : Nat) (neg : Bool) (m : Nat) (e : Int) : Nat × Flags :=
  let s := b2n neg * f.signBit
  if m = 0 then (s, fNone)
  else
    let emin : Int := 1 - f.bias
    let top : Int := e + bitLen m - 1
    let q : Int := max top emin - (f.prec - 1)
    let (k, inexact) := quantize rm neg m e q
    let be : Int := q + (f.prec - 1) + f.bias
    let code := ((be - 1).toNat) * 2 ^ (f.prec - 1) + k
    if f.infCode ≤ code then (overflowCode f rm neg, fOverflow ||| fInexact)
    else
      let free := (quantize rm neg m e (top - (f.prec - 1))).1
      let tiny := decide (top < emin) && !(decide (top = emin - 1) && decide (free = 2 ^ f.prec))
      (s + code, (if inexact then fInexact else fNone) ||| (if tiny && inexact then fUnderflow else fNone))

/-- Exact sum of two dyadic values: sign, magnitude, exponent (zero has magnitude 0). -/
def dyAdd (n1 : Bool) (m1 : Nat) (e1 : Int) (n2 : Bool) (m2 : Nat) (e2 : Int) : Bool × Nat × Int :=
  let e := min e1 e2
  let a : Int := (m1 <<< (e1 - e).toNat : Nat)
  let b : Int := (m2 <<< (e2 - e).toNat : Nat)
  let t := (if n1 then -a else a) + (if n2 then -b else b)
  (decide (t < 0), t.natAbs, e)

/-- The first NaN among the operands in the order A, B, C, quieted, with invalid when any of them is signalling
(R116, R164). -/
def nanOf (f : Fmt) (xs : List Nat) : Option (Nat × Flags) :=
  let nans := xs.filterMap fun x => match unpack f x with | .nan c s => some (c, s) | _ => none
  match nans with
  | [] => none
  | (c, _) :: _ => some (quietNan f c, if nans.any (·.2) then fInvalid else fNone)

/-- A sum of two finite values, with IEEE 754's sign of an exact zero. -/
def addFin (f : Fmt) (rm : Nat) (n1 : Bool) (m1 : Nat) (e1 : Int) (n2 : Bool) (m2 : Nat) (e2 : Int) : Nat × Flags :=
  let (n, m, e) := dyAdd n1 m1 e1 n2 m2 e2
  if m = 0 then
    let neg := if m1 = 0 && m2 = 0 && n1 == n2 then n1 else decide (rm = 3)
    (b2n neg * f.signBit, fNone)
  else roundTo f rm n m e

/-- x + y without subnormal flushing. -/
def addRaw (f : Fmt) (rm x y : Nat) : Nat × Flags :=
  match nanOf f [x, y] with
  | some r => r
  | none =>
    match unpack f x, unpack f y with
    | .inf a, .inf b => if a == b then (b2n a * f.signBit + f.infCode, fNone) else (f.nan, fInvalid)
    | .inf a, _ => (b2n a * f.signBit + f.infCode, fNone)
    | _, .inf b => (b2n b * f.signBit + f.infCode, fNone)
    | .fin n1 m1 e1, .fin n2 m2 e2 => addFin f rm n1 m1 e1 n2 m2 e2
    | _, _ => (f.nan, fNone)

/-- Flip a code's sign. -/
def negCode (f : Fmt) (x : Nat) : Nat := if x / f.signBit % 2 = 1 then x - f.signBit else x + f.signBit

/-- `fadd`. -/
def fAdd (f : Fmt) (mode rm a b : Nat) : Nat × Flags :=
  flushOut f mode (addRaw f rm (flushIn f mode a) (flushIn f mode b))

/-- `fsub`: a NaN operand B is returned as it is, so its sign is not flipped (R164). -/
def fSub (f : Fmt) (mode rm a b : Nat) : Nat × Flags :=
  let x := flushIn f mode a
  let y := flushIn f mode b
  match nanOf f [x, y] with
  | some r => r
  | none => flushOut f mode (addRaw f rm x (negCode f y))

/-- `fma`: A x B + C with one rounding (R116). -/
def fFma (f : Fmt) (mode rm a b c : Nat) : Nat × Flags :=
  let x := flushIn f mode a
  let y := flushIn f mode b
  let z := flushIn f mode c
  let infZero := match unpack f x, unpack f y with
    | .inf _, .fin _ 0 _ => true
    | .fin _ 0 _, .inf _ => true
    | _, _ => false
  match nanOf f [x, y, z] with
  | some (r, fl) => (r, if infZero && Config.fmaQuietInvalid then fl ||| fInvalid else fl)
  | none =>
    if infZero then (f.nan, fInvalid)
    else
      match unpack f x, unpack f y, unpack f z with
      | .fin n1 m1 e1, .fin n2 m2 e2, .fin n3 m3 e3 =>
        flushOut f mode (addFin f rm (n1 != n2) (m1 * m2) (e1 + e2) n3 m3 e3)
      | .fin _ _ _, .fin _ _ _, .inf n3 => (b2n n3 * f.signBit + f.infCode, fNone)
      | p, q, r =>
        let np := match p with | .fin n _ _ => n | .inf n => n | .nan _ _ => false
        let nq := match q with | .fin n _ _ => n | .inf n => n | .nan _ _ => false
        match r with
        | .inf n3 => if (np != nq) == n3 then (b2n n3 * f.signBit + f.infCode, fNone) else (f.nan, fInvalid)
        | _ => (b2n (np != nq) * f.signBit + f.infCode, fNone)

/-- `fmul`. -/
def fMul (f : Fmt) (mode rm a b : Nat) : Nat × Flags :=
  let x := flushIn f mode a
  let y := flushIn f mode b
  match nanOf f [x, y] with
  | some r => r
  | none =>
    match unpack f x, unpack f y with
    | .fin n1 m1 e1, .fin n2 m2 e2 => flushOut f mode (roundTo f rm (n1 != n2) (m1 * m2) (e1 + e2))
    | .inf _, .fin _ 0 _ => (f.nan, fInvalid)
    | .fin _ 0 _, .inf _ => (f.nan, fInvalid)
    | .inf n1, .fin n2 _ _ => (b2n (n1 != n2) * f.signBit + f.infCode, fNone)
    | .fin n1 _ _, .inf n2 => (b2n (n1 != n2) * f.signBit + f.infCode, fNone)
    | .inf n1, .inf n2 => (b2n (n1 != n2) * f.signBit + f.infCode, fNone)
    | _, _ => (f.nan, fNone)

/-- Order of two codes that are no NaNs, with -0 equal to +0. -/
def fCmp (f : Fmt) (x y : Nat) : Ordering :=
  let key := fun (v : Nat) => let mag : Int := (v % f.signBit : Nat); if v / f.signBit % 2 = 1 then -mag else mag
  compare (key x) (key y)

/-- The same order with -0 below +0 (R116, R126). -/
def fTotalLt (f : Fmt) (x y : Nat) : Bool :=
  match fCmp f x y with
  | .lt => true
  | .gt => false
  | .eq => decide (x / f.signBit % 2 = 1) && decide (y / f.signBit % 2 = 0)

/-- Whether a code is a NaN. -/
def isNan (f : Fmt) (x : Nat) : Bool := match unpack f x with | .nan _ _ => true | _ => false

/-- Whether a code is a signalling NaN. -/
def isSnan (f : Fmt) (x : Nat) : Bool := match unpack f x with | .nan _ s => s | _ => false

/-- `fmin`, `fmax`: minimumNumber and maximumNumber of IEEE 754-2019: a number beats a NaN, a signalling NaN sets invalid
(R116, LOG 30). -/
def fMinMax (f : Fmt) (mode : Nat) (isMax : Bool) (a b : Nat) : Nat × Flags :=
  let x := flushIn f mode a
  let y := flushIn f mode b
  let inv := if isSnan f x || isSnan f y then fInvalid else fNone
  match isNan f x, isNan f y with
  | true, true => (quietNan f x, inv)
  | true, false => (y, inv)
  | false, true => (x, inv)
  | false, false => (if fTotalLt f x y != isMax then x else y, inv)

/-- `fsetp`: the comparison OPX of R116 and its flags. -/
def fSetp (f : Fmt) (mode opx a b : Nat) : Bool × Flags :=
  let x := flushIn f mode a
  let y := flushIn f mode b
  let un := isNan f x || isNan f y
  let sig := isSnan f x || isSnan f y
  let c := fCmp f x y
  let r := match opx with
    | 0 => !un && c == .eq
    | 1 => un || c != .eq
    | 2 => !un && c == .lt
    | 3 => !un && c != .gt
    | 4 => !un && c == .gt
    | 5 => !un && c != .lt
    | 6 => !un
    | _ => un
  (r, if (decide (2 ≤ opx) && decide (opx ≤ 5) && un) || sig then fInvalid else fNone)

/-- `fclass`: the one-hot class of a code (R116). -/
def fClass (f : Fmt) (x : Nat) : Nat :=
  match unpack f x with
  | .nan _ s => if s then 1 else 2
  | .inf n => if n then 4 else 512
  | .fin n m _ =>
    if m = 0 then (if n then 32 else 64)
    else if isSub f x then (if n then 16 else 128)
    else if n then 8 else 256

/-- A NaN carried to another long format: payload below the quiet bit, most significant bit first (R164). -/
def nanTo (src dst : Fmt) (code : Nat) : Nat :=
  let pl := code % src.quiet
  let ws := src.prec - 2
  let wd := dst.prec - 2
  let p := if wd ≤ ws then pl >>> (ws - wd) else pl <<< (wd - ws)
  code / src.signBit % 2 * dst.signBit + dst.nan + p

/-- `cvt` between long formats (R117, R170). -/
def cvtFF (src dst : Fmt) (mode rm a : Nat) : Nat × Flags :=
  let x := flushIn src mode a
  match unpack src x with
  | .nan c s => (nanTo src dst c, if s then fInvalid else fNone)
  | .inf n => (b2n n * dst.signBit + dst.infCode, fNone)
  | .fin n m e => flushOut dst mode (roundTo dst rm n m e)

/-- Clamp an integer to a signed or unsigned width: the code and whether it was in range. -/
def clampI (signed : Bool) (w : Nat) (x : Int) : Nat × Bool :=
  let lo : Int := if signed then -(2 ^ (w - 1)) else 0
  let hi : Int := if signed then 2 ^ (w - 1) - 1 else 2 ^ w - 1
  if x < lo then (wrapI w lo, false) else if hi < x then (wrapI w hi, false) else (wrapI w x, true)

/-- `cvt` from a long format to an integer: a NaN gives 0 and a value out of range saturates, both with invalid; inexact
when in range and not integral (R171). -/
def cvtFI (src : Fmt) (mode rm : Nat) (signed : Bool) (w a : Nat) : Nat × Flags :=
  match unpack src (flushIn src mode a) with
  | .nan _ _ => (0, fInvalid)
  | .inf n => ((clampI signed w (if n then -(2 ^ 70) else 2 ^ 70)).1, fInvalid)
  | .fin n m e =>
    let (k, inexact) := quantize rm n m e 0
    let (c, ok) := clampI signed w (if n then -(k : Int) else k)
    (c, if !ok then fInvalid else if inexact then fInexact else fNone)

/-- `cvt` from an integer to a long format. -/
def cvtIF (dst : Fmt) (mode rm : Nat) (x : Int) : Nat × Flags :=
  flushOut dst mode (roundTo dst rm (decide (x < 0)) x.natAbs 0)

/-! ## The four approximate functions (R604) -/

/-- Structural integer square root of `n`, from bit `k` down. -/
def isqrtFrom (n : Nat) : Nat → Nat → Nat
  | 0, r => r
  | k + 1, r => let t := r + 2 ^ k; if t * t ≤ n then isqrtFrom n k t else isqrtFrom n k r

/-- Integer square root. -/
def isqrt (n : Nat) : Nat := isqrtFrom n (bitLen n / 2 + 1) 0

/-- 2^(f / 2^160) for f below 2^160, in units of 2^-160, by successive square roots of 2. -/
def exp2Frac (f : Nat) : Nat → Nat → Nat → Nat
  | 0, _, acc => acc
  | k + 1, root, acc =>
    let root' := isqrt (root <<< 160)
    exp2Frac f k root' (if f >>> k % 2 = 1 then (acc * root') >>> 160 else acc)

/-- log2 of x / 2^160 for x in [2^160, 2^161), in units of 2^-160, by repeated squaring. -/
def log2Frac : Nat → Nat → Nat → Nat
  | 0, _, acc => acc
  | k + 1, x, acc =>
    let y := (x * x) >>> 160
    if 2 ^ 161 ≤ y then log2Frac k (y / 2) (2 * acc + 1) else log2Frac k y (2 * acc)

/-- A result within `ulps` units in the last place of the value m x 2^e: the drawn code when it lies within the bound,
otherwise the nearest code (R604, LOG 31). `m x 2^e` is exact to far below one unit in the last place. A value below the
smallest normal magnitude gives a subnormal or zero. -/
def withinUlps (ulps : Nat) (neg : Bool) (m : Nat) (e : Int) (draw : Nat) : Nat × Flags :=
  let (code, fl) := roundTo f32 0 neg m e
  let top : Int := e + bitLen m - 1
  let tiny := decide (top < 1 - (f32.bias : Int))
  let near := if tiny && decide (2 ^ 23 ≤ code % f32.signBit) then code - 1 else code
  let q : Int := max top (1 - f32.bias) - 23
  let pick := near - ulps + draw % (2 * ulps + 1)
  let ok := match unpack f32 pick with
    | .fin n pm pe =>
      let lo := min (min pe e) q
      let a : Int := (pm <<< (pe - lo).toNat : Nat)
      let b : Int := (m <<< (e - lo).toNat : Nat)
      (n == neg) && !(tiny && decide (2 ^ 23 ≤ pick % f32.signBit)) && decide ((a - b).natAbs ≤ ulps * 2 ^ (q - lo).toNat)
    | _ => false
  let fl' := if tiny then fl ||| fUnderflow ||| fInexact else fl ||| fInexact
  (if ok && decide (near % f32.signBit < f32.infCode) then pick else near, fl')

/-- An exact non-zero value that may be a binary32 normal number: that number with no flag, when it is one (R604). -/
def exactNormal (neg : Bool) (m : Nat) (e : Int) : Option (Nat × Flags) :=
  let (c, fl) := roundTo f32 0 neg m e
  if fl = fNone && !isSub f32 c then some (c, fNone) else none

/-- `frcp` (R604). -/
def fRcp (mode a draw : Nat) : Nat × Flags :=
  let x := flushIn f32 mode a
  match unpack f32 x with
  | .nan c s => (quietNan f32 c, if s then fInvalid else fNone)
  | .inf n => (b2n n * f32.signBit, fNone)
  | .fin n 0 _ => (b2n n * f32.signBit + f32.infCode, fDivZero)
  | .fin n m e =>
    if m = 2 ^ (bitLen m - 1) then
      match exactNormal n 1 (-(e + (bitLen m - 1 : Nat))) with
      | some r => r
      | none => flushOut f32 mode (withinUlps 1 n 1 (-(e + (bitLen m - 1 : Nat))) draw)
    else flushOut f32 mode (withinUlps 1 n (2 ^ 200 / m) (-200 - e) draw)

/-- `frsq` (R604). -/
def fRsq (mode a draw : Nat) : Nat × Flags :=
  let x := flushIn f32 mode a
  match unpack f32 x with
  | .nan c s => (quietNan f32 c, if s then fInvalid else fNone)
  | .inf n => if n then (f32.nan, fInvalid) else (0, fNone)
  | .fin n 0 _ => (b2n n * f32.signBit + f32.infCode, fDivZero)
  | .fin true _ _ => (f32.nan, fInvalid)
  | .fin false m e =>
    let (m', e') := if e % 2 = 0 then (m, e) else (2 * m, e - 1)
    let r := isqrt (2 ^ 400 / m')
    let half : Int := -(e' / 2) - 200
    if r * r * m' = 2 ^ 400 then
      match exactNormal false r half with
      | some t => t
      | none => flushOut f32 mode (withinUlps 1 false r half draw)
    else flushOut f32 mode (withinUlps 1 false r half draw)

/-- `fex2` (R604): an integral operand has an exact power of two as its value. -/
def fEx2 (mode a draw : Nat) : Nat × Flags :=
  let x := flushIn f32 mode a
  match unpack f32 x with
  | .nan c s => (quietNan f32 c, if s then fInvalid else fNone)
  | .inf n => if n then (0, fNone) else (f32.infCode, fNone)
  | .fin _ 0 _ => (127 * 2 ^ 23, fNone)
  | .fin n m e =>
    let big := decide ((9 : Int) ≤ e + (bitLen m - 1 : Nat))
    if big then (if n then flushOut f32 mode (withinUlps 2 false 1 (-600) draw) else (f32.infCode, fOverflow ||| fInexact))
    else
      let sc : Nat := if 0 ≤ e + 160 then m <<< (e + 160).toNat else m >>> (-(e + 160)).toNat
      let v : Int := if n then -(sc : Int) else sc
      let whole : Int := v / 2 ^ 160
      let frac : Nat := (v % 2 ^ 160).toNat
      if frac = 0 && decide (0 ≤ e + 160) then
        match exactNormal false 1 whole with
        | some r => r
        | none =>
          if 128 ≤ whole then (f32.infCode, fOverflow ||| fInexact)
          else flushOut f32 mode (withinUlps 2 false 1 whole draw)
      else
        let p := exp2Frac frac 160 (2 <<< 160) (1 <<< 160)
        let r := withinUlps 2 false p (whole - 160) draw
        if 128 ≤ whole then (f32.infCode, fOverflow ||| fInexact) else flushOut f32 mode r

/-- `flg2` (R604): a power of two has an integral logarithm, exact in binary32; the logarithm of 1 is +0, which is no normal number,
so it sets inexact. -/
def fLg2 (mode a draw : Nat) : Nat × Flags :=
  let x := flushIn f32 mode a
  match unpack f32 x with
  | .nan c s => (quietNan f32 c, if s then fInvalid else fNone)
  | .inf n => if n then (f32.nan, fInvalid) else (f32.infCode, fNone)
  | .fin _ 0 _ => (f32.signBit + f32.infCode, fDivZero)
  | .fin true _ _ => (f32.nan, fInvalid)
  | .fin false m e =>
    let whole : Int := e + (bitLen m - 1 : Nat)
    let y := m <<< (160 - (bitLen m - 1))
    let fr : Int := (log2Frac 160 y 0 : Nat)
    let v : Int := whole * 2 ^ 160 + fr
    if y = 2 ^ 160 then
      match exactNormal (decide (whole < 0)) whole.natAbs 0 with
      | some r => r
      | none => (0, fInexact)
    else flushOut f32 mode (withinUlps 2 (decide (v < 0)) v.natAbs (-160) draw)

/-! ## Packed binary16 and register images -/

/-- Run a binary operation on both halves of an F16 register; the flags are the union (R106, R165). -/
def halves2 (op : Nat → Nat → Nat × Flags) (a b : Nat) : Nat × Flags :=
  let lo := op (a % 65536) (b % 65536)
  let hi := op (a / 65536 % 65536) (b / 65536 % 65536)
  (lo.1 % 65536 + 65536 * (hi.1 % 65536), lo.2 ||| hi.2)

/-- The same for three operands. -/
def halves3 (op : Nat → Nat → Nat → Nat × Flags) (a b c : Nat) : Nat × Flags :=
  let lo := op (a % 65536) (b % 65536) (c % 65536)
  let hi := op (a / 65536 % 65536) (b / 65536 % 65536) (c / 65536 % 65536)
  (lo.1 % 65536 + 65536 * (hi.1 % 65536), lo.2 ||| hi.2)

end Sys2Proof.Machine
end

