-- ==== Sys2Proof/Machine/Codes.lean ====
section
/-! DEFINITION. The status codes of R597. -/

namespace Sys2Proof.Machine.Code

/-- Success (R597). -/
abbrev success : Status := 0x0000

/-- Format error (R597). -/
abbrev formatError : Status := 0x0001

/-- Resource held (R597). -/
abbrev resourceHeld : Status := 0x0002

/-- Value out of range (R597). -/
abbrev valueOutOfRange : Status := 0x0003

/-- Device stopping (R597). -/
abbrev deviceStopping : Status := 0x0004

/-- Domain stopped (R597). -/
abbrev domainStopped : Status := 0x0005

/-- In recovery (R597). -/
abbrev inRecovery : Status := 0x0006

/-- Access denied (R597). -/
abbrev accessDenied : Status := 0x0101

/-- No such entry (R597). -/
abbrev noSuchEntry : Status := 0x0102

/-- Entry busy (R597). -/
abbrev entryBusy : Status := 0x0103

/-- Segment out of range (R597). -/
abbrev segmentOutOfRange : Status := 0x0104

/-- Presence required (R597). -/
abbrev presenceRequired : Status := 0x0105

/-- Fetch fault (R597). -/
abbrev fetchFault : Status := 0x0201

/-- Illegal instruction (R597). -/
abbrev illegalInstruction : Status := 0x0202

/-- Register range (R597). -/
abbrev registerRange : Status := 0x0203

/-- Divergent barrier (R597). -/
abbrev divergentBarrier : Status := 0x0204

/-- Stack overflow (R597). -/
abbrev stackOverflow : Status := 0x0205

/-- Misaligned (R597). -/
abbrev misaligned : Status := 0x0206

/-- Translation fault (R597). -/
abbrev translationFault : Status := 0x0207

/-- Local store range (R597). -/
abbrev localStoreRange : Status := 0x0208

/-- Poison consumed (R597). -/
abbrev poisonConsumed : Status := 0x0209

/-- Remote write lost (R597). -/
abbrev remoteWriteLost : Status := 0x020A

/-- Reserved address (R597). -/
abbrev reservedAddress : Status := 0x0301

/-- Page retired (R597). -/
abbrev pageRetired : Status := 0x0302

/-- Page mapped (R597). -/
abbrev pageMapped : Status := 0x0303

/-- Retirement table full (R597). -/
abbrev retirementTableFull : Status := 0x0304

/-- Atomic not supported (R597). -/
abbrev atomicNotSupported : Status := 0x0305

/-- Window unavailable (R597). -/
abbrev windowUnavailable : Status := 0x0306

/-- Streamer format (R597). -/
abbrev streamerFormat : Status := 0x0307

/-- Context lost (R597). -/
abbrev contextLost : Status := 0x0401

/-- Context busy (R597). -/
abbrev contextBusy : Status := 0x0402

/-- Already mapped (R597). -/
abbrev alreadyMapped : Status := 0x0403

/-- Page size mismatch (R597). -/
abbrev pageSizeMismatch : Status := 0x0404

/-- Page migrating (R597). -/
abbrev pageMigrating : Status := 0x0405

/-- Outside carrel (R597). -/
abbrev outsideCarrel : Status := 0x0406

/-- Table space full (R597). -/
abbrev tableSpaceFull : Status := 0x0407

/-- Carrel overlap (R597). -/
abbrev carrelOverlap : Status := 0x0408

/-- Carrel in use (R597). -/
abbrev carrelInUse : Status := 0x0409

/-- Carrel not usable (R597). -/
abbrev carrelNotUsable : Status := 0x040A

/-- Tally range (R597). -/
abbrev tallyRange : Status := 0x0501

/-- Tally tenant (R597). -/
abbrev tallyTenant : Status := 0x0502

/-- Tally abandoned (R597). -/
abbrev tallyAbandoned : Status := 0x0503

/-- Tally value range (R597). -/
abbrev tallyValueRange : Status := 0x0504

/-- Signal ignored (R597). -/
abbrev signalIgnored : Status := 0x0505

/-- Watch table full (R597). -/
abbrev watchTableFull : Status := 0x0506

/-- Tally busy (R597). -/
abbrev tallyBusy : Status := 0x0507

/-- Privileged (R597). -/
abbrev privileged : Status := 0x0601

/-- Launch no fit (R597). -/
abbrev launchNoFit : Status := 0x0602

/-- Queue busy (R597). -/
abbrev queueBusy : Status := 0x0603

/-- Queue class (R597). -/
abbrev queueClass : Status := 0x0604

/-- Slot in use (R597). -/
abbrev slotInUse : Status := 0x0605

/-- Queue not enabled (R597). -/
abbrev queueNotEnabled : Status := 0x0606

/-- Doorbell not permitted (R597). -/
abbrev doorbellNotPermitted : Status := 0x0607

/-- Doorbell range (R597). -/
abbrev doorbellRange : Status := 0x0608

/-- Over budget (R597). -/
abbrev overBudget : Status := 0x0609

/-- Serving overrun (R597). -/
abbrev servingOverrun : Status := 0x060A

/-- Budget exceeds (R597). -/
abbrev budgetExceeds : Status := 0x060B

/-- Peer lost (R597). -/
abbrev peerLost : Status := 0x0701

/-- Host lost (R597). -/
abbrev hostLost : Status := 0x0702

/-- Remote refused (R597). -/
abbrev remoteRefused : Status := 0x0703

/-- Session not allowed (R597). -/
abbrev sessionNotAllowed : Status := 0x0704

/-- Session table full (R597). -/
abbrev sessionTableFull : Status := 0x0705

/-- Connection table full (R597). -/
abbrev connectionTableFull : Status := 0x0706

/-- Plan busy (R597). -/
abbrev planBusy : Status := 0x0801

/-- Plan mismatch (R597). -/
abbrev planMismatch : Status := 0x0802

/-- Plan aborted (R597). -/
abbrev planAborted : Status := 0x0803

/-- Not loaned (R597). -/
abbrev notLoaned : Status := 0x0901

/-- Context recalled (R597). -/
abbrev contextRecalled : Status := 0x0902

/-- Folio aborted (R597). -/
abbrev folioAborted : Status := 0x0903

/-- Folio chain broken (R597). -/
abbrev folioChainBroken : Status := 0x0904

/-- Folio sink small (R597). -/
abbrev folioSinkSmall : Status := 0x0905

/-- Folio sink failed (R597). -/
abbrev folioSinkFailed : Status := 0x0906

/-- Folio signature (R597). -/
abbrev folioSignature : Status := 0x0907

/-- Folio mapping (R597). -/
abbrev folioMapping : Status := 0x0908

/-- Folio digest (R597). -/
abbrev folioDigest : Status := 0x0909

/-- Fw format (R597). -/
abbrev fwFormat : Status := 0x0A01

/-- Fw key revoked (R597). -/
abbrev fwKeyRevoked : Status := 0x0A02

/-- Fw signature (R597). -/
abbrev fwSignature : Status := 0x0A03

/-- Flash failed (R597). -/
abbrev flashFailed : Status := 0x0A04

/-- Key in use (R597). -/
abbrev keyInUse : Status := 0x0A05

/-- Fuse failed (R597). -/
abbrev fuseFailed : Status := 0x0A06

/-- Vault failed (R597). -/
abbrev vaultFailed : Status := 0x0A07

end Sys2Proof.Machine.Code
end

