-- ==== Sys2Proof/Machine/Fuses.lean ====
section
/-! DEFINITION. The fuse array's records of factory-retired pages, read as the runs that R46 allows. -/

namespace Sys2Proof.Machine

/-- Records of the fuse array (02, Page retirement). -/
def fuseCount : Nat := 4096

/-- The most pages that are retired at the factory (R46). -/
def factoryMax : Nat := 524288

/-- A valid record as (vault, first page within the vault, pages); none for a record that R46 says no part holds: a run past the end
of its vault, or a vault above 383. -/
def fuseRun (x : BitVec 40) : Option (Nat × Nat × Nat) :=
  let first := fld x 9 16
  let n := fld x 25 14 + 1
  if bit x 39 && decide (fld x 0 9 < 384) && decide (first + n ≤ 65536) then some (fld x 0 9, first, n) else none

/-- What is left of run `r` outside run `o`. -/
def outsideRun (o r : Nat × Nat × Nat) : List (Nat × Nat × Nat) :=
  if o.1 ≠ r.1 then [r] else
  let part (lo hi : Nat) : List (Nat × Nat × Nat) := if lo < hi then [(r.1, lo, hi - lo)] else []
  part r.2.1 (Nat.min (r.2.1 + r.2.2) o.2.1) ++ part (Nat.max r.2.1 (o.2.1 + o.2.2)) (r.2.1 + r.2.2)

/-- Pages of a list of runs. -/
def runPages (rs : List (Nat × Nat × Nat)) : Nat := (rs.map (·.2.2)).sum

/-- Add the pages of a record that no earlier record retired, while the number of R46 is kept. -/
def addRun (rs : List (Nat × Nat × Nat)) (r : Nat × Nat × Nat) : List (Nat × Nat × Nat) :=
  let new := rs.foldl (fun ps o => ps.flatMap (outsideRun o)) [r]
  if runPages (rs ++ new) ≤ factoryMax then rs ++ new else rs

/-- The runs of a fuse array: each page once, within the bounds of R46. -/
def runsOfFuses (xs : List (BitVec 40)) : List (Nat × Nat × Nat) := ((xs.take fuseCount).filterMap fuseRun).foldl addRun []

/-- The factory-retired runs of this part (R46). -/
def factoryRuns : List (Nat × Nat × Nat) := runsOfFuses Config.fuseRecords

end Sys2Proof.Machine
end

