-- ==== Sys2Proof/Machine/State.lean ====
section
/-! DEFINITION. The state of the Dacharak as plain data: every register, memory, queue, counter, mode and pin that the
spec gives the part, and the queue of waiting commands. A sparse map lists (key, value) pairs with rising keys and never
lists the value that an unlisted key reads as (Machine/Sparse.lean). -/

namespace Sys2Proof.Machine

/-- A sparse map in canonical form. -/
abbrev SMap (α : Type) := List (Nat × α)

/-! ## Bonded memory (02) -/

/-- One transfer of a vault interface: a sector and its poison flag (R23, R33). -/
structure Transfer where
  sector : Nat
  data   : Sector
  poison : Bool
  deriving DecidableEq, Repr

/-- DRAM and its health state (R27 to R57). `background` 0: an unlisted byte reads 0 (R32); n + 1: its content was lost
for the (n + 1)-th time and reads as a free byte (R309, R557). `checks` holds the stored check symbols of a sector XORed
with those that R32 computes from its bytes. `scrub` holds the next sector of a vault's pass in progress. -/
structure Dram where
  bytes          : List Host.Cell
  background     : Nat
  checks         : SMap (BitVec 16)
  corrected      : Nat
  uncorrectable  : Nat
  poisonReads    : Nat
  lastAddr       : Nat
  lastKind       : Nat
  scrubPeriodH   : Nat
  scrub          : SMap (Option Nat)
  passes         : SMap Nat
  ueHead         : Nat
  ueLog          : SMap Nat
  layerCorrected : SMap Nat
  doubled        : SMap Bool
  refreshes      : SMap Nat
  lastRefresh    : SMap Bool
  factoryRetired : List (Nat × Nat × Nat)
  fieldRetired   : List Nat
  out            : SMap (Option Transfer)
  deriving DecidableEq, Repr

/-! ## Caches (08) -/

/-- One L1 way: line address, valid and poison bits per sector, AGE, data (R247, R249). -/
structure L1Line where
  line   : Nat
  valid  : BitVec 4
  poison : BitVec 4
  age    : BitVec 2
  data   : Line
  deriving DecidableEq, Repr

/-- One L1 miss entry: the line, the sectors sent for, the bytes that stores wrote meanwhile, whether the line was
invalidated after the miss was sent (then the fill is not installed), the accesses that wait, and the number of accesses issued
before it was sent (R251, R252). A byte of `overlay` names the store that wrote it. -/
structure Miss where
  line        : Nat
  sectors     : BitVec 4
  overlay     : SMap (Option (Nat × Byte))
  invalidated : Bool
  accesses    : List Nat
  before      : Nat
  deriving DecidableEq, Repr

/-- One cluster-cache way (R256). -/
structure CcLine where
  line   : Nat
  valid  : BitVec 4
  dirty  : BitVec 4
  poison : BitVec 4
  data   : Line
  deriving DecidableEq, Repr

/-- One eviction-buffer entry: the dirty sectors of a line on their way to the vault (R261). -/
structure Evict where
  line   : Nat
  dirty  : BitVec 4
  poison : BitVec 4
  data   : Line
  deriving DecidableEq, Repr

/-- A cluster cache: lines by set x 16 + way, the replacement tree of each set, the eviction buffer oldest first, and the
reserved granules oldest first (R256, R260, R261, R297). -/
structure Cluster where
  lines    : SMap CcLine
  tree     : SMap (BitVec 16)
  evict    : List Evict
  granules : List Nat
  deriving DecidableEq, Repr

/-! ## Cores (03, 06, 07) -/

/-- A reconvergence entry (R77, R83). -/
structure StackEntry where
  rpc         : DWord
  pendingPc   : DWord
  pendingMask : Word
  savedMask   : Word
  deriving DecidableEq, Repr

/-- Why a group issues nothing (R70, R84, R129, R134, R110). -/
inductive Wait where
  | ready
  /-- Arrived at its block's barrier (R84). -/
  | barrier
  /-- Arrived at logical barrier channel `ch` (R331). -/
  | channel (ch : Nat)
  /-- In `fence.done`: waits for every access numbered below `before` (R129). -/
  | fence (before : Nat)
  /-- Asleep in `tly.wait`: the status register and the word pair it will write (R134). -/
  | tally (dst : BitVec 9) (word : BitVec 9)
  /-- Stopped by `brk` for the debugger (R110). -/
  | debugger
  deriving DecidableEq, Repr

/-- A reservation: the 16-byte granule as the program names it and as the end point knows it (R122, R124). -/
structure Reservation where
  va : Nat
  pa : Nat
  deriving DecidableEq, Repr

/-- A resident thread group (R58, R62, R95). `v` holds register r of lane l at key 32 r + l, `p` the eight predicates
of a lane, `stack` the hardware reconvergence entries with the top first, `spilled` the entries in the spill area,
`res` each lane's reservation, `epoch` how many `fence.order` it has issued. -/
structure Group where
  launch  : Nat
  block   : Nat
  index   : Nat
  pc      : DWord
  active  : Word
  exited  : Word
  v       : SMap Word
  u       : SMap Word
  p       : SMap Byte
  stack   : List StackEntry
  spilled : Nat
  flags   : BitVec 5
  wait    : Wait
  res     : SMap (Option Reservation)
  epoch   : Nat
  deriving DecidableEq, Repr

/-- A resident block: its launch, linear number, local-store region and group slots (R59, R237). -/
structure Block where
  launch : Nat
  number : Nat
  region : Nat
  slots  : List Nat
  deriving DecidableEq, Repr

/-- An accepted matrix instruction with the operand values captured at hand-off (R191, R201). -/
inductive MxKind where
  | ld (bufB : Bool) (src bytes off : Nat)
  | ldx (scale : Bool) (src bytes : Nat)
  | op (f : XFields)
  | st (typ : BitVec 4) (acc : Nat) (clear : Bool) (dst stride : Nat)
  | zero (acc : Nat)
  deriving DecidableEq, Repr

/-- An entry of the engine queue: the hand-off's slot and pc, the local-store base of its block, the number of accesses
issued before it, whether it has started, and its span in array cycles (R175). -/
structure MxEntry where
  kind    : MxKind
  slot    : Nat
  pc      : DWord
  base    : Nat
  before  : Nat
  started : Bool
  span    : Nat
  deriving DecidableEq, Repr

/-- The matrix engine of a core (R174, R180 to R200): tile elements at key 1024 t + 32 i + j, live marks, operand buffers,
expansion images and their poison bits per 32-byte unit, and the queue in acceptance order. -/
structure MxEngine where
  acc    : SMap Word
  live   : BitVec 8
  bufA   : SMap Byte
  bufB   : SMap Byte
  tbl    : SMap Byte
  scl    : SMap Byte
  poiA   : SMap Bool
  poiB   : SMap Bool
  poiTbl : SMap Bool
  poiScl : SMap Bool
  queue  : List MxEntry
  deriving DecidableEq, Repr

/-- How far a descriptor has come (R211, R221, R225). -/
inductive TsStage where
  | accepted | gated | running
  deriving DecidableEq, Repr

/-- A tile streamer descriptor: its 128 bytes, the launch, group and `ts.run` that started it, the local-store base and limit
of its block, its stage, the tiles published or read, the program's counter as last observed, whether the next load tile was sent for and, of a tile that touches a device-type page, the access of its first
device-type element (R226), whether the block has ended it (R212), and whether a write failed. -/
structure TsDesc where
  raw      : BitVec 1024
  slot     : Nat
  block    : Nat
  pc       : DWord
  base     : Nat
  limit    : Nat
  before   : Nat
  stage    : TsStage
  tiles    : Nat
  seen     : Nat
  fetched  : Bool
  firstDev : Option Nat
  ending   : Bool
  failed   : Bool
  deriving DecidableEq, Repr

/-- A finished descriptor that its group's `ts.wait` has not yet reported: slot, status, whether a write failed (R230). -/
structure TsDone where
  slot   : Nat
  status : Status
  failed : Bool
  deriving DecidableEq, Repr

/-- One tile streamer: up to four descriptors, the running one first, and the unreported ends (R210, R230). -/
structure Streamer where
  descs : List TsDesc
  done  : List TsDone
  deriving DecidableEq, Repr

/-- What a launch holds on a core, and what a stop saves (R95, R201, R229). Groups are keyed by 16 quadrant + slot. -/
structure CoreWork where
  launch   : Option Nat
  groups   : SMap (Option Group)
  blocks   : SMap (Option Block)
  ls       : SMap Byte
  lsPoison : SMap Bool
  mx       : MxEngine
  ts       : SMap Streamer
  deriving DecidableEq, Repr

/-- Where a core stands between the Desk's decisions (R93, R95, R97). -/
inductive CoreStage where
  | running
  /-- Issue stopped by a fault (R93). -/
  | faulted
  /-- Stopped at a boundary; its accesses drain and its save runs (R95). -/
  | saving
  /-- The saved launch is being restored (R97). -/
  | restoring
  deriving DecidableEq, Repr

/-- One core: what its launch holds, what was saved from stopped launches (oldest first), the L1 and its misses, the reuse cache of each
quadrant as (slot, register) pairs oldest first, the issue cycles of each quadrant's last instruction and the port cycles of its
last memory instruction (R65, R89, R90), the last
launch's context and split, whether the core is out of
placement for a domain reset (R561), when its launch's first block was placed, and the serving launch that takes it (R394). -/
structure Core where
  work      : CoreWork
  saved     : List CoreWork
  stage     : CoreStage
  held      : Bool
  l1        : SMap L1Line
  misses    : List Miss
  reuse     : SMap (List (Nat × Nat))
  lastCost  : SMap Nat
  portCost  : SMap Nat
  prevCtx   : Option Nat
  prevLsKib : Nat
  since     : Option Nat
  takenFor  : Option Nat
  deriving DecidableEq, Repr

/-! ## Accesses in flight (04, 09) -/

/-- The engine that issued an access; a group's slot is its key 16 quadrant + slot, plus 64 once its block has retired. -/
inductive Engine where
  | group (core slot : Nat)
  | streamer (core str : Nat)
  deriving DecidableEq, Repr

/-- The operations of R126. -/
inductive AtomOp where
  | add | min | max | and | or | xor | exch | cas
  deriving DecidableEq, Repr

/-- What an access does at its end point. -/
inductive AccKind where
  | load | store | ldRes | stCond
  | atomic (op : AtomOp) (atype : BitVec 2)
  /-- `cmo`: level, operation and the line (R131). -/
  | maint (level op : Nat)
  /-- `tly.sig` or `tly.add`: tally, value and status register (R134). -/
  | signal (add : Bool) (tally value : Nat)
  deriving DecidableEq, Repr

/-- End points (R276). A peer-table entry of KIND 1 or 2 serves `remote`. -/
inductive EndPoint where
  | home (cluster : Nat)
  | vault (v : Nat)
  | localStore (core : Nat)
  | control
  | remote (peer : Nat)
  | syncHub
  deriving DecidableEq, Repr

/-- One lane's part of an access: physical address (or local-store offset), virtual address, operand, comparand. -/
structure LaneAcc where
  lane : Nat
  addr : Nat
  va   : Nat
  data : QWord
  cmp  : QWord
  deriving DecidableEq, Repr

/-- How far an access has come. -/
inductive AccStage where
  | issued
  /-- Waits for an L1 fill (R251). -/
  | filling
  /-- Waits for migration record `rec` (R351). -/
  | migrating (rec : Nat)
  /-- Its page migrated: it is translated again when it is next tried (R353, R355). -/
  | retry
  /-- Performed, while other accesses of its instruction are not: what it read, as (lane, value, poison), and the status of a
  failure (R91, R92). -/
  | done (vals : List (Nat × Nat × Bool)) (failure : Option Status)
  /-- Sent to a peer or host under a tag; waits for the answer (R277). -/
  | sent (tag : Nat)
  /-- A failed store that nothing has reported yet (R304). -/
  | failed (st : Status)
  deriving DecidableEq, Repr

/-- An access that has been issued and has not completed (R276 to R296). `ins` is the number of the first access of its
instruction: program order is the order of `ins` (LOG 4). `acq` and `rel` are SEM, `size` its bytes per
lane, `part` the number of pieces of the same lane access before it, `poison` the poison bits of the line's sectors that a
streamer writes, `noAlloc` NO_ALLOC, `win` an access through the local-store window, whose `addr` is an offset too, `accepted` a
store that the L1 has accepted and its home not yet (R248, R283), `l1off` L1_DISABLE of the launch (R269). For an
atomic `cache` is the launch's subnormal mode. A streamer's load keeps its local-store offset in `cmp`. -/
structure Access where
  id     : Nat
  ins    : Nat
  engine : Engine
  ctx    : Nat
  launch : Nat
  kind   : AccKind
  pc     : DWord
  acq    : Bool
  rel    : Bool
  dev    : Bool
  size   : Nat
  sext   : Bool
  cache  : BitVec 2
  dst    : BitVec 9
  dst2   : BitVec 9
  part   : Nat
  target : EndPoint
  win    : Bool
  lanes  : List LaneAcc
  poison : BitVec 4
  noAlloc : Bool
  accepted : Bool
  l1off  : Bool
  epoch  : Nat
  stage  : AccStage
  deriving DecidableEq, Repr

/-! ## Tallies, watches, barriers (10) -/

/-- A tally (R311). -/
structure Tally where
  assigned   : Bool
  tenant     : Nat
  owner      : Nat
  lastStatus : Status
  abandoned  : Bool
  value      : Nat
  deriving DecidableEq, Repr

/-- The kinds of watch and their destinations (R319). -/
inductive WatchKind where
  | group (core slot : Nat)
  | queue (q : Nat)
  | once (session : Nat)
  | every (session : Nat)
  deriving DecidableEq, Repr

/-- A watch entry (R319). -/
structure Watch where
  kind   : WatchKind
  tally  : Nat
  target : Nat
  tenant : Nat
  ctx    : Nat
  deriving DecidableEq, Repr

/-- A wake or event message on its way from the hub (R321, R322): `abandoned` where abandonment fired it, and the status that an
event message carries. -/
structure Wake where
  kind      : WatchKind
  tally     : Nat
  word      : DWord
  status    : Status
  abandoned : Bool
  deriving DecidableEq, Repr

/-- A bound barrier channel (R328). -/
structure Channel where
  launch  : Nat
  logical : Nat
  deriving DecidableEq, Repr

/-- The sync hub and the barrier channels (R311 to R334). -/
structure SyncHub where
  tallies     : SMap Tally
  watches     : List Watch
  wakes       : List Wake
  quota       : Nat
  blocked     : Nat
  lastBlocked : DWord
  ignored     : Nat
  outOfRange  : Nat
  watchFull   : Nat
  channels    : SMap (Option Channel)
  phases      : SMap Bool
  deriving DecidableEq, Repr

/-! ## Translation (11) -/

/-- A carrel (R341). -/
structure Carrel where
  start      : Nat
  units      : Nat
  tenant     : Nat
  tablePages : Nat
  deriving DecidableEq, Repr

/-- A mapped page: virtual address, size code of MAP (0: 64 KiB, 1: 2 MiB, 2: 1 GiB) and leaf (R342). -/
structure Leaf where
  va   : Nat
  size : Nat
  word : DWord
  deriving DecidableEq, Repr

/-- What a run of table-area blocks holds (R605): a node of a level with the virtual-address bits above it; a block of
4-byte dirty pieces by position, each naming its level-4 node or 2 MiB leaf; or the dirty piece of a 1 GiB leaf. -/
inductive RunUse where
  | node (level index : Nat)
  | dirtyBlock (pieces : SMap (Option (Nat × Nat)))
  | dirtyGiant (index : Nat)
  deriving DecidableEq, Repr

/-- A taken run of 256-byte blocks of a carrel's table area: the page in R337 order, the first block in it, the length (R605). -/
structure Run where
  page   : Nat
  first  : Nat
  blocks : Nat
  ctx    : Nat
  use    : RunUse
  deriving DecidableEq, Repr

/-- How far a migration has come (R352, R353, R423). -/
inductive MigStage where
  | awaiting
  | reading (conn : Nat)
  | arrived (bytes : List Byte)
  deriving DecidableEq, Repr

/-- Who waits on a fault record, in queue order (R351). -/
inductive Waiter where
  | access (id : Nat)
  | desk (queue : Nat)
  | fetch (core slot : Nat)
  | tile (core str : Nat)
  | plan (n : Nat)
  /-- The Desk's write of a queue's state record (R399, R606). -/
  | record (queue : Nat)
  deriving DecidableEq, Repr

/-- What a fault record tells beside the context's own fields (R600). -/
structure FaultInfo where
  ctx    : Nat
  status : Status
  kind   : Nat
  unit   : Nat
  core   : Nat
  slot   : Nat
  lane   : Option Nat
  queue  : Nat
  pos    : Nat
  pc     : DWord
  va     : Option Nat
  pa     : Option Nat
  deriving DecidableEq, Repr

/-- A fault record of the central translation unit (R351). `first` describes the first engine for R354 and R601. -/
structure MigRec where
  ctx    : Nat
  page   : Nat
  queue  : List Waiter
  first  : FaultInfo
  stage  : MigStage
  deriving DecidableEq, Repr

/-- An unmap or protect that waits for the accesses numbered below `before` (R350). -/
structure MapChange where
  queue  : Nat
  pos    : Nat
  ctx    : Nat
  before : Nat
  status : Status
  deriving DecidableEq, Repr

/-- A translated leaf as a cache or private buffer holds it: context, page size code, virtual page of that size, leaf (R347). -/
structure XEntry where
  ctx  : Nat
  size : Nat
  page : Nat
  word : DWord
  deriving DecidableEq, Repr

/-- A pointer entry that the walk cache holds: the context, the level and index of the node it names, and the node's address
(R347). -/
structure WalkEntry where
  ctx   : Nat
  level : Nat
  index : Nat
  pa    : Nat
  deriving DecidableEq, Repr

/-- The engines that translate (R347). A plan engine and a Folio run use the central unit itself. -/
inductive XUnit where
  | core (c : Nat)
  | streamer (c k : Nat)
  | sequencer (n : Nat)
  | desk
  | port (p : Nat)
  | central
  deriving DecidableEq, Repr

/-- The central translation unit (R336 to R357). `moved` lists, per carrel, the map-count pages that a retirement moved and
where to, in the order of the retirements (R340, R605). `cache` is the translation cache by 16 x set + way with its replacement
trees, `walks` the walk cache and `buffers` the engines' private buffers, oldest entry first (R347). -/
structure Xlat where
  carrels  : SMap Carrel
  leaves   : SMap (List Leaf)
  runs     : SMap (List Run)
  moved    : List (Nat × Nat × Nat)
  mapCount : SMap Nat
  dirty    : SMap (List Nat)
  records  : SMap (Option MigRec)
  changes  : List MapChange
  cache    : SMap (Option XEntry)
  trees    : SMap (BitVec 16)
  walks    : List WalkEntry
  buffers  : SMap (List XEntry)
  deriving DecidableEq, Repr

/-- States of a context (R358). -/
inductive CtxState where
  | free | live | lost | teardown | frozen
  deriving DecidableEq, Repr

/-- A context and its ledgers (R363, R398, R488). `wasRunnable`, and whether a command or a block
retired in the present Steep or, before its boundary has been acted on, in the next, are what R396 asks at a boundary. -/
structure Ctx where
  state        : CtxState
  tenant       : Nat
  carrel       : Nat
  migSession   : Nat
  dirtyTrack   : Bool
  migrations   : Nat
  faultStatus  : Status
  faultRecord  : BitVec 512
  cmdsRetired  : Nat
  blksRetired  : Nat
  coreCycles   : Nat
  lastProgress : Nat
  starved      : Nat
  promoted     : Bool
  folioLastId  : Nat
  folioChain   : Nat
  folioState   : Nat
  loaned       : Bool
  folioSteep   : Nat
  wasRunnable  : Bool
  moved        : Bool
  movedNext    : Bool
  deriving DecidableEq, Repr

/-! ## The Desk (12) -/

/-- A stream slot (R401). -/
structure Slot where
  enable   : Bool
  budget   : Nat
  queue    : Nat
  admitted : Nat
  dropped  : Nat
  used     : Nat
  usedNow  : Nat
  deriving DecidableEq, Repr

/-- States of a queue, in the codes of R399. -/
inductive QState where
  | disabled | idle | active | waiting | halted | stopped | frozen
  deriving DecidableEq, Repr

/-- Queue classes (R369). -/
inductive QClass where
  | kernel | serving | loan
  deriving DecidableEq, Repr

/-- A fetched packet with its ring position and, when pre-decode read it, the descriptor that it names (R375, R387). -/
structure Fetched where
  pos    : Nat
  packet : BitVec 512
  desc   : Option (BitVec 1024)
  deriving DecidableEq, Repr

/-- A dispatched command that has not completed. -/
structure OpenCmd where
  pos    : Nat
  packet : BitVec 512
  deriving DecidableEq, Repr

/-- An unresolved WAIT (R386); `polls` when no watch entry was free. -/
structure QWait where
  pos    : Nat
  packet : BitVec 512
  polls  : Bool
  deriving DecidableEq, Repr

/-- A queue (R369 to R399). `bells` holds the write positions of accepted doorbells with their stamps (R393), `cur` the
packets fetched and not yet dispatched, oldest first, `overBudget` admitted positions refused at admission, `copies` what admission read of the
LAUNCH packets and their descriptors (R374, R382, R393), `observed` the write position that the fetch loop observed last (R375,
R399), and `skips` the ranges of positions, as first position and length, that a flush has skipped (R388). -/
structure Queue where
  state        : QState
  cls          : QClass
  ctx          : Nat
  slot         : Nat
  session      : Nat
  log2         : Nat
  ring         : Nat
  record       : Nat
  readPos      : Word
  writePos     : Word
  retiredPos   : Word
  admitPos     : Word
  pendingBit   : Bool
  bells        : List (Nat × Word)
  cur          : List Fetched
  opened       : List OpenCmd
  wait         : Option QWait
  pre          : List Fetched
  overBudget   : List Word
  copies       : List Fetched
  observed     : Word
  skips        : List (Word × Nat)
  lastFailPos  : Word
  lastFail     : Status
  cmdsRetired  : Nat
  blksRetired  : Nat
  coreCycles   : Nat
  lastProgress : Nat
  before       : QState
  deriving DecidableEq, Repr

/-- A dispatched launch (R381 to R384). `cores` are the cores it holds, `next` the next block to place; `ended` says that it is
being discarded: its cores issue nothing more and go when what they issued has completed (R305, R360, R397). -/
structure Launch where
  queue    : Nat
  pos      : Nat
  packet   : BitVec 512
  ctx      : Nat
  serving  : Bool
  desc     : BitVec 1024
  uniforms : List Word
  cores    : List Nat
  next     : Nat
  retired  : Nat
  channels : List Nat
  started  : Bool
  steep    : Nat
  ended    : Bool
  deriving DecidableEq, Repr

/-- One item of a transaction (R507). -/
structure TxnItem where
  index  : Nat
  sub    : Nat
  invoke : Bool
  value  : List Byte
  deriving DecidableEq, Repr

/-- An accepted transaction or RWS write (R509, R510): stamp, session and TAG, whether a CAT_REPLY or command completion
is owed when it is applied, and the items. `queue` names the CARREL_SET that waits on it. -/
structure Txn where
  stamp   : Nat
  session : Nat
  tag     : Word
  queue   : Option (Nat × Nat)
  items   : List TxnItem
  deriving DecidableEq, Repr

/-- A teardown in progress: the kernel queue and position that asked, and the context (R361). -/
structure Teardown where
  queue   : Nat
  pos     : Nat
  ctx     : Nat
  stopped : Bool
  deriving DecidableEq, Repr

/-- The Desk (R364 to R401, R509, R603). `control` holds the bytes of page 0xF00_0000_0000, `record0` bytes 0 to 63 of
page 0xF00_0001_0000. -/
structure Desk where
  steepNumber   : Nat
  steepStart    : Nat
  overruns      : Nat
  promotedCtx   : Nat
  floorShare    : Nat
  align         : Bool
  periodUs      : Nat
  phaseNs       : Nat
  promoteSteeps : Nat
  slots         : SMap Slot
  queues        : SMap Queue
  launches      : SMap (Option Launch)
  nextLaunch    : Nat
  rrLoan        : Nat
  promoOrder    : List Nat
  txns          : List Txn
  txnDiscarded  : Nat
  catRefused    : Nat
  control       : SMap Byte
  record0       : BitVec 512
  teardowns     : List Teardown
  deriving DecidableEq, Repr

/-! ## Ports, sessions, connections, peers (13) -/

/-- One Ethernet port: H0, H1 are ports 0 and 1, P0 to P7 are ports 2 to 9 (R402 to R408, R433, R434). `paused` holds when the pause
of a priority ends, `runMode` the mode that the link runs in (R404), `rxLevel` how full the receive buffer of a priority is in
percent, and `pausing` the priorities for which the port has asked its partner to pause (R408). -/
structure Port where
  linkMode  : Nat
  linkState : Nat
  ip        : BitVec 128
  pfxLen    : Nat
  gateway   : BitVec 128
  vlan      : Nat
  mgmtVlan  : Nat
  mtu       : Nat
  pfcEnable : Byte
  prioMain  : Nat
  prioSmt   : Nat
  ptpMode   : Nat
  fecCorr   : Nat
  fecUncorr : Nat
  rxDropped : Nat
  nakSent   : Nat
  paused    : SMap Nat
  resolved  : List (BitVec 128 × BitVec 48)
  runMode   : Nat
  rxLevel   : SMap Nat
  pausing   : Byte
  deriving DecidableEq, Repr

/-- A message the device sends (R415, R419). -/
structure OutMsg where
  typ     : Nat
  seq     : Nat
  status  : Status
  more    : Bool
  tag     : Word
  arg0    : DWord
  payload : List Byte
  deriving DecidableEq, Repr

/-- An open session (R416, R417). -/
structure Session where
  port     : Nat
  ip       : BitVec 128
  udp      : BitVec 16
  tenant   : Nat
  operator : Bool
  keyTag   : BitVec 22
  rxNext   : Word
  txNext   : Word
  unacked  : List OutMsg
  resends  : Nat
  backoff  : Nat
  owed     : Nat
  deriving DecidableEq, Repr

/-- What a device-issued RDMA request serves (R413, R353, R380). -/
inductive RdmaUse where
  | access (id : Nat)
  | migration (rec : Nat)
  deriving DecidableEq, Repr

/-- An outstanding device-issued RDMA request (R413); `sent` is false while it waits for one of 16 reads to end (R410). -/
structure RdmaReq where
  psn    : BitVec 24
  write  : Bool
  va     : Nat
  rkey   : Word
  length : Nat
  data   : List Byte
  use    : RdmaUse
  sent   : Bool
  deriving DecidableEq, Repr

/-- A RoCEv2 reliable connection (R410 to R414). `rate` is the sending rate, in parts of 65,536, that the last congestion
notification left at `cnpAt`; it is restored linearly over 100 µs. `cnpSent` is when the device last sent one. -/
structure Conn where
  session : Nat
  qpn     : BitVec 24
  rxPsn   : BitVec 24
  txPsn   : BitVec 24
  pmtu    : Nat
  bound   : Option Nat
  error   : Bool
  reqs    : List RdmaReq
  retries : Nat
  rate    : Nat
  cnpAt   : Nat
  cnpSent : Option Nat
  deriving DecidableEq, Repr

/-- A Peer Transport frame that the device sends; `length` is the number of bytes that a READ asks for, else the payload's. -/
structure OutFrame where
  typ     : Nat
  seq     : Nat
  tag     : Word
  opx     : Byte
  addr    : Nat
  length  : Nat
  status  : Status
  context : Nat
  tenant  : Nat
  dst     : Nat
  poison  : List Bool
  payload : List Byte
  deriving DecidableEq, Repr

/-- One channel of a peer-table entry (R427, R428). -/
structure Chan where
  txNext  : Nat
  rxNext  : Nat
  unacked : List OutFrame
  owed    : Nat
  misses  : Nat
  seen    : Bool
  ever    : Bool
  deriving DecidableEq, Repr

/-- A peer-table entry: its 512 bits (R425) and its channels by port number 0 to 7. -/
structure Peer where
  entry : BitVec 512
  chans : SMap Chan
  deriving DecidableEq, Repr

/-- What the device gives to a port to send. -/
inductive Sent where
  | smt (session : Nat) (m : OutMsg)
  /-- An OPEN_REPLY or ACK, which consumes no sequence number; `to` is the port. -/
  | unseq (port session : Nat) (ip : BitVec 128) (udp : BitVec 16) (m : OutMsg) (ack : Word) (gap : Bool)
  | roceAck (conn : Nat) (psn : BitVec 24)
  | roceNak (conn : Nat) (psn : BitVec 24) (kind : Nat)
  | roceRead (conn : Nat) (psn : BitVec 24) (data : List Byte)
  | rdma (conn : Nat) (r : RdmaReq)
  | cnp (conn : Nat)
  | peer (n port : Nat) (f : OutFrame)
  /-- A KEEPALIVE, which also carries an acknowledgement alone (LOG 141). -/
  | keepalive (n port : Nat)
  /-- A priority flow control frame: it pauses the priority, or resumes it. -/
  | pause (port prio : Nat) (on : Bool)
  /-- An ARP or Neighbor Discovery answer to the asker, and a request for an address. -/
  | neighbour (port : Nat) (ip : BitVec 128) (mac : BitVec 48)
  | solicit (port : Nat) (ip : BitVec 128)
  | echo (port : Nat) (ip : BitVec 128) (data : List Byte)
  /-- A PTP delay request. -/
  | delayReq (port : Nat)
  deriving DecidableEq, Repr

/-- A frame on the wire: what carries it, and the header fields that are filled in as it leaves (R406 to R408, R415, R424). MAC
control frames have no priority. -/
structure Wire where
  port    : Nat
  srcIp   : BitVec 128
  dstIp   : BitVec 128
  dstMac  : BitVec 48
  udp     : BitVec 16
  vlan    : Nat
  prio    : Option Nat
  version : Nat
  ack     : Nat
  srcPeer : Nat
  what    : Sent
  deriving DecidableEq, Repr

/-- A PTP exchange under way: when the master sent its Sync and it arrived, and when the delay request left (R403). -/
structure PtpSync where
  t1 : Option Nat
  t2 : Nat
  t3 : Option Nat
  deriving DecidableEq, Repr

/-- Holders of the shared resources of R432. -/
inductive Holder where
  | none | align | ptp | folio | attest | reduction
  deriving DecidableEq, Repr

/-- The ports and everything the transports keep (R402 to R435). `sent` lists what the device gave to its ports and `wire` the frames
that left, newest first (the model's own records); `held` the frames that wait for their link, their priority or an address, oldest
first (R404, R406, R408). -/
structure Ports where
  ports      : SMap Port
  sessions   : SMap (Option Session)
  closedAt   : SMap (Option Nat)
  conns      : SMap (Option Conn)
  allow      : SMap (BitVec 256)
  ownPeer    : Nat
  peers      : SMap Peer
  peersLost  : Nat
  stepHolder : Holder
  stepPort   : Nat
  ptpPort    : Option Nat
  digHolder  : Holder
  staging    : SMap Holder
  sent       : List Sent
  held       : List Sent
  wire       : List Wire
  ptpSync    : Option PtpSync
  deriving DecidableEq, Repr

/-! ## Plans (14) and Folio (15) -/

/-- The assembly of one bucket of one step in the staging pool of a port (R453): entries by index within the bucket, each a
value code and, for Leaf formats, its Caddy; the payload bytes held; whether its last frame has arrived, and whether a frame did
not match the plan (R457). -/
structure Staged where
  plan     : Nat
  step     : Nat
  bucket   : Nat
  port     : Nat
  bytes    : Nat
  entries  : SMap (Option (Word × Nat))
  poisoned : Bool
  whole    : Bool
  bad      : Bool
  deriving DecidableEq, Repr

/-- A plan (R436) and where its steps stand: the running, the failed or the next step, the START last observed, the buckets that
this step has sent or written, the bytes received, whether the moves are done, the RESHARD_WRITEs not yet answered, each as
peer + 4096 x address, the ports whose staging pools it claims (R432, R438), a FAILED_STEP and STATUS not yet written (R443), and
whether a PEER_SET discarded frames of this step that no acknowledgement can reach any more (R429, R442). -/
structure Plan where
  raw       : BitVec 1024
  running   : Bool
  failed    : Bool
  step      : Nat
  start     : Nat
  written   : List Nat
  received  : Nat
  moved     : Bool
  tags      : List Nat
  pools     : List Nat
  report    : Option (Nat × Status)
  lostFrames : Bool
  deriving DecidableEq, Repr

/-- The plan engines (R436 to R460). -/
structure Plans where
  plans     : SMap Plan
  staged    : List Staged
  done      : Nat
  failed    : Nat
  discarded : Nat
  drops     : Nat
  entries   : Nat
  deriving DecidableEq, Repr

/-- The Folio commands (R464). -/
inductive FolioKind where
  | recall | write | restore
  deriving DecidableEq, Repr

/-- A Folio command with its packet and locators as read at dispatch (R464, R465). -/
structure FolioCmd where
  kind   : FolioKind
  queue  : Nat
  pos    : Nat
  packet : BitVec 512
  ctx    : Nat
  locs   : List (BitVec 256)
  deriving DecidableEq, Repr

/-- Phases of the running Folio command. -/
inductive FolioPhase where
  | waitBoundary | freezing | writing | stored | fetching | reading
  deriving DecidableEq, Repr

/-- An item of an image (R470, R471). -/
structure FolioItem where
  kind   : Nat
  key    : Nat
  poison : Bool
  digest : List Byte
  hashed : Bool
  page   : Nat
  deriving DecidableEq, Repr

/-- The running Folio command (R467 to R486). `sinkSeqs` holds the frames that a peer has not answered, as (number, bytes for
a write, key of `got` for a read); `got` the segments of the source images by 2^48 x image + offset, `image` the image that is
being read, `roots` the ROOT of each image that passed the checks of R484, `storedBy` the sessions whose FOLIO_STORED arrived,
`freezeAt` and `steep` the freeze's stamp and Steep. -/
structure FolioRun where
  cmd      : FolioCmd
  phase    : FolioPhase
  items    : List FolioItem
  freezeAt : Nat
  steep    : Nat
  sinkSeqs : List (Nat × Nat)
  storedBy : List Nat
  image    : Nat
  got      : SMap (List Byte)
  roots    : List (List Byte)
  failure  : Option Status
  bytes    : Nat
  total    : Nat
  deriving DecidableEq, Repr

/-- A request to a digest engine: page address, message head of at most 64 bytes, and the item it serves (R232). -/
structure DigestReq where
  page : Nat
  head : List Byte
  item : Nat
  deriving DecidableEq, Repr

/-- A FOLIO_WRITE that has ended: its context is thawed at the next boundary, and the command then completes with `status`
(R480); `stamp` and `steep` are those of its freeze. A restore ends in the same way (R486). -/
structure FolioThaw where
  ctx    : Nat
  queue  : Nat
  pos    : Nat
  status : Status
  stamp  : Nat
  steep  : Nat
  deriving DecidableEq, Repr

/-- The Folio unit and the digest engines (R232 to R234, R461 to R487). -/
structure Folio where
  waiting      : List FolioCmd
  run          : Option FolioRun
  thaws        : List FolioThaw
  digests      : SMap (List DigestReq)
  lastDigest   : SMap (List Byte × Bool)
  written      : Nat
  recalls      : Nat
  restores     : Nat
  restoreFails : Nat
  trustMode    : Nat
  trusted      : SMap (BitVec 256)
  deriving DecidableEq, Repr

/-! ## Firmware, presence, debug (17), power (18) -/

/-- Firmware, keys, presence, tamper and debug state (R519 to R546, R516, R517, R593). `keyDigests` are the fused digests of the vendor
key slots 0 to 3 (R540); no command writes them. -/
structure Sec where
  sealBroken   : Bool
  mismatches   : Nat
  lfsr         : BitVec 16
  presenceEnd  : Option Nat
  keyDigests   : List (List Byte)
  keyRevoked   : BitVec 4
  fwImage      : List Byte
  fwStage      : List Byte
  fwSeg        : Option (Nat × List Byte)
  flash        : List Byte
  commit       : Option (Nat × Word)
  debugEnable  : Nat
  debugCtx     : Nat
  jtagUnlock   : Nat
  debugEvents  : Nat
  everDebug    : Bool
  everJtag     : Bool
  jtagIr       : JtagOp
  deriving DecidableEq, Repr

/-- States of the device in C 0x1100.01 (R514). -/
inductive DevState where
  | starting | running | recovery | stopping
  deriving DecidableEq, Repr

/-- A DOMAIN_RESET that the server has accepted (R561, R562). -/
structure DomReset where
  dom     : Nat
  session : Nat
  tag     : Word
  stopped : Bool
  deriving DecidableEq, Repr

/-- A whole-cache action in progress: its operation, whether it acts on every L1 too, the next set of the walk,
and the queue and position of the CACHE_MAINT that asked for it, none for CC_MAINT (R266, R268, R274). -/
structure CcWalk where
  op    : Nat
  l1    : Bool
  next  : Nat
  owner : Option (Nat × Nat)
  deriving DecidableEq, Repr

/-- Clocks, resets, pins, thermal state and start-up (R547 to R577, R586, R589, R515, R274). `epoch` counts losses of
DRAM content; `slew` is the offset of the time base that PTP is still removing (R432, R549). -/
structure Power where
  now         : Nat
  slew        : Int
  porstLow    : Bool
  powered     : Bool
  warmHeld    : Bool
  thermtrip   : Bool
  stoppedLow  : Bool
  tripped     : Bool
  clocks      : BitVec 64
  resets      : List DomReset
  devState    : DevState
  step        : Nat
  startFail   : Status
  stepDone    : SMap Nat
  releaseAt   : Nat
  warmStart   : Bool
  memReady    : Bool
  straps      : BitVec 3
  testMode    : Bool
  ethRef      : BitVec 2
  logicTemp   : Word
  layerTemps  : SMap Word
  powerW      : Word
  vddMv       : BitVec 16
  arithMHz    : Nat
  capMHz      : Nat
  limitW      : Nat
  throttles   : Nat
  lastTrip    : Word
  ccDisable   : BitVec 24
  ccDisableNext : BitVec 24
  ccMaint     : List CcWalk
  epoch       : Nat
  deriving DecidableEq, Repr

/-- One line of a control core's cache: its number and AGE (R263). -/
structure CtlLine where
  line : Nat
  age  : BitVec 2
  data : Line
  deriving DecidableEq, Repr

/-- One cache of a control core: lines by ways x set + way, and the line of the outstanding miss (R263, R264). -/
structure CtlCache where
  lines : SMap (Option CtlLine)
  miss  : Option Nat
  deriving DecidableEq, Repr

/-- A control core's instruction and data caches (R263). -/
structure CtlCore where
  icache : CtlCache
  dcache : CtlCache
  deriving DecidableEq, Repr

/-- The whole machine. `ctl` holds the control cores: 0 to 23 the cluster sequencers', 24 to 27 the Desk's. `fresh` is the model's own counter of free values drawn (LOG 6); `pending` the waiting commands,
first in, first out. -/
structure State where
  power    : Power
  sec      : Sec
  dram     : Dram
  clusters : SMap Cluster
  cores    : SMap Core
  ctl      : SMap CtlCore
  accesses : List Access
  nextAcc  : Nat
  hub      : SyncHub
  xlat     : Xlat
  ctxs     : SMap Ctx
  desk     : Desk
  ports    : Ports
  plans    : Plans
  folio    : Folio
  fresh    : Nat
  pending  : List Instr
  deriving DecidableEq, Repr

/-- Ways the model stops a command with a fault. -/
inductive Fault where
  /-- Raised by `execVaultRead` for an address outside DRAM: the spec says no such vault address exists (R27, R28). Safe. -/
  | noSuchAddress (pa : Nat)
  deriving DecidableEq, Repr

/-- Ways the model refuses a command. -/
inductive Refusal where
  /-- Raised by an arm of `exec` whose command has no meaning yet. Safe. -/
  | notModelled (mnemonic : String)
  /-- Raised by `execJtagInstruction` for an instruction other than BYPASS and IDCODE on an unlocked port: R593 says that it
  acts and not how. Safe. -/
  | jtagUnspecified (code : Nat)
  deriving DecidableEq, Repr

/-! ## Reset values -/

/-- The L1 way, cluster-cache way and cluster cache that hold nothing. -/
def L1Line.none : L1Line := { line := 0, valid := 0, poison := 0, age := 0, data := 0 }

/-- An invalid way of a cluster cache. -/
def CcLine.none : CcLine := { line := 0, valid := 0, dirty := 0, poison := 0, data := 0 }

/-- An empty cluster cache (R561 step 4). -/
def Cluster.empty : Cluster := { lines := [], tree := [], evict := [], granules := [] }

/-- The engine state that R200 presents to a launch. -/
def MxEngine.fresh : MxEngine :=
  { acc := [], live := 0, bufA := [], bufB := [], tbl := [], scl := [], poiA := [], poiB := [], poiTbl := [], poiScl := [],
    queue := [] }

/-- A streamer with no descriptor. -/
def Streamer.idle : Streamer := { descs := [], done := [] }

/-- A core that no launch holds. -/
def CoreWork.empty : CoreWork :=
  { launch := none, groups := [], blocks := [], ls := [], lsPoison := [], mx := MxEngine.fresh, ts := [] }

/-- A core after reset. -/
def Core.idle : Core :=
  { work := CoreWork.empty, saved := [], stage := .running, held := false, l1 := [], misses := [], reuse := [],
    lastCost := [], portCost := [], prevCtx := none, prevLsKib := 0, since := none, takenFor := none }

/-- A control core whose caches hold nothing. -/
def CtlCore.empty : CtlCore := { icache := { lines := [], miss := none }, dcache := { lines := [], miss := none } }

/-- A free tally: the reset state of R311. -/
def Tally.free : Tally :=
  { assigned := false, tenant := 0, owner := 0, lastStatus := 0, abandoned := false, value := 0 }

/-- Carrel n after a cold reset (R341). -/
def Carrel.default (n : Nat) : Carrel :=
  if n = 0 then { start := 0, units := 256, tenant := 256, tablePages := 4096 }
  else { start := 0, units := 0, tenant := 256, tablePages := 4096 }

/-- A FREE context: every entry at its default (R363, R398, R488). -/
def Ctx.fresh : Ctx :=
  { state := .free, tenant := 0, carrel := 0, migSession := 0, dirtyTrack := false, migrations := 0, faultStatus := 0,
    faultRecord := 0, cmdsRetired := 0, blksRetired := 0, coreCycles := 0, lastProgress := 0, starved := 0, promoted := false,
    folioLastId := 0, folioChain := 0, folioState := 0, loaned := false, folioSteep := 0, wasRunnable := false, moved := false,
    movedNext := false }

/-- A stream slot after reset (R401). -/
def Slot.reset : Slot :=
  { enable := false, budget := 0, queue := 0xFFFF, admitted := 0, dropped := 0, used := 0, usedNow := 0 }

/-- A DISABLED queue. -/
def Queue.disabled : Queue :=
  { state := .disabled, cls := .kernel, ctx := 0, slot := 0, session := 0, log2 := 0, ring := 0, record := 0, readPos := 0,
    writePos := 0, retiredPos := 0, admitPos := 0, pendingBit := false, bells := [], cur := [], opened := [], wait := none,
    pre := [], overBudget := [], copies := [], observed := 0, skips := [], lastFailPos := 0, lastFail := 0, cmdsRetired := 0, blksRetired := 0, coreCycles := 0,
    lastProgress := 0, before := .disabled }

/-- Port n after a cold reset (R433, R434): PRIO_ROCE or PRIO_PEER is 3. -/
def Port.reset (n : Nat) : Port :=
  { linkMode := 0, linkState := 0, ip := 0, pfxLen := 0, gateway := 0, vlan := 0, mgmtVlan := 0, mtu := 9000, pfcEnable := 8,
    prioMain := 3, prioSmt := if n < 2 then 4 else 0, ptpMode := 0, fecCorr := 0, fecUncorr := 0, rxDropped := 0, nakSent := 0,
    paused := [], resolved := [], runMode := 0, rxLevel := [], pausing := 0 }

/-- A channel at SEQ 0 (R429). -/
def Chan.fresh : Chan :=
  { txNext := 0, rxNext := 0, unacked := [], owed := 0, misses := 0, seen := false, ever := false }

/-- An unused peer-table entry (R425). -/
def Peer.unused : Peer := { entry := 0, chans := [] }

/-- An unused plan (R436). -/
def Plan.unused : Plan :=
  { raw := 0, running := false, failed := false, step := 0, start := 0, written := [], received := 0,
    moved := false, tags := [], pools := [], report := none, lostFrames := false }

/-- DRAM health at a cold reset with its content lost for the `n`-th time (R56, R557). `factory` are the factory records. -/
def Dram.lost (n : Nat) (factory : List (Nat × Nat × Nat)) : Dram :=
  { bytes := [], background := n, checks := [], corrected := 0, uncorrectable := 0, poisonReads := 0, lastAddr := 0,
    lastKind := 0, scrubPeriodH := 24, scrub := [], passes := [], ueHead := 0, ueLog := [], layerCorrected := [],
    doubled := [], refreshes := [], lastRefresh := [], factoryRetired := factory, fieldRetired := [], out := [] }

/-- The sync hub after any reset (R312, R334). -/
def SyncHub.reset : SyncHub :=
  { tallies := [], watches := [], wakes := [], quota := 16384, blocked := 0, lastBlocked := 0, ignored := 0, outOfRange := 0,
    watchFull := 0, channels := [], phases := [] }

/-- Translation state after a cold reset. -/
def Xlat.reset : Xlat :=
  { carrels := [], leaves := [], runs := [], moved := [], mapCount := [], dirty := [], records := [], changes := [], cache := [],
    trees := [], walks := [], buffers := [] }

/-- The Desk after a cold reset (R400). -/
def Desk.reset : Desk :=
  { steepNumber := 0, steepStart := 0, overruns := 0, promotedCtx := 0xFFFF, floorShare := 1, align := false,
    periodUs := 33333, phaseNs := 0, promoteSteeps := 64, slots := [], queues := [], launches := [], nextLaunch := 0,
    rrLoan := 4095, promoOrder := [], txns := [], txnDiscarded := 0, catRefused := 0, control := [], record0 := 0,
    teardowns := [] }

/-- Ports, sessions and peers after a cold reset. -/
def Ports.reset : Ports :=
  { ports := [], sessions := [], closedAt := [], conns := [], allow := [], ownPeer := 0, peers := [], peersLost := 0,
    stepHolder := .none, stepPort := 0, ptpPort := none, digHolder := .none, staging := [], sent := [], held := [], wire := [],
    ptpSync := none }

/-- The plan engines after any reset (R439, R460). -/
def Plans.reset : Plans :=
  { plans := [], staged := [], done := 0, failed := 0, discarded := 0, drops := 0, entries := 0 }

/-- The Folio unit after a cold reset (R487). -/
def Folio.reset : Folio :=
  { waiting := [], run := none, thaws := [], digests := [], lastDigest := [], written := 0, recalls := 0, restores := 0,
    restoreFails := 0, trustMode := 0, trusted := [] }

/-- Security state at a cold reset; `digests` and `revoked` are the fuses. SEAL_BROKEN keeps its value until R536 sets it. -/
def Sec.cold (broken : Bool) (digests : List (List Byte)) (revoked : BitVec 4) (flash : List Byte) : Sec :=
  { sealBroken := broken, mismatches := 0, lfsr := 1, presenceEnd := none, keyDigests := digests, keyRevoked := revoked, fwImage := [],
    fwStage := [], fwSeg := none, flash := flash, commit := none, debugEnable := 0, debugCtx := 0xFFFF, jtagUnlock := 0,
    debugEvents := 0, everDebug := false, everJtag := false, jtagIr := .idcode }

/-- Power state while PORST_N is low (R557, R586). -/
def Power.cold (lastTrip : Word) (eth : BitVec 2) (epoch : Nat) : Power :=
  { now := 0, slew := 0, porstLow := true, powered := true, warmHeld := false, thermtrip := false, stoppedLow := true, tripped := false,
    clocks := 1, resets := [], devState := .starting, step := 0, startFail := 0, stepDone := [], releaseAt := 0,
    warmStart := false, memReady := false, straps := 0, testMode := false, ethRef := eth, logicTemp := 0, layerTemps := [],
    powerW := 0, vddMv := 0, arithMHz := 2400, capMHz := 2400, limitW := 350, throttles := 0, lastTrip := lastTrip,
    ccDisable := 0, ccDisableNext := 0, ccMaint := [], epoch := epoch }

/-- The machine in cold reset: PORST_N low, the rails in tolerance, every entry at its default (R490, R557). -/
def State.reset : State :=
  { power := Power.cold 0 3 1, sec := Sec.cold false ((List.range 4).map Config.keyDigest) Config.fusedRevoked [],
    dram := Dram.lost 1 factoryRuns, clusters := [], cores := [], ctl := [], accesses := [], nextAcc := 0, hub := SyncHub.reset, xlat := Xlat.reset, ctxs := [], desk := Desk.reset,
    ports := Ports.reset, plans := Plans.reset, folio := Folio.reset, fresh := 0, pending := [] }

end Sys2Proof.Machine
end

