-- ==== Sys2Proof/Machine/Get.lean ====
section
/-! DEFINITION. Reading and changing one member of each family of state: the accessors that every meaning goes through. -/

namespace Sys2Proof.Machine

/-- The outcome of a command. -/
abbrev Out := Host.Outcome State Fault Refusal

/-- Core `c`. -/
def State.core (s : State) (c : Nat) : Core := sget (fun _ => Core.idle) s.cores c

/-- Change core `c`. -/
def State.modCore (s : State) (c : Nat) (f : Core → Core) : State :=
  { s with cores := sput (fun _ => Core.idle) s.cores c (f (s.core c)) }

/-- Change what a launch holds on core `c`. -/
def State.modWork (s : State) (c : Nat) (f : CoreWork → CoreWork) : State :=
  s.modCore c fun k => { k with work := f k.work }

/-- Cluster cache `n`. -/
def State.cluster (s : State) (n : Nat) : Cluster := sget (fun _ => Cluster.empty) s.clusters n

/-- Change cluster cache `n`. -/
def State.modCluster (s : State) (n : Nat) (f : Cluster → Cluster) : State :=
  { s with clusters := sput (fun _ => Cluster.empty) s.clusters n (f (s.cluster n)) }

/-- Control core `n`. -/
def State.ctlCore (s : State) (n : Nat) : CtlCore := sget (fun _ => CtlCore.empty) s.ctl n

/-- Change control core `n`. -/
def State.modCtl (s : State) (n : Nat) (f : CtlCore → CtlCore) : State :=
  { s with ctl := sput (fun _ => CtlCore.empty) s.ctl n (f (s.ctlCore n)) }

/-- Context `n`. -/
def State.ctx (s : State) (n : Nat) : Ctx := sget (fun _ => Ctx.fresh) s.ctxs n

/-- Change context `n`. -/
def State.modCtx (s : State) (n : Nat) (f : Ctx → Ctx) : State :=
  { s with ctxs := sput (fun _ => Ctx.fresh) s.ctxs n (f (s.ctx n)) }

/-- Queue `q`. -/
def State.queue (s : State) (q : Nat) : Queue := sget (fun _ => Queue.disabled) s.desk.queues q

/-- Change queue `q`. -/
def State.modQueue (s : State) (q : Nat) (f : Queue → Queue) : State :=
  { s with desk := { s.desk with queues := sput (fun _ => Queue.disabled) s.desk.queues q (f (s.queue q)) } }

/-- Stream slot `n`. -/
def State.slot (s : State) (n : Nat) : Slot := sget (fun _ => Slot.reset) s.desk.slots n

/-- Change stream slot `n`. -/
def State.modSlot (s : State) (n : Nat) (f : Slot → Slot) : State :=
  { s with desk := { s.desk with slots := sput (fun _ => Slot.reset) s.desk.slots n (f (s.slot n)) } }

/-- Tally `n`. -/
def State.tally (s : State) (n : Nat) : Tally := sget (fun _ => Tally.free) s.hub.tallies n

/-- Change tally `n`. -/
def State.modTally (s : State) (n : Nat) (f : Tally → Tally) : State :=
  { s with hub := { s.hub with tallies := sput (fun _ => Tally.free) s.hub.tallies n (f (s.tally n)) } }

/-- Carrel `n`. -/
def State.carrel (s : State) (n : Nat) : Carrel := sget Carrel.default s.xlat.carrels n

/-- Port `n`. -/
def State.port (s : State) (n : Nat) : Port := sget Port.reset s.ports.ports n

/-- Change port `n`. -/
def State.modPort (s : State) (n : Nat) (f : Port → Port) : State :=
  { s with ports := { s.ports with ports := sput Port.reset s.ports.ports n (f (s.port n)) } }

/-- Session `n`, when open. -/
def State.session (s : State) (n : Nat) : Option Session := oget s.ports.sessions n

/-- Set session `n`. -/
def State.setSession (s : State) (n : Nat) (v : Option Session) : State :=
  { s with ports := { s.ports with sessions := oput s.ports.sessions n v } }

/-- Connection `n`, when it exists. -/
def State.conn (s : State) (n : Nat) : Option Conn := oget s.ports.conns n

/-- Set connection `n`. -/
def State.setConn (s : State) (n : Nat) (v : Option Conn) : State :=
  { s with ports := { s.ports with conns := oput s.ports.conns n v } }

/-- Peer-table entry `n`. -/
def State.peer (s : State) (n : Nat) : Peer := sget (fun _ => Peer.unused) s.ports.peers n

/-- Change peer-table entry `n`. -/
def State.modPeer (s : State) (n : Nat) (f : Peer → Peer) : State :=
  { s with ports := { s.ports with peers := sput (fun _ => Peer.unused) s.ports.peers n (f (s.peer n)) } }

/-- Channel of peer `n` on port `p`. -/
def State.chan (s : State) (n p : Nat) : Chan := sget (fun _ => Chan.fresh) (s.peer n).chans p

/-- Change a channel. -/
def State.modChan (s : State) (n p : Nat) (f : Chan → Chan) : State :=
  s.modPeer n fun e => { e with chans := sput (fun _ => Chan.fresh) e.chans p (f (sget (fun _ => Chan.fresh) e.chans p)) }

/-- Plan `n`. -/
def State.plan (s : State) (n : Nat) : Plan := sget (fun _ => Plan.unused) s.plans.plans n

/-- Change plan `n`. -/
def State.modPlan (s : State) (n : Nat) (f : Plan → Plan) : State :=
  { s with plans := { s.plans with plans := sput (fun _ => Plan.unused) s.plans.plans n (f (s.plan n)) } }

/-- Launch `n`, when dispatched and not complete. -/
def State.launch (s : State) (n : Nat) : Option Launch := oget s.desk.launches n

/-- Set launch `n`. -/
def State.setLaunch (s : State) (n : Nat) (v : Option Launch) : State :=
  { s with desk := { s.desk with launches := oput s.desk.launches n v } }

/-- The group in quadrant-and-slot key `k` (16 x quadrant + slot) of core `c`. -/
def State.group (s : State) (c k : Nat) : Option Group := oget (s.core c).work.groups k

/-- Set a group. -/
def State.setGroup (s : State) (c k : Nat) (g : Option Group) : State :=
  s.modWork c fun w => { w with groups := oput w.groups k g }

/-- Change a group where there is one. -/
def State.modGroup (s : State) (c k : Nat) (f : Group → Group) : State :=
  match s.group c k with
  | some g => s.setGroup c k (some (f g))
  | none => s

/-- The key of a group reference. -/
def gkey (g : GroupRef) : Nat := 16 * g.quad + g.slot

/-- The streamer `n` of core `c`. -/
def State.streamer (s : State) (c n : Nat) : Streamer := sget (fun _ => Streamer.idle) (s.core c).work.ts n

/-- Change a streamer. -/
def State.modStreamer (s : State) (c n : Nat) (f : Streamer → Streamer) : State :=
  s.modWork c fun w => { w with ts := sput (fun _ => Streamer.idle) w.ts n (f (sget (fun _ => Streamer.idle) w.ts n)) }

/-- Change the matrix engine of core `c`. -/
def State.modMx (s : State) (c : Nat) (f : MxEngine → MxEngine) : State :=
  s.modWork c fun w => { w with mx := f w.mx }

/-- Change every access that `p` accepts. -/
def State.modAccess (s : State) (id : Nat) (f : Access → Access) : State :=
  { s with accesses := replaceFirst (fun a => a.id == id) f s.accesses }

/-- The access numbered `id`. -/
def State.access (s : State) (id : Nat) : Option Access := s.accesses.find? fun a => a.id == id

/-- Remove an access that completed or was dropped. -/
def State.dropAccess (s : State) (id : Nat) : State :=
  { s with accesses := s.accesses.filter fun a => a.id != id }

/-- Draw the next free value (LOG 6): its index; the counter moves on. -/
def State.draw (s : State) : Nat × State := (s.fresh, { s with fresh := s.fresh + 1 })

/-- The fused digest of vendor key slot `n`; every byte of an unused slot is zero (R540). -/
def Sec.keyDigest (x : Sec) (n : Nat) : List Byte := x.keyDigests.getD n []

/-- The number of cores. -/
def coreCount : Nat := 384

/-- The number of contexts (R358). -/
def ctxCount : Nat := 1024

/-- The keys listed in a sparse map. -/
def keysOf {α : Type} (m : List (Nat × α)) : List Nat := m.map (·.1)

end Sys2Proof.Machine
end

