-- ==== Sys2Proof/Machine/Hub.lean ====
section
/-! DEFINITION. The sync hub: tally operations, watches and their firing (10_tallies_and_barriers.md, R134). -/

namespace Sys2Proof.Machine

/-- The largest value of a tally (R311). -/
def tallyMax : Nat := 2 ^ 63 - 1

/-- The tally word: the abandoned flag in bit 63 and the value (R134). -/
def Tally.word (t : Tally) : DWord := BitVec.ofNat 64 (b2n t.abandoned <<< 63 ||| t.value)

/-- The 128 bits of R311. -/
def Tally.image (t : Tally) : QWord :=
  at_ 128 98 (b2n t.assigned) ||| at_ 128 90 t.tenant ||| at_ 128 80 t.owner ||| at_ 128 64 t.lastStatus.toNat |||
    t.word.setWidth 128

/-- The tenant check of R134 and R313. -/
def Tally.allows (t : Tally) (tenant : Nat) : Bool := t.assigned && t.tenant == tenant

/-- Send the wakes of the watches that `p` accepts, in registration order; those that `keep` accepts stay (R321, R322). -/
def fireWatches (s : State) (tally : Nat) (status : Status) (abandoned : Bool) (p keep : Watch → Bool) : State :=
  let word := (s.tally tally).word
  let hit := s.hub.watches.filter fun w => w.tally == tally && p w
  let wakes := hit.map fun w => { kind := w.kind, tally := tally, word := word, status := status, abandoned := abandoned : Wake }
  { s with hub := { s.hub with
      watches := s.hub.watches.filter fun w => !(w.tally == tally && p w) || keep w
      wakes := s.hub.wakes ++ wakes } }

/-- Whether a watch is an event watch of the every kind (R319). -/
def Watch.everyKind (w : Watch) : Bool := match w.kind with | .every _ => true | _ => false

/-- Count a blocked signal and record it (R334). -/
def countBlocked (s : State) (n tenant ctx : Nat) : State :=
  let t := s.tally n
  let word := at_ 64 0 n ||| at_ 64 16 tenant ||| at_ 64 24 (if t.assigned then t.tenant else 0) ||| at_ 64 32 ctx
  { s with hub := { s.hub with blocked := satAdd 64 s.hub.blocked 1, lastBlocked := word } }

/-- A signal or add on tally `n` by context `ctx`; LAST_STATUS becomes `last` (R134, R316 to R318, R321). -/
def tallySignal (s : State) (add : Bool) (n v ctx tenant : Nat) (last : Status) : Status × State :=
  if n > 65535 then (Code.tallyRange, s) else
  let t := s.tally n
  if !t.allows tenant then (Code.tallyTenant, countBlocked s n tenant ctx)
  else if t.abandoned then (Code.tallyAbandoned, s)
  else
    let new := if add then t.value + v else v
    if new > tallyMax then
      (Code.tallyValueRange, { s with hub := { s.hub with outOfRange := satAdd 64 s.hub.outOfRange 1 } })
    else if !add && new < t.value then
      (Code.signalIgnored, { s with hub := { s.hub with ignored := satAdd 64 s.hub.ignored 1 } })
    else
      let s := s.modTally n fun t => { t with value := Nat.max t.value new, lastStatus := last }
      (Code.success, if new > t.value
        then fireWatches s n last false (fun w => decide (w.target ≤ new)) Watch.everyKind else s)

/-- Watch entries that a tenant holds (R320). -/
def watchesOf (s : State) (tenant : Nat) : Nat := (s.hub.watches.filter (·.tenant == tenant)).length

/-- Register a watch; a full table or quota refuses and counts (R320). -/
def registerWatch (s : State) (w : Watch) : Option State :=
  if s.hub.watches.length < 16384 ∧ watchesOf s w.tenant < s.hub.quota then
    some { s with hub := { s.hub with watches := s.hub.watches ++ [w] } }
  else none

/-- Count a refused registration (R320). -/
def countWatchFull (s : State) : State := { s with hub := { s.hub with watchFull := satAdd 64 s.hub.watchFull 1 } }

/-- The wakes of a destination that are still on their way are dropped with what they would have ended. -/
def dropWakes (s : State) (p : WatchKind → Bool) : State :=
  { s with hub := { s.hub with wakes := s.hub.wakes.filter fun w => !p w.kind } }

/-- Remove watches, without firing them (R324). -/
def removeWatches (s : State) (p : Watch → Bool) : State :=
  { s with hub := { s.hub with watches := s.hub.watches.filter fun w => !p w } }

/-- Abandon tally `n`: every watch fires with "tally abandoned" (R322). -/
def abandonTally (s : State) (n : Nat) : State :=
  fireWatches (s.modTally n fun t => { t with abandoned := true }) n Code.tallyAbandoned true (fun _ => true) (fun _ => false)

/-- Abandon every tally that context `ctx` owns, in ascending order (R325). -/
def abandonOwned (s : State) (ctx : Nat) : State :=
  (keysOf s.hub.tallies).foldl (fun s n =>
    let t := s.tally n
    if t.assigned && t.owner == ctx && !t.abandoned then abandonTally s n else s) s

/-- Unbind the barrier channels of a launch (R332). -/
def unbindChannels (s : State) (launch : Nat) : State :=
  { s with hub := { s.hub with channels := sfilter (fun _ c => c.any fun c => c.launch != launch) s.hub.channels } }

end Sys2Proof.Machine
end

