-- ==== Sys2Proof/Machine/Vault.lean ====
section
/-! DEFINITION. The check code, the vaults and their decoders, corrected errors and poison (02_bonded_memory.md). -/

namespace Sys2Proof.Machine

/-- The first byte address past DRAM (R27). -/
def dramEnd : Nat := 0x18000000000

/-- Powers of alpha, n = 0 to 14 (02, The check code). -/
def gfExp : List Nat := [1, 2, 4, 8, 3, 6, 0xC, 0xB, 5, 0xA, 7, 0xE, 0xF, 0xD, 9]

/-- Exponent of a non-zero symbol. -/
def gfLog (x : Nat) : Nat := gfExp.findIdx (· == x)

/-- Multiplication in GF(16). -/
def gfMul (a b : Nat) : Nat := if a = 0 ∨ b = 0 then 0 else gfExp.getD ((gfLog a + gfLog b) % 15) 0

/-- Division in GF(16) by a non-zero symbol. -/
def gfDiv (a b : Nat) : Nat := if a = 0 then 0 else gfExp.getD ((gfLog a + 15 - gfLog b) % 15) 0

/-- g(a, b) = a^2 + a b + alpha^3 b^2 (R31). -/
def gfG (a b : Nat) : Nat := gfMul a a ^^^ gfMul a b ^^^ gfMul 8 (gfMul b b)

/-- Column j of the check matrix (R31). -/
def hcol (j : Nat) : Nat × Nat × Nat × Nat :=
  if j < 64 then (1, j % 16, j / 16, gfG (j % 16) (j / 16))
  else if j = 64 then (0, 0, 0, 1)
  else if j = 65 then (1, 0, 4, gfG 0 4)
  else if j = 66 then (1, 1, 4, gfG 1 4)
  else (1, 0, 5, gfG 0 5)

/-- Add `v` times column `j` to a syndrome. -/
def synAdd (s : Nat × Nat × Nat × Nat) (j v : Nat) : Nat × Nat × Nat × Nat :=
  if v = 0 then s else
  let h := hcol j
  (s.1 ^^^ gfMul v h.1, s.2.1 ^^^ gfMul v h.2.1, s.2.2.1 ^^^ gfMul v h.2.2.1, s.2.2.2 ^^^ gfMul v h.2.2.2)

/-- The data syndrome of a sector (R32). -/
def dataSyn (d : Sector) : Nat × Nat × Nat × Nat :=
  if d = 0 then (0, 0, 0, 0)
  else (List.range 64).foldl (fun s j => synAdd s j (fld d (4 * j) 4)) (0, 0, 0, 0)

/-- The check symbols of a sector, k0 in bits [3:0] up to k3 in [15:12] (R30, R32). -/
def checkOf (d : Sector) : BitVec 16 :=
  let s := dataSyn d
  let k2 := s.2.1
  let k3 := s.2.2.1 ^^^ gfMul 4 s.1
  let k1 := s.1 ^^^ s.2.1 ^^^ k3
  let k0 := s.2.2.2 ^^^ gfMul 0xB k1 ^^^ gfMul 0xE k2 ^^^ gfMul 3 k3
  BitVec.ofNat 16 (k0 + 16 * k1 + 256 * k2 + 4096 * k3)

/-- The decoder's results; a correction names the symbol and its error (R33). -/
inductive Decoded where
  | clean
  | corrected (j e : Nat)
  | uncorrectable
  | poisoned
  deriving DecidableEq, Repr

/-- The procedure of R33 on received data and check symbols. -/
def decodeSector (d : Sector) (k : BitVec 16) : Decoded :=
  let s := (List.range 4).foldl (fun s i => synAdd s (64 + i) (fld k (4 * i) 4)) (dataSyn d)
  if s = (0, 0, 0, 0) then .clean
  else if s = (0, 0xF, 0, 6) then .poisoned
  else if s.1 = 0 then
    if s.2.1 = 0 ∧ s.2.2.1 = 0 then .corrected 64 s.2.2.2 else .uncorrectable
  else
    let a := gfDiv s.2.1 s.1
    let b := gfDiv s.2.2.1 s.1
    let t := gfDiv s.2.2.2 s.1
    if b ≤ 3 ∧ t = gfG a b then .corrected (16 * b + a) s.1
    else if (a, b, t) = (0, 4, 0xB) then .corrected 65 s.1
    else if (a, b, t) = (1, 4, 0xE) then .corrected 66 s.1
    else if (a, b, t) = (0, 5, 3) then .corrected 67 s.1
    else .uncorrectable

/-- What an unlisted DRAM byte reads as: zero after R32, else a free byte (R309, R557, LOG 18). -/
def Dram.unlisted (d : Dram) (pa : Nat) : Byte := if d.background = 0 then 0 else Config.freeByte (d.background - 1) pa

/-- What an unlisted sector's check symbols differ by from those of R32. -/
def Dram.unlistedCheck (d : Dram) (k : Nat) : BitVec 16 :=
  if d.background = 0 then 0 else Config.freeCheck (d.background - 1) k

/-- A stored byte. -/
def Dram.byte (d : Dram) (pa : Nat) : Byte := sget d.unlisted d.bytes pa

/-- The stored data of sector `k` (its address divided by 32). -/
def Dram.data (d : Dram) (k : Nat) : Sector :=
  BitVec.ofNat 256 (leNat ((List.range 32).map fun i => d.byte (32 * k + i)))

/-- The stored check symbols of sector `k`. -/
def Dram.check (d : Dram) (k : Nat) : BitVec 16 := checkOf (d.data k) ^^^ sget d.unlistedCheck d.checks k

/-- What the decoder answers for sector `k`. -/
def Dram.decode (d : Dram) (k : Nat) : Decoded := decodeSector (d.data k) (d.check k)

/-- Write a whole sector with correct check symbols, or with the poison mark (R32, R38). -/
def Dram.write (d : Dram) (k : Nat) (v : Sector) (poison : Bool) : Dram :=
  { d with
    bytes := (List.range 32).foldl (fun m i => sput d.unlisted m (32 * k + i) (BitVec.ofNat 8 (fld v (8 * i) 8))) d.bytes
    checks := sput d.unlistedCheck d.checks k (if poison then 0x0FF0#16 else 0) }

/-- The layer of a DRAM address (R29). -/
def layerOf (pa : Nat) : Nat := pa / 128 % 16

/-- Data with symbol `j` corrected by `e`; check symbols leave the data as it is (R33). -/
def correctData (v : Sector) (j e : Nat) : Sector := if j < 64 then v ^^^ BitVec.ofNat 256 (e <<< (4 * j)) else v

/-- Record an event of `kind` at sector `k` (R36, R38, R39). -/
def Dram.note (d : Dram) (k kind : Nat) : Dram := { d with lastAddr := 32 * k, lastKind := kind }

/-- R36 and R37: count the correction and write the corrected codeword back. -/
def Dram.correct (d : Dram) (k j e : Nat) : Dram :=
  let l := layerOf (32 * k)
  let d := d.note k 1
  let d := { d with corrected := satAdd 64 d.corrected 1,
                    layerCorrected := sput (fun _ => 0) d.layerCorrected l
                      (satAdd 32 (sget (fun _ => 0) d.layerCorrected l) 1) }
  d.write k (correctData (d.data k) j e) false

/-- R38 but for the mark: count and log an uncorrectable sector. -/
def Dram.logUncorrectable (d : Dram) (k : Nat) : Dram :=
  let d := d.note k 2
  { d with uncorrectable := satAdd 64 d.uncorrectable 1,
           ueLog := sput (fun _ => 0) d.ueLog d.ueHead (32 * k),
           ueHead := (d.ueHead + 1) % 16 }

/-- Write the poison mark over the data as read (R38). -/
def Dram.mark (d : Dram) (k : Nat) : Dram := d.write k (d.data k) true

/-- A read of one sector through its decoder: what is delivered, and the DRAM after it (R33, R36 to R39). -/
def Dram.read (d : Dram) (k : Nat) : (Sector × Bool) × Dram :=
  match d.decode k with
  | .clean => ((d.data k, false), d)
  | .corrected j e => ((correctData (d.data k) j e, false), d.correct k j e)
  | .uncorrectable => ((d.data k, true), (d.logUncorrectable k).mark k)
  | .poisoned => ((d.data k, true), { d.note k 3 with poisonReads := satAdd 64 d.poisonReads 1 })

/-- The vault delivers sector `k` on its interface (R23). -/
def vaultRead (s : State) (k : Nat) : (Sector × Bool) × State :=
  let r := s.dram.read k
  let v := k / 2 ^ 27
  (r.1, { s with dram := { r.2 with out := oput r.2.out v (some { sector := k, data := r.1.1, poison := r.1.2 }) } })

/-- The vault accepts a write of a whole sector (R25). -/
def vaultWrite (s : State) (k : Nat) (v : Sector) (poison : Bool) : State := { s with dram := s.dram.write k v poison }

/-- VAULT_READ: a vault delivers a sector after decoding it (R33). An address outside DRAM names no vault (R27). -/
def execVaultRead (pa : Nat) (s : State) : Out :=
  if dramEnd ≤ pa then .fault (.noSuchAddress pa) else .next (vaultRead s (pa / 32)).2

end Sys2Proof.Machine
end

