-- ==== Sys2Proof/Machine/Cache.lean ====
section
/-! DEFINITION. The cluster caches and their eviction buffers, the L1s, reservations and maintenance
(08_caches_and_local_store.md, R124). -/

namespace Sys2Proof.Machine

/-- Sector `i` of a line. -/
def getSector (d : Line) (i : Nat) : Sector := d.extractLsb' (256 * i) 256

/-- Replace sector `i` of a line. -/
def putSector (d : Line) (i : Nat) (v : Sector) : Line :=
  (d &&& ~~~((BitVec.allOnes 256).setWidth 1024 <<< (256 * i))) ||| (v.setWidth 1024 <<< (256 * i))

/-- Spread a byte mask over the bits of a line. -/
def spread (m : BitVec 128) : Line :=
  (List.range 128).foldl (fun a i => if bit m i then a ||| (0xFF#1024 <<< (8 * i)) else a) 0

/-- The bytes of `new` that `m` selects laid over `old`. -/
def mergeLine (old new : Line) (m : BitVec 128) : Line :=
  if m = BitVec.allOnes 128 then new else (old &&& ~~~spread m) ||| (new &&& spread m)

/-- The part of a byte mask that lies in sector `i`. -/
def maskSector (m : BitVec 128) (i : Nat) : BitVec 32 := m.extractLsb' (32 * i) 32

/-- The sectors that a byte mask touches. -/
def touched (m : BitVec 128) : List Nat := below 4 fun i => maskSector m i != 0

/-- A byte mask of `n` bytes from byte `off` of a line. -/
def byteMask (off n : Nat) : BitVec 128 := BitVec.ofNat 128 ((2 ^ n - 1) <<< off)

/-- A line holding `bs` from byte `off` on. -/
def placeBytes (off : Nat) (bs : List Byte) : Line := BitVec.ofNat 1024 (leNat bs <<< (8 * off))

/-- Byte `i` of a line. -/
def lineByte (d : Line) (i : Nat) : Byte := d.extractLsb' (8 * i) 8

/-- The cluster of a DRAM line's home (R255). -/
def homeOfLine (line : Nat) : Nat := line / 2 ^ 29

/-- The cluster-cache set of a line (R256). -/
def ccSet (line : Nat) : Nat := (line % 4096) ^^^ (line / 2 ^ 25 % 16 * 256)

/-- A way of a cluster cache. -/
def Cluster.way (cl : Cluster) (key : Nat) : CcLine := sget (fun _ => CcLine.none) cl.lines key

/-- Set a way. -/
def Cluster.setWay (cl : Cluster) (key : Nat) (w : CcLine) : Cluster :=
  { cl with lines := sput (fun _ => CcLine.none) cl.lines key w }

/-- The key of the way that holds `line`. -/
def Cluster.find (cl : Cluster) (line : Nat) : Option Nat :=
  (firstBelow 16 fun w => (cl.way (ccSet line * 16 + w)).valid != 0 && (cl.way (ccSet line * 16 + w)).line == line).map
    (ccSet line * 16 + ·)

/-- touch of R260: every node above the way points away from it. -/
def treeTouch (t : BitVec 16) (w : Nat) : BitVec 16 :=
  (List.range 4).foldl (fun t d => setBit t ((16 + w) >>> (d + 1)) (((16 + w) >>> d) % 2 == 0)) t

/-- The way that the tree names (R260). -/
def treeVictim (t : BitVec 16) : Nat :=
  (List.range 4).foldl (fun n _ => 2 * n + b2n (bit t n)) 1 - 16

/-- Touch way `key` (R260). -/
def Cluster.touch (cl : Cluster) (key : Nat) : Cluster :=
  { cl with tree := sput (fun _ => 0) cl.tree (key / 16) (treeTouch (sget (fun _ => 0) cl.tree (key / 16)) (key % 16)) }

/-- The victim's key in the set of `line`: the lowest invalid way, else the tree's choice (R260). -/
def Cluster.victim (cl : Cluster) (line : Nat) : Nat :=
  let b := ccSet line * 16
  match firstBelow 16 fun w => (cl.way (b + w)).valid == 0 with
  | some w => b + w
  | none => b + treeVictim (sget (fun _ => 0) cl.tree (ccSet line))

/-- Write the sectors of `mask` of a line to the vault (R25). -/
def writeSectors (s : State) (line : Nat) (mask poison : BitVec 4) (d : Line) : State :=
  (below 4 fun i => bit mask i).foldl (fun s i => vaultWrite s (4 * line + i) (getSector d i) (bit poison i)) s

/-- The oldest eviction-buffer entry is accepted by the vault and leaves (R261). -/
def drainOldest (s : State) (n : Nat) : State :=
  match (s.cluster n).evict with
  | [] => s
  | e :: es => writeSectors (s.modCluster n fun c => { c with evict := es }) e.line e.dirty e.poison e.data

/-- Wait until no buffer entry holds `line`: entries leave oldest first (R261, R262). -/
def drainLine (s : State) (n line : Nat) : State :=
  (List.range 32).foldl (fun s _ => if (s.cluster n).evict.any (·.line == line) then drainOldest s n else s) s

/-- Wait until the buffer is empty. -/
def drainAll (s : State) (n : Nat) : State := (List.range 32).foldl (fun s _ => drainOldest s n) s

/-- Allocate `line`: a dirty victim moves to the eviction buffer (R260, R261). Answers the key. -/
def ccAlloc (s : State) (n line : Nat) : Nat × State :=
  let key := (s.cluster n).victim line
  let old := (s.cluster n).way key
  let s := if old.dirty ≠ 0 then
      let s := if (s.cluster n).evict.length ≥ 32 then drainOldest s n else s
      s.modCluster n fun c => { c with evict := c.evict ++
        [{ line := old.line, dirty := old.dirty, poison := old.poison &&& old.dirty, data := old.data }] }
    else s
  (key, s.modCluster n fun c => (c.setWay key { CcLine.none with line := line }).touch key)

/-- One sector for a read, from the eviction buffer when it is there, else from the vault (R262). -/
def behindCache (s : State) (n line i : Nat) : (Sector × Bool) × State :=
  match (s.cluster n).evict.find? fun e => e.line == line && bit e.dirty i with
  | some e => ((getSector e.data i, bit e.poison i), s)
  | none => vaultRead s (4 * line + i)

/-- Fetch the sectors `want` of way `key`'s line, from the sector `first` upward modulo 4; a sector that the way holds is read
from the vault too and keeps its cached value (R24, R257). -/
def ccFill (s : State) (n key line first : Nat) (want : BitVec 4) : State :=
  (List.range 4).foldl (fun s j =>
    let i := (first + j) % 4
    if !bit want i then s else
      let r := behindCache s n line i
      if bit ((s.cluster n).way key).valid i then r.2 else
      r.2.modCluster n fun c =>
        let w := c.way key
        c.setWay key { w with valid := setBit w.valid i true, poison := setBit w.poison i r.1.2,
                              data := putSector w.data i r.1.1 }) s

/-- Whether the cluster cache of cluster `n` is disabled (R272). -/
def ccOff (s : State) (n : Nat) : Bool := bit s.power.ccDisable n

/-- A read at the home cluster cache of the sectors `need`: data, poison bits (R255 to R262, R272). -/
def homeRead (s : State) (line : Nat) (need : BitVec 4) (noAlloc : Bool) : (Line × BitVec 4) × State :=
  let n := homeOfLine line
  let direct (s : State) := (below 4 fun i => bit need i).foldl (fun r i =>
    let q := behindCache r.2 n line i
    ((putSector r.1.1 i q.1.1, setBit r.1.2 i q.1.2), q.2)) (((0 : Line), (0 : BitVec 4)), s)
  let cached (s : State) (key : Nat) :=
    let s := if need &&& ~~~((s.cluster n).way key).valid = 0 then s
      else ccFill s n key line ((firstBelow 4 fun i => bit need i).getD 0) 15
    let s := s.modCluster n fun c => c.touch key
    let w := (s.cluster n).way key
    ((w.data, w.poison), s)
  if ccOff s n then direct s else
  match (s.cluster n).find line with
  | some key => cached s key
  | none => if noAlloc then direct s else let r := ccAlloc s n line; cached r.2 r.1

/-- The granules of 16 bytes of a line that a byte mask touches. -/
def maskGranules (line : Nat) (m : BitVec 128) : List Nat :=
  (below 8 fun i => m.extractLsb' (16 * i) 16 != 0).map (8 * line + ·)

/-- A write at the home cluster cache of the bytes `m` of `d`; `poison` marks incoming sectors (R43, R257, R258, R262). -/
def homeWrite (s : State) (line : Nat) (d : Line) (m : BitVec 128) (poison : BitVec 4) (noAlloc : Bool) : State :=
  let n := homeOfLine line
  let s := drainLine s n line
  let full (i : Nat) : Bool := maskSector m i == BitVec.allOnes 32
  let direct (s : State) := (touched m).foldl (fun s i =>
    if full i then vaultWrite s (4 * line + i) (getSector d i) (bit poison i) else
      let r := vaultRead s (4 * line + i)
      vaultWrite r.2 (4 * line + i) (getSector (mergeLine (putSector 0 i r.1.1) d m) i) (r.1.2 || bit poison i)) s
  let cached (s : State) (key : Nat) :=
    let part := (touched m).foldl (fun a i => if full i then a else setBit a i true) (0 : BitVec 4)
    let s := (touched m).foldl (fun s i =>
      if full i || bit ((s.cluster n).way key).valid i then s else ccFill s n key line i (setBit 0 i true)) s
    s.modCluster n fun c =>
      let w := c.way key
      let p := (touched m).foldl (fun p i => setBit p i ((bit part i && bit w.poison i) || bit poison i)) w.poison
      let t := (touched m).foldl (fun a i => setBit a i true) (0 : BitVec 4)
      (c.setWay key { w with valid := w.valid ||| t, dirty := w.dirty ||| t, poison := p, data := mergeLine w.data d m }).touch key
  if ccOff s n then direct s else
  match (s.cluster n).find line with
  | some key => cached s key
  | none => if noAlloc then direct s else let r := ccAlloc s n line; cached r.2 r.1

/-! ## Reservations (R122 to R124, R297) -/

/-- Whether some thread on any core holds a reservation on granule `g`. -/
def granuleHeld (s : State) (g : Nat) : Bool :=
  s.cores.any fun c => (olist c.2.work.groups).any fun e => e.2.res.any fun r => r.2.any (·.pa == g)

/-- Clear the reservations on granule `g`, but for the writing thread's own (R124). -/
def clearGranule (s : State) (g : Nat) (own : Option (Nat × Nat × Nat)) : State :=
  let s := (keysOf s.cores).foldl (fun s c => s.modWork c fun w =>
    { w with groups := smap (fun _ => none) (fun k o => o.map fun (x : Group) =>
        { x with res := smap (fun _ => none) (fun l (r : Option Reservation) =>
            if r.any (·.pa == g) && !(own == some (c, k, l)) then none else r) x.res }) w.groups }) s
  if granuleHeld s g then s else
  s.modCluster (homeOfLine (g / 8)) fun c => { c with granules := c.granules.filter (· != g) }

/-- Clear the reservations on the granules `gs`; `own g` names the writing thread. -/
def clearGranules (s : State) (gs : List Nat) (own : Nat → Option (Nat × Nat × Nat)) : State :=
  gs.foldl (fun s g => if (s.cluster (homeOfLine (g / 8))).granules.contains g then clearGranule s g (own g) else s) s

/-- Record a reserved granule; a full table gives up its oldest entry (R297). -/
def reserveGranule (s : State) (g : Nat) : State :=
  let n := homeOfLine (g / 8)
  if (s.cluster n).granules.contains g then s else
  let s := match (s.cluster n).granules with
    | old :: rest => if 1024 ≤ (old :: rest).length then
        let s := clearGranule s old none
        s.modCluster n fun c => { c with granules := c.granules.filter (· != old) }
      else s
    | [] => s
  s.modCluster n fun c => { c with granules := c.granules ++ [g] }

/-- A write of normal-type DRAM at its end point: the bytes are written and others' reservations cleared (R124, R255). -/
def storeLine (s : State) (line : Nat) (d : Line) (m : BitVec 128) (poison : BitVec 4) (noAlloc : Bool)
    (own : Nat → Option (Nat × Nat × Nat)) : State :=
  clearGranules (homeWrite s line d m poison noAlloc) (maskGranules line m) own

/-! ## The L1 (R246 to R254) -/

/-- The number of L1 sets of a core under its present split (R236). -/
def Core.nsets (c : Core) : Nat := (512 - c.prevLsKib) * 2

/-- A way of the L1. -/
def Core.l1Way (c : Core) (key : Nat) : L1Line := sget (fun _ => L1Line.none) c.l1 key

/-- The key of the L1 way that holds `line` (R247). -/
def Core.l1Find (c : Core) (line : Nat) : Option Nat :=
  let b := line % c.nsets * 4
  (firstBelow 4 fun w => (c.l1Way (b + w)).valid != 0 && (c.l1Way (b + w)).line == line).map (b + ·)

/-- Set an L1 way. -/
def Core.setL1 (c : Core) (key : Nat) (w : L1Line) : Core := { c with l1 := sput (fun _ => L1Line.none) c.l1 key w }

/-- Choose a victim in the set of `line` and age the set as R250 says: the key and the core. -/
def Core.l1Victim (c : Core) (line : Nat) : Nat × Core :=
  let b := line % c.nsets * 4
  match firstBelow 4 fun w => (c.l1Way (b + w)).valid == 0 with
  | some w => (b + w, c)
  | none =>
    let old := (List.range 4).foldl (fun m w => Nat.max m (c.l1Way (b + w)).age.toNat) 0
    let c := (List.range 4).foldl (fun c w =>
      let l := c.l1Way (b + w)
      c.setL1 (b + w) { l with age := l.age + BitVec.ofNat 2 (3 - old) }) c
    (b + (firstBelow 4 fun w => (c.l1Way (b + w)).age == 3).getD 0, c)

/-- The misses `p` accepts are invalidated: their fills are delivered only, and of the bytes laid over them those remain whose
store, for which `isOpen`, its home has not performed (R252, R287). -/
def Core.missesGone (c : Core) (p : Miss → Bool) (isOpen : Nat → Bool) : Core :=
  { c with misses := c.misses.map fun m => if p m then
      { m with invalidated := true, overlay := sfilter (fun _ e => e.any fun x => isOpen x.1) m.overlay } else m }

/-- Whether the access numbered `id` is still in flight. -/
def State.inFlight (s : State) (id : Nat) : Bool := s.accesses.any (·.id == id)

/-- Invalidate every line of core `c`'s L1; fills under way are not installed (R252, R286). -/
def State.l1Clear (s : State) (c : Nat) : State :=
  s.modCore c fun k => { k.missesGone (fun _ => true) s.inFlight with l1 := [] }

/-- Invalidate one line of the L1. -/
def State.l1Drop (s : State) (c line : Nat) : State :=
  s.modCore c fun k => { k.missesGone (·.line == line) s.inFlight with l1 := sfilter (fun _ w => w.line != line) k.l1 }

/-- Invalidate the sectors `sec` of a line in the L1 (R253); a fill under way of the line is delivered only. -/
def State.l1DropSectors (s : State) (c line : Nat) (sec : BitVec 4) : State :=
  s.modCore c fun k =>
    let k := k.missesGone (·.line == line) s.inFlight
    match k.l1Find line with
    | some i =>
      let w := k.l1Way i
      let v := w.valid &&& ~~~sec
      k.setL1 i (if v = 0 then L1Line.none else { w with valid := v })
    | none => k

/-- Store `id` updates the L1 copy it hits and the fills under way (R248, R252). -/
def Core.l1Store (c : Core) (id line : Nat) (d : Line) (m : BitVec 128) : Core :=
  let c := match c.l1Find line with
    | some k =>
      let w := c.l1Way k
      let hit := (touched m).filter fun i => bit w.valid i
      let mask := hit.foldl (fun (a : BitVec 128) i => a ||| (m &&& byteMask (32 * i) 32)) 0
      let p := hit.foldl (fun p i => if maskSector m i == BitVec.allOnes 32 then setBit p i false else p) w.poison
      c.setL1 k { w with data := mergeLine w.data d mask, poison := p }
    | none => c
  { c with misses := c.misses.map fun e => if e.line == line then
      { e with overlay := (below 128 fun i => bit m i).foldl (fun o i => oput o i (some (id, lineByte d i))) e.overlay } else e }

/-! ## Maintenance (R266 to R268, R131, R132) -/

/-- Clear the reservations on a line that is invalidated (R124). -/
def clearLineRes (s : State) (line : Nat) : State :=
  clearGranules s ((List.range 8).map (8 * line + ·)) fun _ => none

/-- Maintenance operation on the way `key` of cluster `n`: 1 clean, 2 invalidate, 3 clean then invalidate. -/
def maintWay (s : State) (n key op : Nat) : State :=
  let w := (s.cluster n).way key
  if w.valid = 0 then s else
  let s := drainLine s n w.line
  let s := if op = 2 then s else
    (writeSectors s w.line w.dirty w.poison w.data).modCluster n fun c => c.setWay key { w with dirty := 0 }
  if op = 1 then s else clearLineRes (s.modCluster n fun c => c.setWay key CcLine.none) w.line

/-- Maintenance of one line at its home; an absent line may still wait in the buffer (R267). -/
def maintLine (s : State) (line op : Nat) : State :=
  let n := homeOfLine line
  match (s.cluster n).find line with
  | some key => maintWay s n key op
  | none =>
    let s := drainLine s n line
    if op = 1 then s else clearLineRes s line

/-- Maintenance of a whole cluster cache: sets and ways ascending, then the buffer drains (R268). -/
def maintCluster (s : State) (n op : Nat) : State :=
  drainAll ((keysOf (s.cluster n).lines).foldl (fun s k => maintWay s n k op) s) n

/-- Maintenance of one line in the L1 of core `c`: a clean changes nothing (R266). -/
def l1Maint (s : State) (c line op : Nat) : State := if op = 1 then s else s.l1Drop c line

/-- Invalidate every L1 of the device when `op` invalidates. -/
def l1MaintAll (s : State) (op : Nat) : State :=
  if op = 1 then s else (keysOf s.cores).foldl State.l1Clear s

/-- Every cluster cache and eviction buffer is cleaned (R307, R308). -/
def cleanAll (s : State) : State := (List.range 24).foldl (fun s n => maintCluster s n 1) s

/-! ## Reading and writing memory -/

/-- Bytes with one poison flag per 32-byte sector of their address range. -/
structure Got where
  bytes  : List Byte
  poison : List Bool
  deriving DecidableEq, Repr

/-- Whether any sector of what was read is poisoned. -/
def Got.bad (g : Got) : Bool := g.poison.any id

/-- The lines of an address range: (line, first byte in the line, bytes). -/
def lineParts (pa n : Nat) : List (Nat × Nat × Nat) :=
  if n = 0 then [] else
  (List.range ((pa + n - 1) / 128 - pa / 128 + 1)).map fun j =>
    let line := pa / 128 + j
    let lo := Nat.max pa (128 * line)
    (line, lo - 128 * line, Nat.min (pa + n) (128 * line + 128) - lo)

/-- The sectors that `n` bytes from byte `off` of a line touch. -/
def sectorMask (off n : Nat) : BitVec 4 := (touched (byteMask off n)).foldl (fun a i => setBit a i true) 0

/-- Read DRAM at the lines' home cluster caches (R255). -/
def dramRead (s : State) (pa n : Nat) (noAlloc : Bool) : Got × State :=
  (lineParts pa n).foldl (fun r p =>
    let q := homeRead r.2 p.1 (sectorMask p.2.1 p.2.2) noAlloc
    let bs := (List.range p.2.2).map fun i => lineByte q.1.1 (p.2.1 + i)
    let po := (touched (byteMask p.2.1 p.2.2)).map fun i => bit q.1.2 i
    ({ bytes := r.1.bytes ++ bs, poison := r.1.poison ++ po }, q.2)) ({ bytes := [], poison := [] }, s)

/-- Write DRAM at the lines' home cluster caches; `poison k` marks sector `k` of the device (R40, R291). -/
def dramWrite (s : State) (pa : Nat) (bs : List Byte) (poison : Nat → Bool) (noAlloc : Bool) : State :=
  ((lineParts pa bs.length).foldl (fun (r : State × Nat) p =>
    let m := byteMask p.2.1 p.2.2
    let po := (touched m).foldl (fun a i => setBit a i (poison (4 * p.1 + i))) (0 : BitVec 4)
    (storeLine r.1 p.1 (placeBytes p.2.1 (sub bs r.2 p.2.2)) m po noAlloc (fun _ => none), r.2 + p.2.2)) (s, 0)).1

/-- The sectors of an address range: (sector, first byte in the sector, bytes). -/
def sectorParts (pa n : Nat) : List (Nat × Nat × Nat) :=
  if n = 0 then [] else
  (List.range ((pa + n - 1) / 32 - pa / 32 + 1)).map fun j =>
    let k := pa / 32 + j
    let lo := Nat.max pa (32 * k)
    (k, lo - 32 * k, Nat.min (pa + n) (32 * k + 32) - lo)

/-- Read DRAM at the vault, for a device-type access, sector after sector (R255, R280). -/
def vaultGet (s : State) (pa n : Nat) : Got × State :=
  (sectorParts pa n).foldl (fun r p =>
    let q := vaultRead r.2 p.1
    ({ bytes := r.1.bytes ++ (List.range p.2.2).map fun i => q.1.1.extractLsb' (8 * (p.2.1 + i)) 8,
       poison := r.1.poison ++ [q.1.2] }, q.2)) ({ bytes := [], poison := [] }, s)

/-- Write one sector, or a part of it, at the vault: a part goes through the home cluster's merge buffer (R25, R255, R292). -/
def vaultPutSector (s : State) (k off : Nat) (bs : List Byte) (poison : Bool) : State :=
  if bs.length = 32 then vaultWrite s k (BitVec.ofNat 256 (leNat bs)) poison else
  let r := vaultRead s k
  let v : Sector := BitVec.ofNat 256 (leNat ((List.range 32).map fun i =>
    if off ≤ i ∧ i < off + bs.length then bs.getD (i - off) 0 else r.1.1.extractLsb' (8 * i) 8))
  vaultWrite r.2 k v (r.1.2 || poison)

/-- Write DRAM at the vault, for a device-type access; `poison k` marks sector `k` of the device (R255, R280). -/
def vaultPut (s : State) (pa : Nat) (bs : List Byte) (poison : Nat → Bool) : State :=
  let s := ((sectorParts pa bs.length).foldl (fun (r : State × Nat) p =>
    (vaultPutSector r.1 p.1 p.2.1 (sub bs r.2 p.2.2) (poison p.1), r.2 + p.2.2)) (s, 0)).1
  if bs = [] then s else
  clearGranules s ((List.range ((pa + bs.length - 1) / 16 - pa / 16 + 1)).map (pa / 16 + ·)) fun _ => none

/-- The cluster caches' 24 domains run (R550, R555): domain 3 + n. -/
def clusterUp (s : State) (n : Nat) : Bool := bit s.power.clocks (3 + n)

/-- EVICTION_DRAIN: the oldest entry of the cluster's eviction buffer is accepted by the vault (R261). -/
def execEvictionDrain (n : Nat) (s : State) : Out :=
  .next (if bit s.power.clocks 2 then drainOldest s n else s)

end Sys2Proof.Machine
end

