-- ==== Sys2Proof/Machine/Tables.lean ====
section
/-! DEFINITION. Carrels, retired pages, the table area and what it holds: nodes, leaves, dirty maps and map counts
(11_translation_and_contexts.md, R46 to R51). The lists of State.xlat are the central translation unit's own index of the entries
that it keeps in the table area's DRAM; every change is made in both (LOG 127). -/

namespace Sys2Proof.Machine

/-! ## Pages -/

/-- Bytes of a page of size code 0, 1 or 2 (R342). -/
def pageBytes (size : Nat) : Nat := if size = 0 then 2 ^ 16 else if size = 1 then 2 ^ 21 else 2 ^ 30

/-- Whether DRAM page `p` (its address divided by 65,536) is retired (R46, R49). -/
def Dram.retired (d : Dram) (p : Nat) : Bool :=
  d.fieldRetired.contains p ||
  d.factoryRetired.any fun r => r.1 == p / 65536 && r.2.1 ≤ p % 65536 && p % 65536 < r.2.1 + r.2.2

/-- Pages that the fuses retire. -/
def Dram.factoryCount (d : Dram) : Nat := runPages d.factoryRetired

/-- Raw pages of a carrel (R341). -/
def Carrel.raw (c : Carrel) : Nat := c.units * 98304

/-- The DRAM page of carrel page `i` (R337). -/
def Carrel.page (c : Carrel) (i : Nat) : Nat := (i % 384) * 65536 + (c.start * 256 + i / 384)

/-- Whether DRAM page `p` lies in the carrel, and its number in the order of R337. -/
def Carrel.index (c : Carrel) (p : Nat) : Option Nat :=
  let v := p / 65536
  let o := p % 65536
  if v < 384 ∧ c.start * 256 ≤ o ∧ o < (c.start + c.units) * 256 then some ((o - c.start * 256) * 384 + v) else none

/-- Pages of a run of a vault that come before carrel page `i`. -/
def runBefore (c : Carrel) (i v first n : Nat) : Nat :=
  let lo := Nat.max first (c.start * 256)
  let top := Nat.min (first + n) ((c.start + c.units) * 256)
  let lim := if i ≤ v then c.start * 256 else c.start * 256 + ((i - v - 1) / 384 + 1)
  Nat.min top lim - lo

/-- Retired pages of a carrel before its page `i`. -/
def retiredBefore (d : Dram) (c : Carrel) (i : Nat) : Nat :=
  (d.factoryRetired.map fun r => runBefore c i r.1 r.2.1 r.2.2).sum +
  (d.fieldRetired.filter fun p => (c.index p).any (· < i)).length

/-- Whether carrel page `i` belongs to the table area: one of the first TABLE_PAGES that are not retired (R339). -/
def inTableArea (d : Dram) (c : Carrel) (i : Nat) : Bool :=
  i < c.raw && !d.retired (c.page i) && i - retiredBefore d c i < c.tablePages

/-- Binary search for the carrel page that has `k` unretired pages before it. -/
def nthPageFrom (d : Dram) (c : Carrel) (k : Nat) : Nat → Nat → Nat
  | 0, lo => lo
  | b + 1, lo =>
    let mid := lo + 2 ^ b
    if mid - retiredBefore d c mid ≤ k then nthPageFrom d c k b mid else nthPageFrom d c k b lo

/-- The `k`-th unretired page of a carrel. -/
def nthPage (d : Dram) (c : Carrel) (k : Nat) : Nat := nthPageFrom d c k 25 0

/-- The first defined carrel that holds DRAM page `p`, with the page's number. -/
def carrelOf (s : State) (p : Nat) : Option (Nat × Nat) :=
  (List.range 16).findSome? fun n => ((s.carrel n).index p).map fun i => (n, i)

/-- The map-count pages of carrel `n` that retirements moved away. -/
def movedFrom (s : State) (n : Nat) : List Nat := (s.xlat.moved.filter (·.1 == n)).map (·.2.1)

/-- Pages before carrel page `i` that were not retired when the carrel was defined, as far as the map counts' pages go: since then
no page before their last was retired but those whose counts moved away (R340, R605). -/
def mapRank (s : State) (n i : Nat) : Nat := i - retiredBefore s.dram (s.carrel n) i + ((movedFrom s n).filter (· < i)).length

/-- Where the `k`-th map-count page of carrel `n` lay when the carrel was defined: the last page with no more than `k` before it. -/
def mapOrigin (s : State) (n k : Nat) : Nat :=
  (List.range 26).foldl (fun lo j => if mapRank s n (lo + 2 ^ (25 - j)) ≤ k then lo + 2 ^ (25 - j) else lo) 0

/-- Follow the moves of a map-count page of carrel `n` (R340). -/
def mapFollow (s : State) (n i : Nat) : Nat :=
  s.xlat.moved.foldl (fun i m => if m.1 == n && m.2.1 == i then m.2.2 else i) i

/-- The carrel page that holds the `k`-th page of carrel `n`'s map counts (R605). -/
def mapPage (s : State) (n k : Nat) : Nat := mapFollow s n (mapOrigin s n k)

/-- Whether carrel page `i` holds map counts: it is one of the first 3 x UNITS pages of the table area when the carrel was defined,
or received one of them, and its counts have not moved on (R340, R605). -/
def isMapPage (s : State) (n i : Nat) : Bool :=
  let first := decide (mapRank s n i < 3 * (s.carrel n).units) &&
    (!s.dram.retired ((s.carrel n).page i) || (movedFrom s n).contains i)
  (first || s.xlat.moved.any fun m => m.1 == n && m.2.2 == i) && mapFollow s n i == i

/-! ## The table area's bytes -/

/-- Zeros in whole lines of DRAM, without any cached copy: how the unit clears what it allocates (LOG 128). -/
def clearDram (s : State) (pa n : Nat) : State :=
  let here (line : Nat) : Bool := decide (pa ≤ 128 * line) && decide (128 * line < pa + n)
  let s := s.modCluster (pa / 2 ^ 36) fun c => { c with
    lines := sfilter (fun _ w => !here w.line) c.lines, evict := c.evict.filter fun e => !here e.line }
  let d := s.dram
  let free (lo len k : Nat) : Bool := decide (k < lo) || decide (lo + len ≤ k)
  { s with dram := if d.background = 0 then
      { d with bytes := sfilter (fun k _ => free pa n k) d.bytes, checks := sfilter (fun k _ => free (pa / 32) (n / 32) k) d.checks }
    else { d with bytes := sfill d.unlisted d.bytes pa n fun _ => 0, checks := sfill d.unlistedCheck d.checks (pa / 32) (n / 32) fun _ => 0 } }

/-- The address of a run (R605). -/
def runAddr (s : State) (n : Nat) (r : Run) : Nat := (s.carrel n).page r.page * 65536 + r.first * 256

/-- Write bytes of the table area at their home (R339). -/
def tableWrite (s : State) (pa : Nat) (bs : List Byte) : State := dramWrite s pa bs (fun _ => false) false

/-! ## Runs of the table area (R605) -/

/-- The runs taken in carrel `n`. -/
def runsOf (s : State) (n : Nat) : List Run := sget (fun _ => []) s.xlat.runs n

/-- Set the runs of carrel `n`. -/
def setRuns (s : State) (n : Nat) (rs : List Run) : State :=
  { s with xlat := { s.xlat with runs := sput (fun _ => []) s.xlat.runs n rs } }

/-- The virtual-address bits below a node of level 1 to 4. -/
def nodeShift (level : Nat) : Nat := if level = 1 then 48 else if level = 2 then 39 else if level = 3 then 30 else 21

/-- Blocks of a node (R605). -/
def nodeBlocks (level : Nat) : Nat := if level = 0 then 8 else if level = 4 then 1 else 16

/-- The node that holds the entry of `va` at a level: its number among the nodes of the level. -/
def nodeIndex (level va : Nat) : Nat := if level = 0 then 0 else va >>> nodeShift level

/-- The number of the entry of `va` in its node of a level (the table of R342). -/
def entryNo (level va : Nat) : Nat :=
  if level = 0 then va >>> 48 % 256 else if level = 4 then va >>> 16 % 32 else va >>> nodeShift (level + 1) % 512

/-- A context's node of a level that holds the entry of `va`. -/
def nodeRun (s : State) (ctx level va : Nat) : Option Run :=
  (runsOf s (s.ctx ctx).carrel).find? fun r => r.ctx == ctx && r.use == .node level (nodeIndex level va)

/-- The address of the table entry of `va` at a level, when its node exists. -/
def entryAddr (s : State) (ctx level va : Nat) : Option Nat :=
  (nodeRun s ctx level va).map fun r => runAddr s (s.ctx ctx).carrel r + 8 * entryNo level va

/-- Write a table entry (R342); nothing happens where its node is gone. -/
def putEntry (s : State) (ctx level va : Nat) (w : DWord) : State :=
  match entryAddr s ctx level va with
  | some pa => tableWrite s pa (leBytes 8 w.toNat)
  | none => s

/-- A pointer entry: VALID, KIND 0 and the address of the next node (R342). -/
def pointerWord (pa : Nat) : DWord := BitVec.ofNat 64 (pa / 256 * 256 + 1)

/-- Point the entry above a node at it: at `pa`, or nowhere when the node is gone. -/
def linkNode (s : State) (ctx : Nat) (r : Run) (pa : Option Nat) : State :=
  match r.use with
  | .node (level + 1) index => putEntry s ctx level (index <<< nodeShift (level + 1)) ((pa.map pointerWord).getD 0)
  | _ => s

/-- The lowest free run of `len` blocks, aligned to its length, in carrel page `i`. -/
def freeIn (rs : List Run) (i len : Nat) : Option Nat :=
  let here := rs.filter (·.page == i)
  (firstBelow (256 / len) fun k => here.all fun r => r.first + r.blocks ≤ k * len || k * len + len ≤ r.first).map (· * len)

/-- The lowest free aligned run of carrel `n`: page and block. -/
def freeRun (s : State) (n len : Nat) : Option (Nat × Nat) :=
  let c := s.carrel n
  let rs := runsOf s n
  let m := (movedFrom s n).length
  let k0 := 3 * c.units - m
  let fuel := (rs.map (·.page)).eraseDups.length + 2 * m + 1
  (List.range fuel).findSome? fun k =>
    let i := nthPage s.dram c (k0 + k)
    if k0 + k < c.tablePages ∧ i < c.raw ∧ !isMapPage s n i then (freeIn rs i len).map fun b => (i, b) else none

/-- Take the lowest free run for `use`; it is cleared, and the entry above a node then names it. -/
def takeRun (s : State) (n len ctx : Nat) (use : RunUse) : Option State :=
  (freeRun s n len).map fun pb =>
    let r : Run := { page := pb.1, first := pb.2, blocks := len, ctx := ctx, use := use }
    let s := setRuns s n (insertBy (fun r => r.page * 256 + r.first) r (runsOf s n))
    linkNode (clearDram s (runAddr s n r) (256 * len)) ctx r (some (runAddr s n r))

/-- Pages of the table area that hold map counts or a taken run (R341). -/
def tablePagesUsed (s : State) (n : Nat) : Nat :=
  3 * (s.carrel n).units + ((runsOf s n).map (·.page)).eraseDups.length

/-! ## Leaves (R342 to R349) -/

/-- KIND of a leaf. -/
def leafKind (w : DWord) : Nat := fld w 1 2

/-- ADDR of a leaf as a physical address. -/
def leafAddr (w : DWord) : Nat := fld w 16 28 * 65536

/-- PEER of a leaf. -/
def leafPeer (w : DWord) : Nat := fld w 44 12

/-- The leaves of a context. -/
def leavesOf (s : State) (ctx : Nat) : List Leaf := sget (fun _ => []) s.xlat.leaves ctx

/-- Set the index of a context's leaves. -/
def setLeaves (s : State) (ctx : Nat) (ls : List Leaf) : State :=
  { s with xlat := { s.xlat with leaves := sput (fun _ => []) s.xlat.leaves ctx ls } }

/-- Whether a leaf is KIND 1 and names DRAM (R344, R356). -/
def leafDram (l : Leaf) : Bool := leafKind l.word == 1 && leafAddr l.word < dramEnd

/-- The leaf that maps `va` (R345). -/
def findLeaf (s : State) (ctx va : Nat) : Option Leaf :=
  (leavesOf s ctx).find? fun l => l.va ≤ va && va < l.va + pageBytes l.size

/-- The DRAM pages that a KIND 1 or KIND 3 leaf names, in 64 KiB units (R349). -/
def leafPages (l : Leaf) : List Nat :=
  if (leafKind l.word == 1 || leafKind l.word == 3) && leafAddr l.word < dramEnd then
    (List.range (pageBytes l.size / 65536)).map (leafAddr l.word / 65536 + ·) else []

/-- The map count of a DRAM page (R349). -/
def mapCount (s : State) (p : Nat) : Nat := sget (fun _ => 0) s.xlat.mapCount p

/-- Set the map count of a DRAM page: in the index, and its two bytes in the carrel's table area (R349, R605). -/
def setMapCount (s : State) (p v : Nat) : State :=
  let s := { s with xlat := { s.xlat with mapCount := sput (fun _ => 0) s.xlat.mapCount p v } }
  match carrelOf s p with
  | some (n, i) =>
    tableWrite s ((s.carrel n).page (mapPage s n (i / 32768)) * 65536 + 2 * (i % 32768)) (leBytes 2 v)
  | none => s

/-- Change the map counts of the pages that a leaf names. -/
def countLeaf (s : State) (l : Leaf) (f : Nat → Nat) : State := (leafPages l).foldl (fun s p => setMapCount s p (f (mapCount s p))) s

/-! ## What the caches keep of the tables (R347, R350) -/

/-- Whether two address ranges overlap. -/
def rangesMeet (a la b lb : Nat) : Bool := decide (a < b + lb) && decide (b < a + la)

/-- Whether a cached leaf lies in a range of a context's addresses. -/
def XEntry.within (e : XEntry) (ctx va n : Nat) : Bool :=
  e.ctx == ctx && rangesMeet (e.page * pageBytes e.size) (pageBytes e.size) va n

/-- Invalidate the cached leaves that `p` accepts, in the translation cache and every private buffer (R350). -/
def dropCached (s : State) (p : XEntry → Bool) : State :=
  { s with xlat := { s.xlat with
      cache := sfilter (fun _ o => !o.any p) s.xlat.cache
      buffers := smap (fun _ => []) (fun _ es => es.filter fun e => !p e) s.xlat.buffers } }

/-- Invalidate the walk cache's entries that `p` accepts. -/
def dropWalks (s : State) (p : WalkEntry → Bool) : State :=
  { s with xlat := { s.xlat with walks := s.xlat.walks.filter fun w => !p w } }

/-- Rewrite a context's leaves: `f` gives a leaf's new form, or none where the leaf goes. Each changed entry is written in the table
area, and what the caches hold of it is invalidated (R350 steps 1 and 2). -/
def rewriteLeaves (s : State) (ctx : Nat) (f : Leaf → Option Leaf) : State :=
  let old := leavesOf s ctx
  let s := setLeaves s ctx (old.filterMap f)
  (old.filter fun l => f l != some l).foldl (fun s l =>
    dropCached (putEntry s ctx (4 - l.size) l.va (((f l).map (·.word)).getD 0)) fun e => e.within ctx l.va (pageBytes l.size)) s

/-- Whether some leaf of `ls` keeps node `index` of `level` in use. -/
def nodeNeeded (ls : List Leaf) (level index : Nat) : Bool :=
  ls.any fun l => level + l.size ≤ 4 && l.va >>> nodeShift level == index

/-- Whether some leaf keeps the 4-byte dirty piece of the level-4 node or 2 MiB leaf `(kind, index)` (R605). -/
def pieceNeeded (ls : List Leaf) (k : Nat × Nat) : Bool :=
  ls.any fun l => leafDram l && 4 - l.size == k.1 && l.va >>> 21 == k.2

/-- What is left of a run once it holds no more than the leaves `ls` need (R605). -/
def Run.pruned (ls : List Leaf) (r : Run) : Option Run :=
  match r.use with
  | .node level index => if level = 0 ∨ nodeNeeded ls level index then some r else none
  | .dirtyBlock ps =>
    let ps := smap (fun _ => none) (fun _ o => o.bind fun k => if pieceNeeded ls k then some k else none) ps
    if ps.isEmpty then none else some { r with use := .dirtyBlock ps }
  | .dirtyGiant index => if ls.any fun l => leafDram l && l.size == 2 && l.va >>> 30 == index then some r else none

/-- Whether the walk cache's entry names a node that is none of `rs`. -/
def WalkEntry.stale (rs : List Run) (ctx : Nat) (w : WalkEntry) : Bool :=
  w.ctx == ctx && !rs.any fun r => r.ctx == ctx && r.use == .node w.level w.index

/-- Free what no longer holds an entry (R605): the entries above freed nodes become invalid, and cached pointers to them go. -/
def pruneRuns (s : State) (n ctx : Nat) : State :=
  let ls := leavesOf s ctx
  let old := runsOf s n
  let new := old.filterMap fun r => if r.ctx ≠ ctx then some r else r.pruned ls
  let s := setRuns s n new
  let s := (old.filter fun r => r.ctx == ctx && (r.pruned ls).isNone).foldl (fun s r => linkNode s ctx r none) s
  dropWalks s (WalkEntry.stale new ctx)

/-- Take the dirty piece that a KIND 1 leaf of DRAM needs and lacks (R605). -/
def takePiece (s : State) (n ctx : Nat) (l : Leaf) : Option State :=
  if !(s.ctx ctx).dirtyTrack || !leafDram l then some s else
  if l.size = 2 then
    let index := l.va >>> 30
    if (runsOf s n).any fun r => r.ctx == ctx && r.use == .dirtyGiant index then some s
    else takeRun s n 8 ctx (.dirtyGiant index)
  else
    let key := (4 - l.size, l.va >>> 21)
    let has := (runsOf s n).any fun r => r.ctx == ctx && match r.use with
      | .dirtyBlock ps => ps.any fun p => p.2 == some key
      | _ => false
    if has then some s else
    let room (r : Run) : Bool := r.ctx == ctx && match r.use with
      | .dirtyBlock ps => (olist ps).length < 64
      | _ => false
    if (runsOf s n).any room then
      let free (ps : SMap (Option (Nat × Nat))) : Nat := (firstBelow 64 fun i => (oget ps i).isNone).getD 0
      let s := ((runsOf s n).find? room).elim s fun r => match r.use with
        | .dirtyBlock ps => tableWrite s (runAddr s n r + 4 * free ps) (leBytes 4 0)
        | _ => s
      some (setRuns s n (replaceFirst room (fun r => match r.use with
        | .dirtyBlock ps => { r with use := .dirtyBlock (oput ps (free ps) (some key)) }
        | _ => r) (runsOf s n)))
    else takeRun s n 1 ctx (.dirtyBlock [(0, some key)])

/-- Take the nodes above a leaf that the context lacks, from level 1 down, then its dirty piece (R605). -/
def takeNodes (s : State) (n ctx : Nat) (l : Leaf) : Option State :=
  let nodes := (List.range (4 - l.size)).foldl (fun (o : Option State) j => o.bind fun s =>
    let level := j + 1
    if (nodeRun s ctx level l.va).isSome then some s
    else takeRun s n (nodeBlocks level) ctx (.node level (nodeIndex level l.va))) (some s)
  nodes.bind fun s => takePiece s n ctx l

/-- Add a leaf with its map counts and table runs; none when the table area has no room. -/
def addLeaf (s : State) (ctx : Nat) (l : Leaf) : Option State :=
  (takeNodes s (s.ctx ctx).carrel ctx l).map fun s =>
    countLeaf (putEntry (setLeaves s ctx (insertBy (·.va) l (leavesOf s ctx))) ctx (4 - l.size) l.va l.word) l (· + 1)

/-! ## Dirty maps (R356, R357) -/

/-- The 64 KiB virtual pages of a context that are dirty. -/
def dirtyOf (s : State) (ctx : Nat) : List Nat := sget (fun _ => []) s.xlat.dirty ctx

/-- The address of the byte of a dirty map that holds the bit of 64 KiB virtual page `page`, and the first page of that byte. -/
def dirtyByte (s : State) (ctx page : Nat) : Option (Nat × Nat) :=
  let n := (s.ctx ctx).carrel
  (findLeaf s ctx (page * 65536)).bind fun l =>
    let i := page - l.va / 65536
    let bit := if l.size = 0 then page % 32 else i
    let run := (runsOf s n).findSome? fun r => if r.ctx ≠ ctx then none else match r.use with
      | .dirtyGiant index => if l.size = 2 ∧ index = l.va >>> 30 then some (runAddr s n r) else none
      | .dirtyBlock ps => if l.size = 2 then none else
          (ps.find? fun p => p.2 == some (4 - l.size, l.va >>> 21)).map fun p => runAddr s n r + 4 * p.1
      | _ => none
    run.map fun pa => (pa + bit / 8, page - bit % 8)

/-- Write the byte of the dirty map that holds a page's bit, as the index has it. -/
def putDirty (s : State) (ctx page : Nat) : State :=
  match dirtyByte s ctx page with
  | some (pa, first) =>
    tableWrite s pa [(List.range 8).foldl (fun b j => setBit b j ((dirtyOf s ctx).contains (first + j))) (0 : Byte)]
  | none => s

/-- Set the index of a context's dirty pages. -/
def setDirty (s : State) (ctx : Nat) (ps : List Nat) : State :=
  { s with xlat := { s.xlat with dirty := sput (fun _ => []) s.xlat.dirty ctx ps } }

/-- Note 64 KiB virtual page `page` of a context dirty: a KIND 1 leaf that names DRAM still maps it (R356, R357). -/
def noteDirty (s : State) (ctx page : Nat) : State :=
  if !(s.ctx ctx).dirtyTrack || !(findLeaf s ctx (page * 65536)).any leafDram then s else
  if (dirtyOf s ctx).contains page then s else
  putDirty (setDirty s ctx (insertBy id page (dirtyOf s ctx))) ctx page

/-- Note a write through a leaf dirty when the leaf is KIND 1 and names DRAM. -/
def noteWrite (s : State) (ctx va : Nat) (l : Leaf) : State := if leafDram l then noteDirty s ctx (va / 65536) else s

/-- Clear a context's dirty map (R357). -/
def clearDirty (s : State) (ctx : Nat) : State :=
  let ps := dirtyOf s ctx
  ps.foldl (fun s p => putDirty s ctx p) (setDirty s ctx [])

end Sys2Proof.Machine
end

