-- ==== Sys2Proof/Machine/Xlat.lean ====
section
/-! DEFINITION. Translation: table walks at the home cluster caches, the translation cache, the walk cache and the private buffers
(R345 to R347, R356). -/

namespace Sys2Proof.Machine

/-- Kinds of access. -/
inductive XKind where
  | read | write | atomic | fetch
  deriving DecidableEq, Repr

/-- Ways a translation fails. -/
inductive XFail where
  /-- The context is neither LIVE nor in TEARDOWN. -/
  | lost
  /-- No valid leaf, or a missing permission. -/
  | fault
  /-- A poisoned table entry, at its physical address (R41). -/
  | poison (pa : Nat)
  /-- A host-resident page, by its 64 KiB virtual page (R351). -/
  | migrate (page : Nat)
  deriving DecidableEq, Repr

/-- A translated access: a physical address of this device, or an address on a peer-table entry. -/
inductive Target where
  | phys (pa : Nat) (dev : Bool)
  | remote (peer addr : Nat) (dev : Bool)
  deriving DecidableEq, Repr

/-- Whether a leaf grants a kind of access (R345). -/
def leafGrants (w : DWord) : XKind → Bool
  | .fetch => bit w 3 && bit w 5
  | .read => bit w 3
  | .write => bit w 4
  | .atomic => bit w 3 && bit w 4

/-! ## Caches of translations (R347) -/

/-- The key of an engine's private buffer. -/
def XUnit.key : XUnit → Nat
  | .core c => c
  | .streamer c k => 1024 + 4 * c + k
  | .sequencer n => 4096 + n
  | .desk => 4128
  | .port p => 4160 + p
  | .central => 4224

/-- Entries of an engine's private buffer (R347). -/
def XUnit.entries : XUnit → Nat
  | .core _ => 256
  | .streamer _ _ => 32
  | .sequencer _ => 32
  | .desk => 64
  | .port _ => 1024
  | .central => 0

/-- Whether a cached leaf translates `va` of a context. -/
def XEntry.covers (e : XEntry) (ctx va : Nat) : Bool := e.ctx == ctx && va / pageBytes e.size == e.page

/-- An engine's private buffer, oldest entry first. -/
def bufferOf (s : State) (u : XUnit) : List XEntry := sget (fun _ => []) s.xlat.buffers u.key

/-- Put a leaf into an engine's private buffer; a full one gives up its oldest entry (LOG 129). -/
def putBuffer (s : State) (u : XUnit) (e : XEntry) : State :=
  let es := (bufferOf s u).filter (· != e) ++ [e]
  { s with xlat := { s.xlat with buffers := sput (fun _ => []) s.xlat.buffers u.key (es.drop (es.length - u.entries)) } }

/-- An engine's private buffer loses every entry (R222, R228). -/
def dropBuffer (s : State) (u : XUnit) : State :=
  { s with xlat := { s.xlat with buffers := sput (fun _ => []) s.xlat.buffers u.key [] } }

/-- The set of the translation cache of a virtual page (LOG 129). -/
def xlatSet (page : Nat) : Nat := page % 4096

/-- The way of the translation cache that translates `va`, with its entry. -/
def cacheFind (s : State) (ctx va : Nat) : Option (Nat × XEntry) :=
  [0, 1, 2].findSome? fun size =>
    let b := xlatSet (va / pageBytes size) * 16
    (List.range 16).findSome? fun w => match oget s.xlat.cache (b + w) with
      | some e => if e.size == size && e.covers ctx va then some (b + w, e) else none
      | none => none

/-- Touch a way of the translation cache: the tree of R260. -/
def touchCache (s : State) (key : Nat) : State :=
  { s with xlat := { s.xlat with
      trees := sput (fun _ => 0) s.xlat.trees (key / 16) (treeTouch (sget (fun _ => 0) s.xlat.trees (key / 16)) (key % 16)) } }

/-- Put a leaf into the translation cache: an invalid way, else the victim of the set's tree (R347, R260). -/
def putCache (s : State) (e : XEntry) : State :=
  let b := xlatSet e.page * 16
  let w := match firstBelow 16 fun w => (oget s.xlat.cache (b + w)).isNone with
    | some w => w
    | none => treeVictim (sget (fun _ => 0) s.xlat.trees (xlatSet e.page))
  touchCache { s with xlat := { s.xlat with cache := oput s.xlat.cache (b + w) (some e) } } (b + w)

/-- Put a pointer into the walk cache of 4,096 entries; a full one gives up its oldest (R347, LOG 129). -/
def putWalk (s : State) (e : WalkEntry) : State :=
  if s.xlat.walks.contains e then s else
  let es := s.xlat.walks ++ [e]
  { s with xlat := { s.xlat with walks := es.drop (es.length - 4096) } }

/-- Whether the engine or the central unit holds the leaf of `va`, so that no walk is needed. -/
def translationHeld (s : State) (u : XUnit) (ctx va : Nat) : Bool :=
  (bufferOf s u).any (·.covers ctx va) || (cacheFind s ctx va).isSome

/-! ## The walk (R345) -/

/-- The level at which a walk of `va` begins: that of the deepest node which the walk cache names. -/
def walkStart (s : State) (ctx va : Nat) : Nat :=
  ([4, 3, 2, 1].find? fun level => s.xlat.walks.any fun w =>
    w.ctx == ctx && w.level == level && w.index == nodeIndex level va).getD 0

/-- The entries that a walk of `va` reads, as (level, address): down to the leaf, or to the first entry that is not valid. -/
def walkSteps (s : State) (ctx va : Nat) : List (Nat × Nat) :=
  let last := 4 - ((findLeaf s ctx va).map (·.size)).getD 0
  (below (last + 1) fun level => decide (walkStart s ctx va ≤ level)).filterMap fun level =>
    (entryAddr s ctx level va).map fun pa => (level, pa)

/-- Whether a read of sector `k` of DRAM at its home would deliver it poisoned (R41): the home cluster cache's copy, the eviction
buffer's, or the vault's. -/
def sectorPoisoned (s : State) (k : Nat) : Bool :=
  let line := k / 4
  let cl := s.cluster (homeOfLine line)
  let cached := match (if ccOff s (homeOfLine line) then none else cl.find line) with
    | some key => if bit (cl.way key).valid (k % 4) then some (bit (cl.way key).poison (k % 4)) else none
    | none => none
  match cached with
  | some p => p
  | none => match cl.evict.find? fun e => e.line == line && bit e.dirty (k % 4) with
    | some e => bit e.poison (k % 4)
    | none => match s.dram.decode k with | .uncorrectable | .poisoned => true | _ => false

/-- The first poisoned entry of a walk. -/
def walkPoison (s : State) (ctx va : Nat) : Option Nat :=
  ((walkSteps s ctx va).find? fun x => sectorPoisoned s (x.2 / 32)).map (·.2)

/-- Read the entries of a walk at their home cluster caches, up to the first poisoned one; pointers go into the walk cache. -/
def walkRead (s : State) (ctx va : Nat) : State :=
  let last := 4 - ((findLeaf s ctx va).map (·.size)).getD 0
  ((walkSteps s ctx va).foldl (fun (r : State × Bool) x =>
    if r.2 then r else
    let q := dramRead r.1 x.2 8 false
    if q.1.bad then (q.2, true) else
    match entryAddr q.2 ctx (x.1 + 1) va with
    | some pa => if x.1 < last then
        (putWalk q.2 { ctx := ctx, level := x.1 + 1, index := nodeIndex (x.1 + 1) va, pa := pa / 256 * 256 }, false) else (q.2, false)
    | none => (q.2, false)) (s, false)).1

/-- What looking up `va` for an engine does to the caches and to the memory that a walk reads (R345, R347): no cache takes a KIND 3
leaf, a leaf with MIGRATING or a failed lookup. -/
def lookUp (s : State) (u : XUnit) (ctx va : Nat) : State :=
  if (s.ctx ctx).state ≠ .live ∧ (s.ctx ctx).state ≠ .teardown then s
  else if (bufferOf s u).any (·.covers ctx va) then s
  else match cacheFind s ctx va with
    | some (key, e) => putBuffer (touchCache s key) u e
    | none =>
      let t := walkRead s ctx va
      match walkPoison t ctx va, findLeaf s ctx va with
      | none, some l =>
        if leafKind l.word = 3 ∨ bit l.word 7 then t else
        let e : XEntry := { ctx := ctx, size := l.size, page := va / pageBytes l.size, word := l.word }
        putBuffer (putCache t e) u e
      | _, _ => t

/-- Look up each of the addresses of an instruction, a tile or a range in turn. -/
def lookUps (s : State) (u : XUnit) (ctx : Nat) (vas : List Nat) : State :=
  (vas.map (· / 65536)).eraseDups.foldl (fun s p => lookUp s u ctx (p * 65536)) s

/-- translate of R345 in a state whose caches were looked up, but for noting the page dirty. -/
def translate (s : State) (u : XUnit) (ctx va : Nat) (kind : XKind) : Except XFail (Leaf × Target) :=
  if (s.ctx ctx).state ≠ .live ∧ (s.ctx ctx).state ≠ .teardown then .error .lost else
  match (if translationHeld s u ctx va then none else walkPoison s ctx va) with
  | some pa => .error (.poison pa)
  | none => match findLeaf s ctx va with
    | none => .error .fault
    | some l =>
      if !leafGrants l.word kind then .error .fault
      else if leafKind l.word = 3 ∨ bit l.word 7 then .error (.migrate (va / 65536))
      else
        let off := va - l.va
        if leafKind l.word = 2 then .ok (l, .remote (leafPeer l.word) (leafAddr l.word + off) (bit l.word 6))
        else .ok (l, .phys (leafAddr l.word + off) (bit l.word 6))

/-- Where a lane of a migrating page will go: its leaf names the local page that receives the data (R344). -/
def migratingTarget (s : State) (ctx va : Nat) : Target :=
  match findLeaf s ctx va with
  | some l => .phys (leafAddr l.word + (va - l.va)) false
  | none => .phys 0 false

end Sys2Proof.Machine
end

