-- ==== Sys2Proof/Machine/Mem.lean ====
section
/-! DEFINITION. Reading and writing at an end point by the engines that are no cores: the Desk, the central translation unit,
the ports, the digest and plan engines, the tile streamers (R27, R243, R276, R603). -/

namespace Sys2Proof.Machine

/-- Regions of the physical address space (R27). -/
inductive Region where
  | dram
  | window (core off : Nat)
  | control
  | reserved
  deriving DecidableEq, Repr

/-- The region of a physical address. -/
def regionOf (pa : Nat) : Region :=
  if pa < dramEnd then .dram
  else if 0x80000000000 ≤ pa ∧ pa < 0x8000C000000 then
    .window ((pa - 0x80000000000) / 0x80000) ((pa - 0x80000000000) % 0x80000)
  else if 0xF0000000000 ≤ pa ∧ pa < 0x100000000000 then .control
  else .reserved

/-! ## Local store (R235 to R245) -/

/-- Read `n` bytes of local store of core `c` from offset `o`. -/
def lsRead (s : State) (c o n : Nat) : Got :=
  let w := (s.core c).work
  { bytes := (List.range n).map fun i => sget (fun _ => 0) w.ls (o + i),
    poison := if n = 0 then [] else (List.range ((o + n - 1) / 32 - o / 32 + 1)).map fun j =>
      sget (fun _ => false) w.lsPoison (o / 32 + j) }

/-- Write local store; a whole sector takes its own poison flag, a partial one keeps the old flag too (R43). -/
def lsWrite (s : State) (c o : Nat) (bs : List Byte) (poison : Nat → Bool) : State :=
  if bs = [] then s else
  s.modWork c fun w =>
    let last := o + bs.length
    { w with
      ls := ((bs.zipIdx).foldl (fun m (b, i) => sput (fun _ => 0) m (o + i) b) w.ls),
      lsPoison := (List.range ((last - 1) / 32 - o / 32 + 1)).foldl (fun m j =>
        let k := o / 32 + j
        let whole := o ≤ 32 * k && 32 * k + 32 ≤ last
        sput (fun _ => false) m k ((!whole && sget (fun _ => false) m k) || poison k)) w.lsPoison }

/-- The launch descriptor's fields (R381). -/
def descFld (d : BitVec 1024) (lo len : Nat) : Nat := fld d lo len

/-- L1_DISABLE of a launch (R269). -/
def Launch.l1Off (l : Launch) : Bool := bit l.desc 200

/-- LS_SIZE_KIB of a launch. -/
def Launch.lsKib (l : Launch) : Nat := fld l.desc 160 9

/-- Tenant of a context. -/
def tenantOf (s : State) (ctx : Nat) : Nat := (s.ctx ctx).tenant

/-- Whether core `c` accepts a window access of `n` bytes at offset `o` from `tenant` (R244): a core holds a launch from the placement
of its first block on (R398). -/
def windowOk (s : State) (c o n tenant : Nat) : Bool :=
  match (s.core c).work.launch with
  | some l => match s.launch l with
    | some x => o + n ≤ x.lsKib * 1024 && (s.core c).stage == .running && (s.core c).since.isSome && tenantOf s x.ctx == tenant
    | none => false
  | none => false

/-! ## Control space (R603) -/

/-- The ring page of queue 0. -/
def ctlRing : Nat := 0xF0000000000

/-- The page of queue 0's state record. -/
def ctlRecord : Nat := 0xF0000010000

/-- Read control space: storage in two pages, zero elsewhere. -/
def ctlRead (s : State) (pa n : Nat) : List Byte :=
  (List.range n).map fun i =>
    let a := pa + i
    if ctlRing ≤ a ∧ a < ctlRing + 65536 then sget (fun _ => 0) s.desk.control (a - ctlRing)
    else if ctlRecord ≤ a ∧ a < ctlRecord + 64 then s.desk.record0.extractLsb' (8 * (a - ctlRecord)) 8
    else 0

/-- Write control space: only the ring page keeps what is written. -/
def ctlWrite (s : State) (pa : Nat) (bs : List Byte) : State :=
  { s with desk := { s.desk with control := (bs.zipIdx).foldl (fun m (b, i) =>
      if ctlRing ≤ pa + i ∧ pa + i < ctlRing + 65536 then sput (fun _ => 0) m (pa + i - ctlRing) b else m) s.desk.control } }

/-! ## By physical address -/

/-- Read at the end point of a physical address. A refused window access answers its status (R245). -/
def physRead (s : State) (pa n tenant : Nat) (dev : Bool) : Except Status (Got × State) :=
  match regionOf pa with
  | .dram => .ok (if dev then vaultGet s pa n else dramRead s pa n false)
  | .window c o => if windowOk s c o n tenant then .ok (lsRead s c o n, s) else .error Code.windowUnavailable
  | .control => .ok ({ bytes := ctlRead s pa n, poison := [] }, s)
  | .reserved => .error Code.reservedAddress

/-- Write at the end point of a physical address. -/
def physWrite (s : State) (pa : Nat) (bs : List Byte) (poison : Nat → Bool) (tenant : Nat) (dev : Bool) :
    Except Status State :=
  match regionOf pa with
  | .dram => .ok (if dev then vaultPut s pa bs poison else dramWrite s pa bs poison false)
  | .window c o => if windowOk s c o bs.length tenant then
      .ok (lsWrite s c o bs fun k => poison (pa / 32 + (k - o / 32))) else .error Code.windowUnavailable
  | .control => .ok (ctlWrite s pa bs)
  | .reserved => .error Code.reservedAddress

/-- Parts of a virtual range that lie in one 64 KiB page: (address, bytes). -/
def pageParts (va n : Nat) : List (Nat × Nat) :=
  if n = 0 then [] else
  (List.range ((va + n - 1) / 65536 - va / 65536 + 1)).map fun j =>
    let lo := Nat.max va ((va / 65536 + j) * 65536)
    (lo, Nat.min (va + n) ((va / 65536 + j + 1) * 65536) - lo)

/-- What a leaf must be for the Desk (R380): KIND 1, and naming DRAM or one of context 0's two control-space pages (R370). -/
def deskMayUse (t : Target) : Bool :=
  match t with
  | .phys pa _ => match regionOf pa with
    | .dram => true
    | .control => pa / 65536 * 65536 == ctlRing || pa / 65536 * 65536 == ctlRecord
    | _ => false
  | .remote _ _ _ => false

/-- The ways a virtual read or write by the Desk or a port can end. -/
inductive VFail where
  | xlat (f : XFail) (va : Nat)
  | poisoned (va pa : Nat)
  | status (st : Status)
  deriving DecidableEq, Repr

/-- A failed read or write, with the state it leaves: what it did before it failed stands. -/
abbrev VErr := VFail × State

/-- Read through a context's translations, as the Desk, a plan engine or a host port does. `ok` restricts the targets. -/
def virtRead (s : State) (u : XUnit) (ctx va n : Nat) (ok : Target → Bool) : Except VErr (Got × State) :=
  (pageParts va n).foldl (fun acc p => match acc with
    | .error e => .error e
    | .ok (g, s) =>
      let s := lookUp s u ctx p.1
      match translate s u ctx p.1 .read with
      | .error f => .error (.xlat f p.1, s)
      | .ok (_, t) => if !ok t then .error (.xlat .fault p.1, s) else
        match t with
        | .remote _ _ _ => .error (.xlat .fault p.1, s)
        | .phys pa dev => match physRead s pa p.2 (tenantOf s ctx) dev with
          | .error st => .error (.status st, s)
          | .ok (h, s) => if h.bad then .error (.poisoned p.1 (pa / 32 * 32 + 32 * h.poison.findIdx id), s)
              else .ok ({ bytes := g.bytes ++ h.bytes, poison := g.poison ++ h.poison }, s))
    (.ok ({ bytes := [], poison := [] }, s))

/-- Write through a context's translations; every page is translated before any byte is written (R356). -/
def virtWrite (s : State) (u : XUnit) (ctx va : Nat) (bs : List Byte) (ok : Target → Bool) : Except VErr State :=
  let parts := pageParts va bs.length
  let s := lookUps s u ctx (parts.map (·.1))
  let bad := parts.findSome? fun p => match translate s u ctx p.1 .write with
    | .error f => some (VFail.xlat f p.1)
    | .ok (_, t) => if ok t then none else some (VFail.xlat .fault p.1)
  match bad with
  | some e => .error (e, s)
  | none => parts.foldl (fun acc p => match acc with
    | .error e => .error e
    | .ok s => match translate s u ctx p.1 .write with
      | .error f => .error (.xlat f p.1, s)
      | .ok (l, .phys pa dev) =>
        match physWrite (noteWrite s ctx p.1 l) pa (sub bs (p.1 - va) p.2) (fun _ => false) (tenantOf s ctx) dev with
        | .error st => .error (.status st, s)
        | .ok s => .ok s
      | .ok (_, .remote _ _ _) => .error (.xlat .fault p.1, s)) (.ok s)

end Sys2Proof.Machine
end

