-- ==== Sys2Proof/Machine/Send.lean ====
section
/-! DEFINITION. What the device sends: routes, held frames and the wire; Scehel Message Transport messages, Peer Transport frames,
RoCEv2 requests (13_ethernet_attachment.md). `ports.sent` and `ports.wire` list the newest first (LOG 5). -/

namespace Sys2Proof.Machine

/-! ## Addresses (R402, R406, R407, R526) -/

/-- Whether port `n` (H0, H1, P0 to P7 as 0 to 9) has a running clock and a link that is up. -/
def linkUp (s : State) (n : Nat) : Bool :=
  decide (n < 10) && bit s.power.clocks 1 && bit s.power.clocks (27 + n) && (s.port n).linkState == 2

/-- The IPv6 link-local address of a MAC address by modified EUI-64: FE80::/64, the upper three octets with the universal bit
inverted, FF, FE, the lower three octets (R526). -/
def linkLocal (mac : BitVec 48) : BitVec 128 :=
  let id : BitVec 64 := (mac.extractLsb' 24 24 ++ (0xFFFE : BitVec 16) ++ mac.extractLsb' 0 24) ^^^ 0x0200000000000000
  (0xFE80000000000000 : BitVec 64) ++ id

/-- The address of a port: a host port without IP_ADDR takes its link-local one (R526); a peer port without IP_ADDR has none. -/
def ownIp (s : State) (n : Nat) : Option (BitVec 128) :=
  if (s.port n).ip ≠ 0 then some (s.port n).ip else if n < 2 then some (linkLocal (Config.macAddr n)) else none

/-- Whether an address is an IPv4-mapped one. -/
def isV4 (ip : BitVec 128) : Bool := ip.toNat >>> 32 == 0xFFFF

/-- Bytes of an IP header without options (R403). -/
def ipHeader (ip : BitVec 128) : Nat := if isV4 ip then 20 else 40

/-- VLAN_ID and MGMT_VLAN of a port in force: untagged in recovery mode (R525). -/
def vlansOf (s : State) (p : Nat) : Nat × Nat :=
  if s.power.devState = .recovery then (0, 0) else ((s.port p).vlan, (s.port p).mgmtVlan)

/-- The next hop to an address: the address itself inside the port's prefix, else GATEWAY (R406). -/
def nextHop (s : State) (n : Nat) (ip : BitVec 128) : BitVec 128 :=
  let p := s.port n
  if ip.toNat >>> (128 - p.pfxLen) = ((ownIp s n).getD 0).toNat >>> (128 - p.pfxLen) then ip else p.gateway

/-! ## Routes -/

/-- How a frame leaves: its port, destination, UDP port, priority (none for MAC control), IP packet bytes (0 where it is no IP
packet), its MAC address where no address resolution decides it, and the header fields VERSION, ACK and SRC_PEER. -/
structure Route where
  port    : Nat
  ip      : BitVec 128
  udp     : BitVec 16
  prio    : Option Nat
  bytes   : Nat
  mac     : Option (BitVec 48)
  version : Nat
  ack     : Nat
  srcPeer : Nat
  deriving DecidableEq, Repr

/-- A route with plain header fields. -/
def Route.to (port : Nat) (ip : BitVec 128) (udp : BitVec 16) (prio bytes : Nat) : Route :=
  { port := port, ip := ip, udp := udp, prio := some prio, bytes := bytes, mac := none, version := 0, ack := 0, srcPeer := 0 }

/-- Bytes of a RoCEv2 packet that carries `n` bytes behind `ext` bytes of extension header: IP, UDP, base header, pad, ICRC. -/
def roceBytes (ip : BitVec 128) (ext n : Nat) : Nat := ipHeader ip + 8 + 12 + ext + cdiv n 4 * 4 + 4

/-- Bytes of a message or frame of the device's own transports: IP, UDP, its 32-byte header and payload (R415, R424). -/
def ownBytes (ip : BitVec 128) (n : Nat) : Nat := ipHeader ip + 8 + 32 + n

/-- The route of a RoCEv2 packet of connection `n`. -/
def roceRoute (s : State) (n ext len : Nat) : Option Route :=
  (s.conn n).bind fun c => (s.session c.session).map fun x =>
    Route.to x.port x.ip 4791 (s.port x.port).prioMain (roceBytes x.ip ext (Nat.min len c.pmtu))

/-- The route of a Peer Transport frame on a channel: every one carries ACK and SRC_PEER (R424). -/
def peerRoute (s : State) (n port len : Nat) : Route :=
  let ip := BitVec.ofNat 128 (fld (s.peer n).entry 256 128)
  { Route.to (2 + port) ip 51621 (s.port (2 + port)).prioMain (ownBytes ip len) with
      version := 1, ack := (s.chan n port).rxNext, srcPeer := s.ports.ownPeer }

/-- The MAC address of a group of hosts that asks for `ip`: broadcast for ARP, the solicited-node group for Neighbor Discovery. -/
def askMac (ip : BitVec 128) : BitVec 48 :=
  if isV4 ip then 0xFFFFFFFFFFFF else (0x3333FF : BitVec 24) ++ ip.extractLsb' 0 24

/-- The route of what the device sends; none when its session, connection or peer is gone. Protocols without a priority entry take
priority 0, PTP takes 7 (R408, R433). -/
def routeOf (s : State) (x : Sent) : Option Route :=
  match x with
  | .smt n m => (s.session n).map fun x =>
      { Route.to x.port x.ip x.udp (s.port x.port).prioSmt (ownBytes x.ip m.payload.length) with
          version := 1, ack := x.rxNext.toNat }
  | .unseq port _ ip udp m ack _ =>
      some { Route.to port ip udp (s.port port).prioSmt (ownBytes ip m.payload.length) with version := 1, ack := ack.toNat }
  | .roceAck n _ | .roceNak n _ _ => roceRoute s n 4 0
  | .roceRead n _ data => roceRoute s n 4 data.length
  | .rdma n r => roceRoute s n 16 (if r.write then r.length else 0)
  | .cnp n => roceRoute s n 16 0
  | .peer n port f => some (peerRoute s n port f.payload.length)
  | .keepalive n port => some (peerRoute s n port 0)
  | .pause port _ _ => some { Route.to port 0 0 0 0 with prio := none, mac := some 0x0180C2000001 }
  | .neighbour port ip mac => some { Route.to port ip 0 0 0 with mac := some mac }
  | .solicit port ip => some { Route.to port ip 0 0 0 with mac := some (askMac ip) }
  | .echo port ip data => some (Route.to port ip 0 0 (ipHeader ip + 8 + data.length))
  | .delayReq port =>
      let v4 := (ownIp s port).any isV4
      some { Route.to port (if v4 then 0xFFFFE0000181 else 0xFF0E0000000000000000000000000181) 319 7
               ((if v4 then 20 else 40) + 8 + 44) with mac := some (if v4 then 0x01005E000181 else 0x333300000181) }

/-! ## Holding and sending (R404 to R408) -/

/-- Whether a frame must wait for its link or its priority: MAC control frames are never paused. -/
def waits (s : State) (r : Route) : Bool :=
  !linkUp s r.port || r.prio.any fun p => sget (fun _ => 0) (s.port r.port).paused p != 0

/-- An acknowledgement that is owed on the session or channel of a frame leaves with it (R417, R427). -/
def ackRides (s : State) (x : Sent) : State :=
  match x with
  | .smt n _ => match s.session n with
    | some x => if x.owed = 0 then s else s.setSession n (some { x with owed := 0 })
    | none => s
  | .peer n port _ | .keepalive n port => if (s.chan n port).owed = 0 then s else s.modChan n port fun c => { c with owed := 0 }
  | _ => s

/-- A frame leaves for MAC address `mac`. -/
def leave (s : State) (x : Sent) (r : Route) (mac : BitVec 48) : State :=
  let w : Wire := { port := r.port, srcIp := (ownIp s r.port).getD 0, dstIp := r.ip, dstMac := mac, udp := r.udp,
                    vlan := if r.prio.isNone then 0 else (vlansOf s r.port).1, prio := r.prio, version := r.version, ack := r.ack,
                    srcPeer := r.srcPeer, what := x }
  ackRides { s with ports := { s.ports with wire := w :: s.ports.wire } } x

/-- A frame is held. -/
def hold (s : State) (x : Sent) : State := { s with ports := { s.ports with held := s.ports.held ++ [x] } }

/-- Record what the device gives to a port. -/
def recordSent (s : State) (x : Sent) : State := { s with ports := { s.ports with sent := x :: s.ports.sent } }

/-- A port asks for an address with ARP or Neighbor Discovery (R403, R406). -/
def askFor (s : State) (port : Nat) (ip : BitVec 128) : State :=
  let x := Sent.solicit port ip
  let r := { Route.to port ip 0 0 0 with mac := some (askMac ip) }
  let s := recordSent s x
  if waits s r then hold s x else leave s x r (askMac ip)

/-- The MAC address that a port has resolved for an address. -/
def resolvedMac (s : State) (port : Nat) (ip : BitVec 128) : Option (BitVec 48) :=
  ((s.port port).resolved.find? fun e => e.1 == ip).map (·.2)

/-- A frame that is due leaves, is discarded as longer than MTU, or is held: its link is down, its priority is paused, or its next
hop's address is not resolved, and the port asks for it (R404 to R408). -/
def offer (s : State) (x : Sent) : State :=
  match routeOf s x with
  | none => s
  | some r =>
    if (s.port r.port).mtu < r.bytes then s
    else if waits s r then hold s x
    else
      let hop := nextHop s r.port r.ip
      match r.mac.or (resolvedMac s r.port hop) with
      | some mac => leave s x r mac
      | none => askFor (hold s x) r.port hop

/-- Give something to a port to send. -/
def emit (s : State) (x : Sent) : State := offer (recordSent s x) x

/-- What held frames waited for may have come: each is tried again in its order. -/
def pump (s : State) : State := s.ports.held.foldl offer { s with ports := { s.ports with held := [] } }

/-! ## Messages (R417, R422) -/

/-- A message without payload. -/
def OutMsg.plain (typ : Nat) (status : Status) (tag : Word) (arg0 : DWord) : OutMsg :=
  { typ := typ, seq := 0, status := status, more := false, tag := tag, arg0 := arg0, payload := [] }

/-- Send a sequenced message in a session; beyond 256 unacknowledged it waits its turn (R417). -/
def smtSend (s : State) (n : Nat) (m : OutMsg) : State :=
  match s.session n with
  | none => s
  | some x =>
    let m := { m with seq := x.txNext.toNat }
    let s := s.setSession n (some { x with unacked := x.unacked ++ [m], txNext := x.txNext + 1 })
    if x.unacked.length < 256 then emit s (.smt n m) else s

/-- Send an ACK in a session (R417). -/
def smtAck (s : State) (n : Nat) (gap : Bool) : State :=
  match s.session n with
  | none => s
  | some x =>
    emit (s.setSession n (some { x with owed := 0 })) (.unseq x.port n x.ip x.udp (OutMsg.plain 4 Code.success 0 0) x.rxNext gap)

/-- Send an EVENT (R422). -/
def sendEvent (s : State) (session kind source : Nat) (status : Status) (payload : List Byte) : State :=
  smtSend s session { OutMsg.plain 0x12 status 0 (BitVec.ofNat 64 (source ||| kind <<< 16)) with payload := payload }

/-! ## Peer Transport (R424 to R429) -/

/-- KIND of a peer-table entry. -/
def Peer.kind (p : Peer) : Nat := fld p.entry 0 2

/-- STATE of a peer-table entry. -/
def Peer.state (p : Peer) : Nat := fld p.entry 2 2

/-- PORT_MASK of a peer-table entry. -/
def Peer.mask (p : Peer) : Nat := fld p.entry 8 8

/-- TENANT of a peer-table entry. -/
def Peer.tenant (p : Peer) : Nat := fld p.entry 16 8

/-- The ports of PORT_MASK, ascending. -/
def Peer.portList (p : Peer) : List Nat := below 8 fun i => p.mask.testBit i

/-- The port that serves number `k`: set bit (k mod m) of PORT_MASK (R427, R453). -/
def Peer.portFor (p : Peer) (k : Nat) : Nat := p.portList.getD (k % p.portList.length) 0

/-- Send a frame on a channel; beyond 1,024 unacknowledged it waits its turn (R427). -/
def peerSend (s : State) (n port : Nat) (f : OutFrame) : State :=
  let c := s.chan n port
  let f := { f with seq := c.txNext }
  let s := s.modChan n port fun c => { c with txNext := (c.txNext + 1) % 2 ^ 32, unacked := c.unacked ++ [f] }
  if c.unacked.length < 1024 then emit s (.peer n port f) else s

/-- An empty frame of a type to peer `n`. -/
def OutFrame.plain (typ n tenant ctx : Nat) (tag : Word) : OutFrame :=
  { typ := typ, seq := 0, tag := tag, opx := 0, addr := 0, length := 0, status := 0, context := ctx, tenant := tenant, dst := n,
    poison := [], payload := [] }

/-! ## RoCEv2 requests (R410, R413) -/

/-- Packets of `n` bytes at the path MTU. -/
def psnSpan (pmtu n : Nat) : Nat := Nat.max 1 (cdiv n pmtu)

/-- Put the waiting requests of a connection on the wire: at most 16 reads are outstanding (R410). -/
def rocePump (s : State) (n : Nat) : State :=
  match s.conn n with
  | none => s
  | some c =>
    let step (acc : List RdmaReq × List RdmaReq × Nat × Bool) (r : RdmaReq) :=
      let (out, fresh, reads, stop) := acc
      if r.sent then (out ++ [r], fresh, reads, stop)
      else if stop || (!r.write && 16 ≤ reads) then (out ++ [r], fresh, reads, true)
      else (out ++ [{ r with sent := true }], fresh ++ [{ r with sent := true }], reads + b2n (!r.write), false)
    let sentReads := (c.reqs.filter fun r => r.sent && !r.write).length
    let r := c.reqs.foldl step ([], [], sentReads, false)
    r.2.1.foldl (fun s q => emit s (.rdma n q)) (s.setConn n (some { c with reqs := r.1 }))

/-- Issue an RDMA request on a connection. -/
def roceIssue (s : State) (n : Nat) (write : Bool) (va : Nat) (rkey : Word) (length : Nat) (data : List Byte)
    (use : RdmaUse) : State :=
  match s.conn n with
  | none => s
  | some c =>
    let r : RdmaReq := { psn := c.txPsn, write := write, va := va, rkey := rkey, length := length, data := data, use := use,
                         sent := false }
    rocePump (s.setConn n (some { c with reqs := c.reqs ++ [r],
                                         txPsn := c.txPsn + BitVec.ofNat 24 (psnSpan c.pmtu length) })) n

end Sys2Proof.Machine
end

