-- ==== Sys2Proof/Machine/Tiles.lean ====
section
/-! DEFINITION. Tile streamer descriptors, address generation and the issue of a store tile's writes
(07_tile_streamers.md, R203 to R208, R218). -/

namespace Sys2Proof.Machine

/-- A field of a descriptor. -/
def TsDesc.f (d : TsDesc) (lo len : Nat) : Nat := fld d.raw lo len

/-- NDIM. -/
def TsDesc.ndim (d : TsDesc) : Nat := d.f 180 3

/-- TILE_DIMS. -/
def TsDesc.td (d : TsDesc) : Nat := d.f 183 3

/-- Element size in bytes. -/
def TsDesc.size (d : TsDesc) : Nat := 2 ^ d.f 186 2

/-- DIR: whether this is a store descriptor. -/
def TsDesc.isStore (d : TsDesc) : Bool := bit d.raw 188

/-- NO_ALLOC. -/
def TsDesc.noAlloc (d : TsDesc) : Bool := bit d.raw 189

/-- RING_SLOTS. -/
def TsDesc.ring (d : TsDesc) : Nat := d.f 176 4

/-- SLOT_PITCH. -/
def TsDesc.slotPitch (d : TsDesc) : Nat := d.f 128 32

/-- COUNT of dimension `k` (R204). -/
def TsDesc.count (d : TsDesc) (k : Nat) : Nat := d.f (384 + 64 * k) 16 + 1

/-- STRIDE of dimension `k`. -/
def TsDesc.stride (d : TsDesc) (k : Nat) : Int := sgn 32 (d.f (400 + 64 * k) 32)

/-- AXIS of dimension `k`. -/
def TsDesc.axis (d : TsDesc) (k : Nat) : Nat := d.f (432 + 64 * k) 2

/-- MUL of dimension `k`. -/
def TsDesc.mul (d : TsDesc) (k : Nat) : Nat := d.f (434 + 64 * k) 8

/-- Rows per tile (R206). -/
def TsDesc.rows (d : TsDesc) : Nat := ((List.range d.td).drop 1).foldl (fun r k => r * d.count k) 1

/-- Row pitch in bytes (R206). -/
def TsDesc.rp (d : TsDesc) : Nat := if d.f 160 16 = 0 then d.count 0 * d.size else d.f 160 16

/-- Number of tiles (R206). -/
def TsDesc.tileCount (d : TsDesc) : Nat := ((List.range d.ndim).drop d.td).foldl (fun r k => r * d.count k) 1

/-- Bytes of a slot that a tile spans (R213). -/
def TsDesc.span (d : TsDesc) : Nat := (d.rows - 1) * d.rp + d.count 0 * d.size

/-- Mixed-radix digits of `n` for the dimensions `ks`, the first fastest. -/
def TsDesc.digits (d : TsDesc) : List Nat → Nat → List (Nat × Nat)
  | [], _ => []
  | k :: ks, n => (k, n % d.count k) :: d.digits ks (n / d.count k)

/-- Whether the indices lie outside an axis that some dimension names (R206). -/
def TsDesc.padded (d : TsDesc) (ix : List (Nat × Nat)) : Bool :=
  [1, 2, 3].any fun a =>
    if ix.any fun p => d.axis p.1 == a then
      let w := 704 + 64 * (a - 1)
      let c : Int := ix.foldl (fun c p => if d.axis p.1 = a then c + (d.mul p.1 * p.2 : Nat) else c) (sgn 32 (d.f w 32))
      c < 0 || (d.f (w + 32) 32 : Int) ≤ c
    else false

/-- One element of a tile: global address, local-store address within the block, whether it is padded. -/
structure Elem where
  g   : Nat
  l   : Nat
  pad : Bool
  deriving DecidableEq, Repr

/-- One row of a tile: its elements in order (R206). -/
def TsDesc.row (d : TsDesc) (n r : Nat) : List Elem :=
  let ix := d.digits ((List.range d.td).drop 1) r ++ d.digits ((List.range d.ndim).drop d.td) n
  let g0 : Int := ix.foldl (fun g p => g + d.stride p.1 * (p.2 : Int)) (d.f 0 56 : Int)
  let l0 := d.f 64 32 + n % d.ring * d.slotPitch + r * d.rp
  (List.range (d.count 0)).map fun (i : Nat) =>
    { g := wrapI 64 (g0 + d.stride 0 * Int.ofNat i), l := l0 + i * d.size, pad := d.padded ((0, i) :: ix) }

/-- Split a row into bursts: runs of unpadded elements in one 128-byte line. -/
def burstsOf (row : List Elem) : List (List Elem) :=
  row.foldr (fun e acc => if e.pad then [] :: acc else match acc with
    | (x :: xs) :: rest => if x.g / 128 = e.g / 128 then (e :: x :: xs) :: rest else [e] :: (x :: xs) :: rest
    | [] :: rest => [e] :: rest
    | [] => [[e]]) [] |>.filter (· ≠ [])

/-- The bursts of a tile in order. -/
def TsDesc.bursts (d : TsDesc) (n : Nat) : List (List Elem) := (List.range d.rows).flatMap fun r => burstsOf (d.row n r)

/-- The control block's counters in local store: PROD at `off` 0, CONS at 4 (R215). -/
def TsDesc.counter (s : State) (c : Nat) (d : TsDesc) (off : Nat) : Nat := leNat (lsRead s c (d.base + d.f 96 32 + off) 4).bytes

/-- Write a counter of the control block (R216, R218). -/
def TsDesc.setCounter (s : State) (c : Nat) (d : TsDesc) (off v : Nat) : State :=
  lsWrite s c (d.base + d.f 96 32 + off) (leBytes 4 v) fun _ => false

/-- Append a new access; it takes the next number (LOG 4). -/
def addAccess (s : State) (a : Access) : State :=
  { s with accesses := s.accesses ++ [{ a with id := s.nextAcc, ins := s.nextAcc }], nextAcc := s.nextAcc + 1 }

/-- The end point of a physical address (R276). -/
def endPointOf (pa : Nat) (dev : Bool) : EndPoint :=
  match regionOf pa with
  | .dram => if dev then .vault (pa / 2 ^ 32) else .home (pa / 2 ^ 36)
  | .window c _ => .localStore c
  | _ => .control

/-- Whether a target is a local-store window (R243). -/
def targetWindow (t : Target) : Bool :=
  match t with | .phys p _ => (match regionOf p with | .window _ _ => true | _ => false) | .remote _ _ _ => false

/-- The address that an access carries: physical, on the peer, or the offset behind a window. -/
def targetAddr (t : Target) : Nat :=
  match t with
  | .phys p _ => (match regionOf p with | .window _ o => o | _ => p)
  | .remote _ a _ => a

/-- The access that writes one burst, or one element of a device-type page (R218, R226). -/
def storeAccess (core str : Nat) (ctx launch : Nat) (d : TsDesc) (t : Target) (es : List (Elem × List Byte × Bool)) : Access :=
  let base := match es with | (e, _, _) :: _ => e.g | [] => 0
  let pa := targetAddr t
  { id := 0, ins := 0, engine := .streamer core str, ctx := ctx, launch := launch, kind := .store, pc := d.pc, acq := false,
    rel := false, dev := (match t with | .phys _ v => v | .remote _ _ v => v), size := d.size, sext := false, cache := 0,
    dst := 0x1FF, dst2 := 0x1FF, part := 0,
    target := (match t with | .phys p v => endPointOf p v | .remote n _ _ => .remote n), win := targetWindow t,
    lanes := es.map fun (e, bs, _) =>
      { lane := 0, addr := pa + (e.g - base), va := e.g, data := BitVec.ofNat 128 (leNat bs), cmp := 0 },
    poison := es.foldl (fun m (e, _, p) => if p then setBit m ((pa + (e.g - base)) / 32 % 4) true else m) 0,
    noAlloc := d.noAlloc, accepted := false, l1off := false, epoch := 0, stage := .issued }

/-- Ways a tile access fails before any of its accesses is made. -/
structure TileFail where
  fail : XFail
  va   : Nat
  deriving DecidableEq, Repr

/-- The first address of each burst of a tile. -/
def TsDesc.heads (d : TsDesc) (n : Nat) : List Nat := (d.bursts n).filterMap fun b => b.head?.map (·.g)

/-- Read store tile `n` from its slot and issue its writes; the program may overwrite the slot afterwards (R218, R220). -/
def issueStoreTile (s : State) (core str ctx launch : Nat) (d : TsDesc) (n : Nat) : Except (TileFail × State) State :=
  let u : XUnit := .streamer core str
  let s := lookUps s u ctx ((d.heads n).filter (· < 2 ^ 56))
  let bad := (d.bursts n).findSome? fun b => match b with
    | e :: _ => if e.g / 2 ^ 56 ≠ 0 then some { fail := .fault, va := e.g : TileFail } else
        match translate s u ctx e.g .write with
        | .error f => some { fail := f, va := e.g }
        | .ok (_, .phys pa _) => if regionOf pa = .reserved then some { fail := .fault, va := e.g } else none
        | .ok _ => none
    | [] => none
  match bad with
  | some f => .error (f, s)
  | none => .ok <| (d.bursts n).foldl (fun s b => match b with
    | [] => s
    | e :: _ => match translate s u ctx e.g .write with
      | .error _ => s
      | .ok (l, t) =>
        let s := noteWrite s ctx e.g l
        let es := b.map fun e =>
          let g := lsRead s core (d.base + e.l) d.size
          (e, g.bytes, g.bad)
        let dev := match t with | .phys _ v => v | .remote _ _ v => v
        if dev then (es.zipIdx).foldl (fun s (x, _) =>
            let t' := match t with
              | .phys p v => Target.phys (p + (x.1.g - e.g)) v
              | .remote q a v => Target.remote q (a + (x.1.g - e.g)) v
            addAccess s (storeAccess core str ctx launch d t' [x])) s
        else addAccess s (storeAccess core str ctx launch d t es)) s

end Sys2Proof.Machine
end

