-- ==== Sys2Proof/Machine/Ops.lean ====
section
/-! DEFINITION. The operations that many commands share: queue states and completions (12), cores and launches (R394, R395),
failing plans (R457), and taking a fault as ONE operation (R91 to R94, R360, R600). -/

namespace Sys2Proof.Machine

/-! ## Queues -/

/-- The STATE code of R399. -/
def QState.code : QState → Nat
  | .disabled => 0 | .idle => 1 | .active => 2 | .waiting => 3 | .halted => 4 | .stopped => 5 | .frozen => 6

/-- The queue state record (R399). -/
def Queue.image (q : Queue) : BitVec 512 :=
  at_ 512 384 q.lastProgress ||| at_ 512 320 q.coreCycles ||| at_ 512 256 q.blksRetired ||| at_ 512 192 q.cmdsRetired |||
  at_ 512 128 q.lastFailPos.toNat ||| at_ 512 112 q.lastFail.toNat ||| at_ 512 96 q.state.code |||
  at_ 512 64 q.observed.toNat ||| at_ 512 32 q.retiredPos.toNat ||| at_ 512 0 q.readPos.toNat

/-- Desk-clock cycles, 1,200 in a microsecond, from the start of the time base (R398). -/
def clockOf (ns : Nat) : Nat := ns * 12 / 10

/-- Charge the core's time since the launch's first block to the ledgers (R398, R401). -/
def chargeCore (s : State) (c : Nat) : State :=
  match (s.core c).since, (s.core c).work.launch.bind s.launch with
  | some since, some l =>
    let cyc := clockOf s.power.now - clockOf since
    let s := s.modCtx l.ctx fun x => { x with coreCycles := satAdd 64 x.coreCycles cyc }
    let s := s.modQueue l.queue fun q => { q with coreCycles := satAdd 64 q.coreCycles cyc }
    let s := if l.serving then
        s.modSlot (s.queue l.queue).slot fun x => { x with usedNow := satAdd 32 x.usedNow (s.power.now / 1000 - since / 1000) } else s
    s.modCore c fun k => { k with since := some s.power.now }
  | _, _ => s

/-- t_k+1 of the running Steep: a period after t_k, or the first aligned value from there on (R364, R367). -/
def boundaryDue (d : Desk) : Nat :=
  let p := 1000 * d.periodUs
  let base := d.steepStart + p
  if d.align ∧ p ≠ 0 then base + (d.phaseNs % p + p - base % p) % p else base

/-- Whether the time base has reached t_k+1, while that boundary has not been acted on yet (R365). -/
def boundaryPassed (s : State) : Bool := s.power.devState == .running && decide (boundaryDue s.desk ≤ s.power.now)

/-- The number of the Steep that holds the present time (R365). -/
def steepNow (s : State) : Nat :=
  if boundaryPassed s then s.desk.steepNumber + 1 + (s.power.now - boundaryDue s.desk) / (1000 * s.desk.periodUs)
  else s.desk.steepNumber

/-- A ledger of context `ctx` advanced now (R365, R396, R398). -/
def noteProgress (s : State) (ctx : Nat) : State :=
  let late := boundaryPassed s
  s.modCtx ctx fun x => { x with lastProgress := steepNow s, moved := x.moved || !late, movedNext := x.movedNext || late }

/-- Charge the cores that hold launches of queue `n`. -/
def chargeQueue (s : State) (n : Nat) : State :=
  (keysOf s.cores).foldl (fun s c =>
    if ((s.core c).work.launch.bind s.launch).any (·.queue == n) then chargeCore s c else s) s

/-! ## Waiting for a page (R351, R352) -/

/-- The leaf of a migrating page with MIGRATING set or clear (R352). -/
def setMigrating (s : State) (ctx page : Nat) (b : Bool) : State :=
  rewriteLeaves s ctx fun l => some (if l.va / 65536 = page ∧ leafKind l.word = 3 then { l with word := setBit l.word 7 b } else l)

/-- Set migration record `r`. -/
def setRecord (s : State) (r : Nat) (m : MigRec) : State :=
  { s with xlat := { s.xlat with records := oput s.xlat.records r (some m) } }

/-- Free migration record `r`. -/
def freeRecord (s : State) (r : Nat) : State :=
  { s with xlat := { s.xlat with records := oput s.xlat.records r none } }

/-- The record with the key of a page. -/
def recordOf (s : State) (ctx page : Nat) : Option (Nat × MigRec) :=
  (olist s.xlat.records).find? fun e => e.2.ctx == ctx && e.2.page == page

/-- The lowest free record. -/
def freeSlotOf (s : State) : Option Nat := firstBelow 256 fun r => (oget s.xlat.records r).isNone

/-- Whether an access that raises a translation fault must first wait: for the record with its key, or for a free one (R351). -/
def faultWaits (s : State) (ctx va : Nat) : Bool := (recordOf s ctx (va / 65536)).isSome || (freeSlotOf s).isNone

/-- How an engine comes to wait for a host-resident page. -/
inductive Joined where
  /-- It is queued on a record. -/
  | queued (r : Nat)
  /-- Every record is busy: it tries again. -/
  | busy
  /-- The session is not open: the migration has failed (R352, R354). -/
  | failed (info : FaultInfo)
  deriving DecidableEq, Repr

/-- An engine needs the host-resident page `page` of a context: it joins the record of the page or takes a free one, which
sends the migration request (R351, R352). -/
def joinRecord (s : State) (ctx page : Nat) (w : Waiter) (info : FaultInfo) : Joined × State :=
  match recordOf s ctx page with
  | some (r, m) => (.queued r, if m.queue.contains w then s else setRecord s r { m with queue := m.queue ++ [w] })
  | none => match freeSlotOf s with
    | none => (.busy, s)
    | some r =>
      let info := { info with ctx := ctx, status := Code.translationFault, va := some (page * 65536) }
      let s := setMigrating s ctx page true
      match s.session (s.ctx ctx).migSession with
      | none => (.failed info, s)
      | some _ =>
        let s := setRecord s r { ctx := ctx, page := page, queue := [w], first := info, stage := .awaiting }
        (.queued r, smtSend s (s.ctx ctx).migSession (OutMsg.plain 0x30 Code.success 0
          (BitVec.ofNat 64 (page ||| r <<< 40 ||| ctx <<< 48))))

/-! ## Queue state records (R399, R606) -/

/-- Write a queue's state record through its context. On a host-resident page the write waits for the migration; where the page
cannot be written it is dropped (R399, R606). -/
def writeRecord (s : State) (n : Nat) : State :=
  let s := chargeQueue s n
  let q := s.queue n
  if (s.ctx q.ctx).state ≠ .live then s else
  let s := lookUp s .desk q.ctx q.record
  match translate s .desk q.ctx q.record .write with
  | .ok (l, .phys pa dev) =>
    match regionOf pa with
    | .control => if pa = ctlRecord then { s with desk := { s.desk with record0 := q.image } } else s
    | .dram => match physWrite (noteWrite s q.ctx q.record l) pa (leBytes 64 q.image.toNat) (fun _ => false) 0 dev with
      | .ok s => s
      | .error _ => s
    | _ => s
  | .error (.migrate page) =>
    let info : FaultInfo := { ctx := q.ctx, status := 0, kind := 3, unit := 0, core := 0, slot := 0, lane := none, queue := n, pos := 0,
                              pc := 0, va := none, pa := none }
    match joinRecord s q.ctx page (.record n) info with
    | (.failed _, _) => s
    | (_, s) => s
  | _ => s

/-- Change a queue's STATE: a queue event on HALTED and STOPPED, and the state record (R385, R399, R422). -/
def setQState (s : State) (n : Nat) (st : QState) : State :=
  if (s.queue n).state = st then s else
  let s := s.modQueue n fun q => { q with state := st }
  let s := if st = .halted ∨ st = .stopped then
      sendEvent s (s.queue n).session 1 n (s.queue n).lastFail (leBytes 64 (s.queue n).image.toNat) else s
  writeRecord s n

/-- RETIRED_POS: the oldest packet that has not completed (R372). -/
def Queue.oldest (q : Queue) : Word :=
  let poss := q.opened.map (·.pos) ++ (q.wait.map (·.pos)).toList ++ q.cur.map (·.pos)
  q.readPos - BitVec.ofNat 32 (poss.foldl (fun m p => Nat.max m ((q.readPos - BitVec.ofNat 32 p).toNat)) 0)

/-- Close the command at position `pos` of queue `n`. -/
def closeCmd (s : State) (n pos : Nat) : State :=
  s.modQueue n fun q =>
    let q := { q with opened := q.opened.filter (·.pos != pos), wait := q.wait.filter (·.pos != pos),
                      cur := q.cur.filter (·.pos != pos), copies := q.copies.filter (·.pos != pos) }
    { q with retiredPos := q.oldest }

/-- Record a failure in the queue's state record fields (R399). -/
def noteFail (s : State) (n pos : Nat) (st : Status) : State :=
  s.modQueue n fun q => { q with lastFailPos := BitVec.ofNat 32 pos, lastFail := st }

/-- The command's signal, when SIG_EN = 1; a failed signal is recorded (R378). -/
def signalCmd (s : State) (n pos : Nat) (p : BitVec 512) (st : Status) : State :=
  if !bit p 10 then s else
  let ctx := (s.queue n).ctx
  let r := tallySignal s (bit p 11) (fld p 16 16) (fld p 64 63) ctx (tenantOf s ctx) st
  if r.1 = Code.success then r.2 else noteFail r.2 n pos r.1

/-- Whether a command of queue `n` that ends now has overrun: its stamp lies beyond its Steep, whose boundary ends it (R365,
R397). -/
def stampedLate (s : State) (n : Nat) : Bool := (s.queue n).cls == .serving && boundaryPassed s

/-- A command completes with a status: it signals, retires and is counted (R378, R398). One that has overrun stays open for the
boundary (R397). -/
def completeCmd (s : State) (n pos : Nat) (p : BitVec 512) (st : Status) : State :=
  if stampedLate s n then s else
  let s := if st = Code.success then s else noteFail s n pos st
  let s := signalCmd s n pos p st
  let s := s.modQueue n fun q => { q with cmdsRetired := satAdd 64 q.cmdsRetired 1, lastProgress := steepNow s }
  let s := noteProgress (s.modCtx (s.queue n).ctx fun c => { c with cmdsRetired := satAdd 64 c.cmdsRetired 1 }) (s.queue n).ctx
  closeCmd s n pos

/-- Queues of a context that are not DISABLED, ascending. -/
def queuesOf (s : State) (ctx : Nat) : List Nat :=
  (s.desk.queues.filter fun e => e.2.ctx == ctx && e.2.state != .disabled).map (·.1)

/-- Every queue of a context becomes STOPPED; what was pre-decoded and not dispatched is discarded (R360, R385, R387). -/
def stopQueues (s : State) (ctx : Nat) : State :=
  (queuesOf s ctx).foldl (fun s n => setQState (s.modQueue n fun q => { q with pre := [], copies := [] }) n .stopped) s

/-! ## Launches and cores -/

/-- BLOCK_THREADS. -/
def Launch.threads (l : Launch) : Nat := fld l.desc 128 11

/-- REGS_PER_THREAD. -/
def Launch.regs (l : Launch) : Nat := fld l.desc 144 9

/-- LS_PER_BLOCK_KIB. -/
def Launch.lsPer (l : Launch) : Nat := fld l.desc 176 9

/-- SPILL_DEPTH. -/
def Launch.spill (l : Launch) : Nat := fld l.desc 192 6

/-- SUBNORMAL_MODE. -/
def Launch.subnormal (l : Launch) : Nat := fld l.desc 198 2

/-- DEV_BAR_COUNT. -/
def Launch.devBars (l : Launch) : Nat := fld l.desc 208 7

/-- Groups of a block (R59). -/
def Launch.groupsPer (l : Launch) : Nat := (l.threads + 31) / 32

/-- ls_blk of R73. -/
def Launch.lsBlk (l : Launch) : Nat := l.lsPer * 1024 + l.groupsPer * l.spill * 32

/-- Groups per quadrant (R73). -/
def Launch.perQuad (l : Launch) : Nat := Nat.min 16 (512 / l.regs)

/-- Blocks per core (R73). -/
def Launch.blocksPer (l : Launch) : Nat :=
  let g := 4 * l.perQuad / l.groupsPer
  let b := if l.lsBlk = 0 then 32 else l.lsKib * 1024 / l.lsBlk
  Nat.min (Nat.min g b) 32

/-- Blocks of the grid (R382). -/
def Launch.blocks (l : Launch) : Nat := (fld l.desc 64 16 + 1) * (fld l.desc 80 16 + 1) * (fld l.desc 96 16 + 1)

/-- Most cores that the launch may hold (R394). -/
def Launch.limit (l : Launch) : Nat := if fld l.desc 216 9 = 0 then 384 else fld l.desc 216 9

/-- Floor cores (R391). -/
def isFloor (s : State) (c : Nat) : Bool := 32 - s.desk.floorShare ≤ c % 32

/-- Whether a core may be given to a launch: free, in placement, its domain running. -/
def coreFree (s : State) (c : Nat) : Bool :=
  (s.core c).work.launch.isNone && !(s.core c).held && clusterUp s (c / 16)

/-- Whether work of launch `n` is saved on a core. -/
def Core.hasSaved (k : Core) (n : Nat) : Bool := k.saved.any (·.launch == some n)

/-- Whether a launch's queue is FROZEN, so that no core may be given to it (R467). -/
def launchFrozen (s : State) (l : Launch) : Bool := (s.queue l.queue).state == .frozen

/-- The free cores, ascending. -/
def freeCores (s : State) : List Nat := below coreCount (coreFree s)

/-- Cores that a launch holds or is about to receive. -/
def coresOf (s : State) (n : Nat) (l : Launch) : Nat :=
  l.cores.length + (s.cores.filter fun c => c.2.takenFor == some n).length

/-- Whether a launch can still take a core. -/
def wantsCore (s : State) (n : Nat) (l : Launch) : Bool := !l.ended && decide (l.next < l.blocks) && decide (coresOf s n l < l.limit)

/-- Cores that hold all blocks of a launch at once (R329). -/
def Launch.need (l : Launch) : Nat := cdiv l.blocks l.blocksPer

/-- Whether a launch waits for all the cores that it needs at once (R329). -/
def Launch.together (l : Launch) : Bool := l.devBars != 0 && !l.started

/-- The lowest `k` unbound channels, when there are as many (R328). -/
def unboundChannels (s : State) (k : Nat) : Option (List Nat) :=
  let cs := below 64 fun c => (oget s.hub.channels c).isNone
  if k ≤ cs.length then some (cs.take k) else none

/-- Bind a launch's channels in ascending order (R328). -/
def bindChannels (s : State) (n : Nat) (cs : List Nat) : State :=
  let chans := (cs.zipIdx).foldl (fun m e => oput m e.1 (some (Channel.mk n e.2))) s.hub.channels
  let s : State := { s with hub := { s.hub with channels := chans } }
  s.setLaunch n ((s.launch n).map fun (l : Launch) => { l with channels := cs, started := true })

/-- Whether a launch has started, or can start now: its channels are bound (R328). -/
def startLaunch (s : State) (n : Nat) : Option State :=
  match s.launch n with
  | none => none
  | some l => if l.started then some s else
    if l.devBars = 0 then some (s.setLaunch n (some { l with started := true }))
    else (unboundChannels s l.devBars).map fun cs => bindChannels s n cs

/-- Give core `c` to launch `n`. -/
def giveCore (s : State) (n c : Nat) : State :=
  let s := s.modCore c fun k => { k with work := { k.work with launch := some n }, takenFor := none }
  s.setLaunch n ((s.launch n).map fun (l : Launch) => { l with cores := l.cores ++ [c] })

/-- A core that a launch has left: the bytes of its local store stay (R240). -/
def CoreWork.left (w : CoreWork) : CoreWork := { CoreWork.empty with ls := w.ls, lsPoison := w.lsPoison }

/-- Stop what a launch does on core `c`, with a save; a restore in progress is undone (R95). -/
def stopCore (s : State) (c : Nat) : State :=
  match (s.core c).work.launch with
  | none => s
  | some n =>
    match (s.core c).stage with
    | .running => s.modCore c fun k => { k with stage := .saving }
    | .restoring =>
      let s := s.modCore c fun k => { k with stage := .running, work := k.work.left }
      s.setLaunch n ((s.launch n).map fun (l : Launch) => { l with cores := l.cores.filter (· != c) })
    | _ => s

/-- Take core `c` from its launch for the serving launch `n` (R394); a launch with bound channels stops on all its cores (R333). -/
def stopForServing (s : State) (n c : Nat) : State :=
  let away := match (s.core c).work.launch.bind s.launch with
    | some l => if l.channels = [] then [c] else l.cores
    | none => [c]
  let s := away.foldl stopCore s
  if (s.core c).work.launch = none then giveCore s n c else s.modCore c fun k => { k with takenFor := some n }

/-- Whether a core's launch can be stopped there: it runs, or its restore is in progress. -/
def mayStop (k : Core) : Bool := k.stage == .running || k.stage == .restoring

/-- Grant cores to a serving launch: free cores first, then cores of loaned and kernel launches (R394). -/
def grantServing (s : State) (n : Nat) : State :=
  match s.launch n with
  | none => s
  | some l =>
    let free := (freeCores s).filter fun c => !isFloor s c
    let take := below coreCount fun c => !isFloor s c && !(s.core c).held && (s.core c).takenFor.isNone &&
      mayStop (s.core c) && ((s.core c).work.launch.bind s.launch).any (!·.serving)
    if l.together ∧ Nat.min l.limit (free.length + take.length) < l.need then s else
    match startLaunch s n with
    | none => s
    | some s =>
      let s := free.foldl (fun s c => if (s.launch n).any (wantsCore s n) then giveCore s n c else s) s
      take.foldl (fun s c => if (s.launch n).any (wantsCore s n) && (s.core c).takenFor.isNone && mayStop (s.core c)
        then stopForServing s n c else s) s

/-- The launch stopped on core `c` that may resume there: on a floor core none but the promoted context's, while one exists
(R395, R97). -/
def stoppedOn (s : State) (c : Nat) : Option (Nat × Launch) :=
  (s.core c).saved.findSome? fun w => w.launch.bind fun n => ((s.launch n).filter fun l =>
    !launchFrozen s l && !(isFloor s c && s.desk.promotedCtx != 0xFFFF && l.ctx != s.desk.promotedCtx)).map fun l => (n, l)

/-- Whether ring position `pos` of a queue has been admitted. -/
def Queue.isAdmitted (q : Queue) (pos : Word) : Bool :=
  pos != q.admitPos && decide ((q.admitPos - pos).toNat < 2 ^ 31)

/-- Whether a serving queue has an admitted packet that it can dispatch now: the fill waits for it (R393). -/
def servingDue (s : State) : Bool :=
  s.desk.queues.any fun e =>
    let q := e.2
    q.cls == .serving && (q.state == .active || q.state == .idle) &&
    (match q.cur with
      | f :: _ => q.isAdmitted (BitVec.ofNat 32 f.pos) && (!bit f.packet 9 || q.opened.isEmpty)
      | [] => q.isAdmitted q.readPos)

/-- Whether the fill may give core `c` to a launch that is not stopped there (R395). -/
def openTo (s : State) (l : Launch) (c : Nat) : Bool :=
  coreFree s c && (stoppedOn s c).isNone &&
  (if isFloor s c then s.desk.promotedCtx == 0xFFFF || l.ctx == s.desk.promotedCtx else !servingDue s)

/-- The cores that the fill may give to a launch, ascending. -/
def openCores (s : State) (l : Launch) : List Nat := below coreCount (openTo s l)

/-- The dispatched launches of a class of queue that can take a core, by number: one with barrier channels only when channels are
unbound and all its blocks fit at once (R328, R329). -/
def candidates (s : State) (p : Queue → Bool) : List (Nat × Launch) :=
  (olist s.desk.launches).filter fun e => !e.2.serving && !launchFrozen s e.2 && wantsCore s e.1 e.2 && p (s.queue e.2.queue) &&
    (!e.2.together || ((unboundChannels s e.2.devBars).isSome && decide (e.2.need ≤ e.2.limit) &&
      decide (e.2.need ≤ (openCores s e.2).length)))

/-- The kernel-queue launch that comes next: ascending queue number, then dispatch order (R395). -/
def nextKernel (s : State) : Option Nat :=
  ((candidates s fun q => q.cls == .kernel).foldl (fun (b : Option (Nat × Launch)) e => match b with
    | some x => if (e.2.queue, e.1).1 < x.2.queue then some e else some x
    | none => some e) none).map (·.1)

/-- The loan launch that comes next: round-robin after the queue that last received a core (R395). -/
def nextLoan (s : State) (p : Launch → Bool) : Option Nat :=
  let key (l : Launch) : Nat := (l.queue + 4096 - (s.desk.rrLoan + 1) % 4096) % 4096
  (((candidates s fun q => q.cls == .loan).filter fun e => p e.2).foldl (fun (b : Option (Nat × Launch)) e => match b with
    | some x => if key e.2 < key x.2 then some e else some x
    | none => some e) none).map (·.1)

/-- Give a free core to launch `n`, starting it if it must start; a launch with channels receives every core that it needs
at once, the lowest that the fill may give it (R329). -/
def giveFill (s : State) (n c : Nat) : State :=
  match s.launch n, startLaunch s n with
  | some l, some t =>
    let cs := if l.together then (openCores s l).take l.need else [c]
    let t : State := if (t.queue l.queue).cls = .loan then { t with desk := { t.desk with rrLoan := l.queue } } else t
    cs.foldl (fun t c => giveCore t n c) t
  | _, _ => s

/-- Begin the restore of the launch stopped on a free core (R97). -/
def beginRestore (s : State) (c n : Nat) : State :=
  let s := s.modCore c fun k => { k with stage := .restoring, work := { k.work with launch := some n } }
  s.setLaunch n ((s.launch n).map fun (l : Launch) => { l with cores := l.cores ++ [c] })

/-- Resume the launch stopped on core `c`; one whose channels were unbound waits for channels and for all its cores, and resumes
on them together (R328, R333, R486). -/
def resumeOn (s : State) (c n : Nat) (l : Launch) : State :=
  if l.devBars = 0 ∨ l.channels ≠ [] then beginRestore s c n else
  let cs := below coreCount fun d => (s.core d).hasSaved n
  match unboundChannels s l.devBars with
  | none => s
  | some chans =>
    if cs.all (coreFree s) then cs.foldl (fun s d => beginRestore s d n) (bindChannels s n chans) else s

/-- CORE_GRANT for one free core with no serving launch waiting (R395). -/
def fillCore (s : State) (c : Nat) : State :=
  if !coreFree s c || (!isFloor s c && servingDue s) then s else
  match stoppedOn s c with
  | some (n, l) => resumeOn s c n l
  | none =>
    let pick := if isFloor s c then
        if s.desk.promotedCtx ≠ 0xFFFF then nextLoan s fun l => l.ctx == s.desk.promotedCtx
        else (nextLoan s fun _ => true).or (nextKernel s)
      else (nextKernel s).or (nextLoan s fun _ => true)
    match pick with
    | some n => giveFill s n c
    | none => s

/-- The place of a serving launch in admission order: boundaries in turn, at each the slots ascending, in each its queue's order. -/
def admissionKey (s : State) (e : Nat × Launch) : Nat × Nat × Nat := (e.2.steep, (s.queue e.2.queue).slot, e.1)

/-- Whether one admission key comes before another. -/
def keyBefore (a b : Nat × Nat × Nat) : Bool :=
  decide (a.1 < b.1) || (a.1 == b.1 && (decide (a.2.1 < b.2.1) || (a.2.1 == b.2.1 && decide (a.2.2 < b.2.2))))

/-- The serving launches that can take a core, in admission order. -/
def servingOrder (s : State) : List Nat :=
  (((olist s.desk.launches).filter fun e => e.2.serving && !launchFrozen s e.2 && wantsCore s e.1 e.2).foldl
    (fun acc e => acc.takeWhile (fun x => !keyBefore (admissionKey s e) (admissionKey s x)) ++ e ::
      acc.dropWhile fun x => !keyBefore (admissionKey s e) (admissionKey s x)) []).map (·.1)

/-- Grant cores to serving launches in admission order, then fill (R393 to R395). -/
def grantCores (s : State) : State :=
  let s := (servingOrder s).foldl grantServing s
  if (olist s.desk.launches).isEmpty then s else (freeCores s).foldl fillCore s

/-- A serving queue has moved on: the fill may have waited for it (R393). -/
def refill (s : State) (n : Nat) : State := if (s.queue n).cls = .serving then grantCores s else s

/-- Drop the reserved granules that no thread holds any more. -/
def pruneGranules (s : State) : State :=
  (keysOf s.clusters).foldl (fun s n =>
    if (s.cluster n).granules = [] then s else
    s.modCluster n fun c => { c with granules := c.granules.filter (granuleHeld s) }) s

/-- Core `c` issues nothing more for its launch: watches and wakes of its groups go, reservations are cleared, its streamers
discard their work; what was issued completes or fails (R93, R124, R228, R305, R324). -/
def haltCore (s : State) (c : Nat) : State :=
  let mine (k : WatchKind) : Bool := match k with | .group d _ => d == c | _ => false
  let s := dropWakes (removeWatches s fun w => mine w.kind) mine
  let s : State := { s with accesses := s.accesses.filter fun a => !(match a.engine with
    | .streamer d _ => d == c && a.kind == .load
    | _ => false) }
  s.modCore c fun k => { k with
    stage := .faulted, reuse := [], lastCost := [], portCost := [],
    work := { k.work with
      ts := [], groups := smap (fun _ => none) (fun _ (o : Option Group) => o.map fun (g : Group) => { g with res := [] }) k.work.groups } }

/-- Core `c` leaves its launch without a save; the bytes of its local store stay. -/
def freeCore (s : State) (c : Nat) : State :=
  (chargeCore s c).modCore c fun k => { k with work := k.work.left, stage := .running, since := none }

/-- An ended launch that holds no core is gone, and its channels are unbound (R332). -/
def dropEnded (s : State) (n : Nat) : State :=
  match s.launch n with
  | some l => if l.ended && l.cores.isEmpty then (unbindChannels s n).setLaunch n none else s
  | none => s

/-- End a launch without a save: its saved blocks are discarded, its cores stop issue and become free once what they issued has
completed or failed (R305, R332, R360, R361, R397; LAUNCH_STOP_SAVE_COMPLETE, LOG 131). -/
def discardLaunch (s : State) (n : Nat) : State :=
  let s := (keysOf s.cores).foldl (fun s c =>
    let s := if (s.core c).work.launch = some n then haltCore s c else s
    let s := if (s.core c).takenFor = some n then s.modCore c fun k => { k with takenFor := none } else s
    if (s.core c).hasSaved n then s.modCore c fun k => { k with saved := k.saved.filter (·.launch != some n) } else s) s
  dropEnded ((pruneGranules s).setLaunch n ((s.launch n).map fun (l : Launch) => { l with ended := true })) n

/-- The launches of a context. -/
def launchesOf (s : State) (ctx : Nat) : List Nat :=
  ((olist s.desk.launches).filter fun e => e.2.ctx == ctx).map (·.1)

/-! ## Plans (R439, R443, R457) -/

/-- CONTEXT of a plan. -/
def Plan.ctx (p : Plan) : Nat := fld p.raw 80 10

/-- KIND of a plan. -/
def Plan.kind (p : Plan) : Nat := fld p.raw 0 2

/-- NEXT_PEER of a plan. -/
def Plan.next (p : Plan) : Nat := fld p.raw 44 12

/-- PREV_PEER of a plan. -/
def Plan.prev (p : Plan) : Nat := fld p.raw 64 12

/-- CTRL_VA of a plan. -/
def Plan.ctrl (p : Plan) : Nat := fld p.raw 384 56

/-- Targets that a plan's own memory may name: DRAM of this device. -/
def planMayUse (t : Target) : Bool := match t with | .phys pa _ => regionOf pa == .dram | .remote _ _ _ => false

/-- Send ABORT for step `step` to the plan's NEXT_PEER (R450, R457). -/
def sendAbort (s : State) (n step : Nat) : State :=
  let p := s.plan n
  peerSend s p.next ((s.peer p.next).portFor 0)
    { OutFrame.plain 0x11 p.next (tenantOf s p.ctx) (fld p.raw 2 2) (BitVec.ofNat 32 step) with opx := BitVec.ofNat 8 n }

/-- Write what a failed plan reports: FAILED_STEP and STATUS where they are not yet written, then DONE with release. On a
host-resident page it stays to be written at a later poll (R443, R457). -/
def planReport (s : State) (n : Nat) : State :=
  let p := s.plan n
  let told := match p.report with
    | none => Except.ok s
    | some (step, st) => virtWrite s .central p.ctx (p.ctrl + 8) (leBytes 4 st.toNat ++ leBytes 4 step) planMayUse
  match told with
  | .error (.xlat (.migrate _) _, s) => s
  | .error (_, s) => s.modPlan n fun p => { p with report := none }
  | .ok s =>
    let s := s.modPlan n fun p => { p with report := none }
    match virtWrite s .central p.ctx (p.ctrl + 4) (leBytes 4 p.start) planMayUse with
    | .ok s => s
    | .error e => e.2

/-- A plan fails at a step: frames stop, ABORT goes out, the control block is written when `write` (R443, R457). -/
def planFail (s : State) (n step : Nat) (st : Status) (write : Bool) : State :=
  let s := s.modPlan n fun p =>
    { p with running := false, failed := true, step := step, tags := [], written := [],
             report := if write then some (step, st) else none }
  let s := { s with plans := { s.plans with failed := satAdd 64 s.plans.failed 1,
                                            staged := s.plans.staged.filter (·.plan != n) } }
  let s := sendAbort s n step
  if write then planReport s n else s

/-- The plans of a context that leaves LIVE fail their running step (R457). -/
def failPlansOf (s : State) (ctx : Nat) : State :=
  (keysOf s.plans.plans).foldl (fun s n =>
    if (s.plan n).running && (s.plan n).ctx == ctx then planFail s n (s.plan n).step Code.contextLost false else s) s

/-! ## Faults -/

/-- The 64 bytes of R600. -/
def faultImage (s : State) (f : FaultInfo) : BitVec 512 :=
  at_ 512 384 s.power.now ||| at_ 512 320 (steepNow s) |||
  (match f.pa with | some p => at_ 512 300 1 ||| at_ 512 256 p | none => 0) |||
  (match f.va with | some v => at_ 512 248 1 ||| at_ 512 192 (v % 2 ^ 56) | none => 0) |||
  at_ 512 128 (fld f.pc 0 56) ||| at_ 512 96 f.pos ||| at_ 512 80 f.queue |||
  (match f.lane with | some l => at_ 512 77 1 ||| at_ 512 72 l | none => 0) |||
  at_ 512 64 f.slot ||| at_ 512 48 f.core ||| at_ 512 44 f.unit ||| at_ 512 40 f.kind |||
  at_ 512 32 (tenantOf s f.ctx) ||| at_ 512 16 f.ctx ||| at_ 512 0 f.status.toNat

/-- The store tiles that a context's programs had produced when a fault was raised complete their writes (R228). -/
def flushStores (s : State) (ctx : Nat) : State :=
  (keysOf s.cores).foldl (fun s c =>
    match (s.core c).work.launch with
    | none => s
    | some n => match s.launch n with
      | none => s
      | some l => if l.ctx ≠ ctx then s else
        (List.range 4).foldl (fun s k => match (s.streamer c k).descs with
          | d :: _ => if d.isStore && d.stage == .running then
              let prod := Nat.min (Nat.max d.seen (d.counter s c 0)) d.tileCount
              ((List.range prod).drop d.tiles).foldl (fun s t => match issueStoreTile s c k ctx n d t with
                | .ok s => s
                | .error _ => s) s
            else s
          | [] => s) s) s

/-- R360 step 1: the context's first fault record, copied to its status entries; a LIVE context becomes LOST. -/
def recordFault (s : State) (f : FaultInfo) : State :=
  let img := faultImage s f
  s.modCtx f.ctx fun c =>
    { c with faultStatus := f.status, faultRecord := img, state := if c.state = .live then .lost else c.state }

/-- A fault in a context: the whole of R360. A context that has its record takes no further one (R42, R94). -/
def raiseFault (s : State) (f : FaultInfo) : State :=
  let live := (s.ctx f.ctx).state = .live
  if !(live || ((s.ctx f.ctx).state == .teardown && (s.ctx f.ctx).faultStatus == 0)) then s else
  let s := flushStores s f.ctx
  let s := recordFault s f
  let s := if live then stopQueues s f.ctx else s
  let s := failPlansOf s f.ctx
  let s := (launchesOf s f.ctx).foldl discardLaunch s
  let s := grantCores s
  sendEvent s (s.ctx f.ctx).migSession 2 f.ctx f.status (leBytes 64 (s.ctx f.ctx).faultRecord.toNat)

/-! ## Migration (R351 to R354) -/

/-- An engine needs a host-resident page; a migration that cannot be asked for fails at once (R351, R352, R354). -/
def joinMigration (s : State) (ctx page : Nat) (w : Waiter) (info : FaultInfo) : Joined × State :=
  match joinRecord s ctx page w info with
  | (.failed f, s) => (.failed f, raiseFault s f)
  | r => r

/-- The accesses queued on record `r` leave unperformed, and with them what their instructions have not yet sent or performed (R91,
R354). -/
def dropQueued (s : State) (r : Nat) : State :=
  let lost := s.accesses.filter fun a => a.stage == .migrating r
  let waiting (a : Access) : Bool := match a.stage with
    | .issued | .filling | .migrating _ | .retry => true
    | _ => false
  { s with accesses := s.accesses.filter fun a => !(waiting a && lost.any fun b => b.ins == a.ins && b.engine == a.engine) }

/-- A migration fails: every queued engine fails with "translation fault" and the record is freed (R354). -/
def migrationFail (s : State) (r : Nat) : State :=
  match oget s.xlat.records r with
  | none => s
  | some m => freeRecord (dropQueued (raiseFault s m.first) r) r

end Sys2Proof.Machine
end

