-- ==== Sys2Proof/Machine/Operands.lean ====
section
/-! DEFINITION. Register operands, guards, the reuse cache and the cost of an issue (R58 to R69, R99 to R105). -/

namespace Sys2Proof.Machine

/-- ZR (R101). -/
def ZR : BitVec 9 := 0x1FF

/-- A register field and the number of registers of its run (R102). -/
structure Use where
  code : BitVec 9
  n    : Nat
  deriving DecidableEq, Repr

/-- Whether a register field holds an allowed code at an allowed alignment (R101, R102). -/
def Use.ok (u : Use) : Bool := u.code == ZR || (u.code.toNat < 0x140 && u.code.toNat % u.n == 0)

/-- Whether a field names an s register or ZR (R104). -/
def Use.uni (u : Use) : Bool := 0x100 ≤ u.code.toNat

/-- Whether a code names an s register. -/
def isS (c : BitVec 9) : Bool := 0x100 ≤ c.toNat && c.toNat < 0x140

/-- Whether a code names a v register. -/
def isV (c : BitVec 9) : Bool := c.toNat < 0x100

/-- Whether a run stays below REGS_PER_THREAD (R64). -/
def Use.inRange (u : Use) (regs : Nat) : Bool := !isV u.code || u.code.toNat + u.n ≤ regs

/-- The register codes of a run, none for ZR. -/
def Use.regs (u : Use) : List Nat := if u.code = ZR then [] else (List.range u.n).map (u.code.toNat + ·)

/-- One register of a lane. -/
def Group.reg (g : Group) (lane code : Nat) : Word :=
  if code < 0x100 then sget (fun _ => 0) g.v (32 * code + lane)
  else if code < 0x140 then sget (fun _ => 0) g.u (code - 0x100) else 0

/-- Write one register of a lane; ZR discards (R101). -/
def Group.setReg (g : Group) (lane code : Nat) (v : Word) : Group :=
  if code < 0x100 then { g with v := sput (fun _ => 0) g.v (32 * code + lane) v }
  else if code < 0x140 then { g with u := sput (fun _ => 0) g.u (code - 0x100) v } else g

/-- A run of registers of a lane as one number, the low register in the low bits (R102). -/
def Group.run (g : Group) (lane : Nat) (u : Use) : Nat :=
  if u.code = ZR then 0 else
  (List.range u.n).foldl (fun a i => a ||| (g.reg lane (u.code.toNat + i)).toNat <<< (32 * i)) 0

/-- Write a run of registers of a lane. -/
def Group.setRun (g : Group) (lane : Nat) (u : Use) (v : Nat) : Group :=
  if u.code = ZR then g else
  (List.range u.n).foldl (fun g i => g.setReg lane (u.code.toNat + i) (BitVec.ofNat 32 (v >>> (32 * i)))) g

/-- Predicate `i` of a lane. -/
def Group.pred (g : Group) (lane i : Nat) : Bool := bit (sget (fun _ => 0) g.p lane) i

/-- Write predicate `i` of a lane. -/
def Group.setPred (g : Group) (lane i : Nat) (b : Bool) : Group :=
  { g with p := sput (fun _ => 0) g.p lane (setBit (sget (fun _ => 0) g.p lane) i b) }

/-- Whether a lane passes the guard (R100). -/
def Group.passes (g : Group) (gd : Guard) (lane : Nat) : Bool :=
  !gd.en || (g.pred lane gd.pred.toNat != gd.neg)

/-- The lanes that act: active and passing the guard (R100). -/
def Group.acting (g : Group) (gd : Guard) : Word := maskOf ((lanesOf g.active).filter (g.passes gd))

/-- Set sticky flags (R112, R165). -/
def Group.raiseFlags (g : Group) (f : BitVec 5) : Group := { g with flags := g.flags ||| f }

/-! ## The reuse cache and issue cycles (R65 to R69) -/

/-- The v registers that an instruction reads, each once (R65). -/
def readsOf (srcs : List (Use × Bool)) : List Nat :=
  ((srcs.flatMap fun u => u.1.regs).filter (· < 0x100)).eraseDups

/-- Issue cycles: one, and one more for each further register in a bank that is already used (R65). -/
def issueCycles (regs : List Nat) : Nat :=
  1 + ([0, 1, 2, 3].map fun b => (regs.filter (· % 4 == b)).length - 1).sum

/-- Keep the registers whose reuse bit is set, overwriting the oldest of eight entries (R66, R67). -/
def reuseFill (es : List (Nat × Nat)) (slot : Nat) (regs : List Nat) : List (Nat × Nat) :=
  regs.foldl (fun es r => if es.contains (slot, r) then es else
    (if es.length < 8 then es else es.drop 1) ++ [(slot, r)]) es

/-- Drop the entries of registers that are written (R68). -/
def reuseDrop (es : List (Nat × Nat)) (slot : Nat) (regs : List Nat) : List (Nat × Nat) :=
  es.filter fun e => !(e.1 == slot && regs.contains e.2)

/-- The reuse entries of a quadrant. -/
def Core.reuseOf (c : Core) (quad : Nat) : List (Nat × Nat) := sget (fun _ => []) c.reuse quad

/-- Set the reuse entries of a quadrant. -/
def Core.setReuse (c : Core) (quad : Nat) (es : List (Nat × Nat)) : Core :=
  { c with reuse := sput (fun _ => []) c.reuse quad es }

/-- Account one issue: its cycles and the reuse cache before and after its writes (R65 to R68). -/
def accountIssue (s : State) (c quad slot : Nat) (srcs : List (Use × Bool)) (dsts : List Use) : State :=
  s.modCore c fun k =>
    let es := k.reuseOf quad
    let cycles := issueCycles ((readsOf srcs).filter fun r => !es.contains (slot, r))
    let es := reuseFill es slot (readsOf (srcs.filter (·.2)))
    let es := reuseDrop es slot (dsts.flatMap Use.regs)
    { k.setReuse quad es with lastCost := sput (fun _ => 0) k.lastCost quad cycles }

/-- Drop every entry of a group (R68). -/
def reuseForget (s : State) (c quad slot : Nat) : State :=
  s.modCore c fun k => k.setReuse quad ((k.reuseOf quad).filter (·.1 != slot))

/-- Record the port cycles of a memory instruction (R89, R90). -/
def setCost (s : State) (c quad n : Nat) : State :=
  s.modCore c fun k => { k with portCost := sput (fun _ => 0) k.portCost quad n }

end Sys2Proof.Machine
end

