-- ==== Sys2Proof/Machine/Group.lean ====
section
/-! DEFINITION. The issue of one instruction of a group: readiness, fetch, the checks of R98 to R107, exceptions, the program
counter and reconvergence (03_cores_and_thread_groups.md). -/

namespace Sys2Proof.Machine

/-! ## The reconvergence stack (R77 to R83) -/

/-- The 32 bytes of a spilled entry (R83). -/
def StackEntry.image (e : StackEntry) : BitVec 256 :=
  at_ 256 160 e.savedMask.toNat ||| at_ 256 128 e.pendingMask.toNat ||| at_ 256 64 (fld e.pendingPc 0 56) ||| at_ 256 0 (fld e.rpc 0 56)

/-- A spilled entry read back (R83). -/
def StackEntry.ofImage (x : BitVec 256) : StackEntry :=
  { rpc := BitVec.ofNat 64 (fld x 0 56), pendingPc := BitVec.ofNat 64 (fld x 64 56),
    pendingMask := BitVec.ofNat 32 (fld x 128 32), savedMask := BitVec.ofNat 32 (fld x 160 32) }

/-- The block of a group. -/
def blockOf (s : State) (c : Nat) (g : Group) : Option Block := oget (s.core c).work.blocks g.block

/-- Local-store offset of spilled entry `i` of a group (R239). -/
def spillAddr (s : State) (c : Nat) (g : Group) (l : Launch) (i : Nat) : Nat :=
  ((blockOf s c g).map (·.region)).getD 0 * l.lsBlk + l.lsPer * 1024 + (g.index * l.spill + i) * 32

/-- Every thread has exited. -/
def Group.done (g : Group) : Bool := g.exited == BitVec.allOnes 32

/-- Pop the top entry; the most recently spilled entry returns to the hardware stack (R81). -/
def popStack (s : State) (c k : Nat) (g : Group) (l : Launch) : State :=
  let rest := g.stack.drop 1
  if g.spilled = 0 then s.setGroup c k (some { g with stack := rest }) else
  let b := (lsRead s c (spillAddr s c g l (g.spilled - 1)) 32).bytes
  s.setGroup c k (some { g with stack := rest ++ [StackEntry.ofImage (BitVec.ofNat 256 (leNat b))], spilled := g.spilled - 1 })

/-- Push an entry; a full hardware stack spills its oldest entry; none when both are full (R81, R82). -/
def pushStack (s : State) (c k : Nat) (g : Group) (l : Launch) (e : StackEntry) : Option State :=
  if g.stack.length < 8 then some (s.setGroup c k (some { g with stack := e :: g.stack }))
  else if l.spill ≤ g.spilled then none
  else
    let old := (g.stack.getLast?).getD e
    let s := lsWrite s c (spillAddr s c g l g.spilled) (leBytes 32 old.image.toNat) fun _ => false
    some (s.setGroup c k (some { g with stack := e :: g.stack.dropLast, spilled := g.spilled + 1 }))

/-- Reconvergence, and skipping of paths whose mask is zero, until the program counter stands still (R78, R79). -/
def settle (c k : Nat) (l : Launch) : Nat → State → State
  | 0, s => s
  | n + 1, s =>
    match s.group c k with
    | none => s
    | some g => match g.stack with
      | [] => s
      | e :: rest =>
        if g.done then s
        else if g.pc = e.rpc ∨ g.active = 0 then
          if e.pendingMask ≠ 0 then
            settle c k l n (s.setGroup c k (some { g with active := e.pendingMask, pc := e.pendingPc,
                                                          stack := { e with pendingMask := 0 } :: rest }))
          else settle c k l n (popStack s c k { g with active := e.savedMask, pc := e.rpc } l)
        else s

/-- Enough rounds for every entry to be reached twice. -/
def settleFuel : Nat := 140

/-! ## Issue -/

/-- What an instruction sees when it issues. -/
structure Env where
  s    : State
  c    : Nat
  quad : Nat
  slot : Nat
  k    : Nat
  g    : Group
  n    : Nat
  l    : Launch

/-- An exception of an instruction (R92). -/
structure Trap where
  status : Status
  lane   : Option Nat
  va     : Option Nat
  pa     : Option Nat
  deriving DecidableEq, Repr

/-- An exception without lane or address. -/
def Trap.plain (st : Status) : Trap := { status := st, lane := none, va := none, pa := none }

/-- The fault record's view of a group's instruction at `pc` (R600). -/
def groupInfo (ctx c k : Nat) (pc : DWord) (t : Trap) : FaultInfo :=
  { ctx := ctx, status := t.status, kind := 0, unit := k / 16 % 4, core := c, slot := k % 16, lane := t.lane, queue := 0, pos := 0,
    pc := pc, va := t.va, pa := t.pa }

/-- Take an exception at the group's present instruction (R91, R93, R360). -/
def takeTrap (e : Env) (s : State) (t : Trap) : State := raiseFault s (groupInfo e.l.ctx e.c e.k e.g.pc t)

/-- Registers that an access will write when it completes (R70). -/
def Access.writes (a : Access) : List Nat :=
  let run (c : BitVec 9) (n : Nat) : List Nat := if c = ZR then [] else (List.range n).map (c.toNat + ·)
  match a.kind with
  | .load | .ldRes | .atomic _ _ => run a.dst (Nat.max 1 (a.size / 4))
  | .stCond => run a.dst2 1
  | .signal _ _ _ => run a.dst 1
  | _ => []

/-- Whether an access was issued by a group that is still resident. -/
def Access.by (a : Access) (c k n : Nat) : Bool := a.engine == .group c k && a.launch == n

/-- The registers with a pending write (R70). -/
def pendingRegs (s : State) (c k n : Nat) : List Nat :=
  (s.accesses.filter fun a => a.by c k n && !(match a.stage with | .failed _ => true | _ => false)).flatMap Access.writes

/-- Whether every block of a launch is resident: placed, with nothing of it saved or still being restored (R329, R333). -/
def allHome (s : State) (n : Nat) (l : Launch) : Bool :=
  l.next == l.blocks && l.cores.all (fun c => (s.core c).stage == .running) && !s.cores.any fun c => c.2.hasSaved n

/-- The group that a command names, when it is resident and could issue: not exited, not waiting, its core running, and every
block of a launch with barrier channels resident (R70, R93, R329, R333). -/
def ready? (s : State) (r : GroupRef) : Option Env :=
  if r.core < coreCount ∧ r.quad < 4 ∧ r.slot < 16 ∧ clusterUp s (r.core / 16) ∧ (s.core r.core).stage = .running then
    match s.group r.core (gkey r) with
    | none => none
    | some g => match s.launch g.launch with
      | none => none
      | some l =>
        if g.wait = .ready ∧ !g.done ∧ (l.devBars = 0 ∨ allHome s g.launch l) then
          some { s := s, c := r.core, quad := r.quad, slot := r.slot, k := gkey r, g := g, n := g.launch, l := l }
        else none
  else none

/-- How a register field of the R format is used. -/
inductive Role where
  | unused
  | reg (n : Nat)
  /-- A source field that receives a result (R134). -/
  | wreg (n : Nat)
  /-- A predicate number (R115). -/
  | pred
  /-- A field that must hold ZR (R134, R136). -/
  | zr
  /-- A field that holds a number (R111). -/
  | raw
  deriving DecidableEq, Repr

/-- An instruction as the checks of R101 to R105 see it. -/
structure Form where
  guard   : Guard
  dsts    : List Use
  srcs    : List (Use × Bool)
  legal   : Bool
  uniform : Bool

/-- Whether a field and its reuse bit are allowed for a role (R101 to R103). -/
def Role.ok (r : Role) (code : BitVec 9) (reuse : Bool) : Bool :=
  match r with
  | .unused => code == 0 && !reuse
  | .reg n => (Use.mk code n).ok
  | .wreg n => (Use.mk code n).ok && !reuse
  | .pred => code.toNat < 8 && !reuse
  | .zr => code == ZR && !reuse
  | .raw => !reuse

/-- The source that a role makes of a field. -/
def Role.src (r : Role) (code : BitVec 9) (reuse : Bool) : List (Use × Bool) :=
  match r with | .reg n => [(Use.mk code n, reuse)] | _ => []

/-- The destination that a role makes of a field. -/
def Role.dst (r : Role) (code : BitVec 9) : List Use :=
  match r with | .reg n | .wreg n => [Use.mk code n] | _ => []

/-- The form of an R-format instruction: the roles of DST, SRC_A, SRC_B and SRC_C, whether MOD is allowed, whether the
instruction is uniform (R104), and whether it requires GUARD_EN = 0 (R105). Whether GUARD_NEG and GUARD_PRED count as unused fields
while GUARD_EN = 0 R103 does not say: they may hold any value then, the model's choice (LOG 147). -/
def rForm (f : RFields) (d a b c : Role) (modOk uniform noGuard : Bool) : Form :=
  let w := match c with | .wreg _ => c.dst f.srcC | _ => []
  { guard := f.guard, dsts := d.dst f.dst ++ w,
    srcs := a.src f.srcA f.reuseA ++ b.src f.srcB f.reuseB ++ c.src f.srcC f.reuseC,
    legal := modOk && d.ok f.dst false && a.ok f.srcA f.reuseA && b.ok f.srcB f.reuseB && c.ok f.srcC f.reuseC &&
      !(noGuard && f.guard.en),
    uniform := uniform }

/-- TYPE of MOD. -/
def rTyp (f : RFields) : Nat := fld f.mod 0 4

/-- RM of MOD. -/
def rRm (f : RFields) : Nat := fld f.mod 4 3

/-- SAT of MOD. -/
def rSat (f : RFields) : Bool := bit f.mod 7

/-- OPX of MOD. -/
def rOpx (f : RFields) : Nat := fld f.mod 8 4

/-- Whether MOD read as TYPE, RM, SAT and OPX holds allowed values (R103). -/
def modStd (f : RFields) (types : List Nat) (rm sat : Bool) (opx : Nat) : Bool :=
  types.contains (rTyp f) && (if rm then decide (rRm f < 5) else rRm f == 0) && (sat || !rSat f) && rOpx f < opx

/-- Registers of an instruction with a pending earlier write (R70). -/
def hazard (e : Env) (i : Form) : Bool :=
  let used := (i.dsts ++ i.srcs.map (·.1)).flatMap Use.regs
  (pendingRegs e.s e.c e.k e.n).any used.contains

/-- What a fetch finds, and the state that its reads leave: the group goes on, takes an exception or does not issue
(R99, R345). -/
inductive FetchResult where
  | ok (s : State)
  | trap (s : State) (t : Trap)
  | wait (s : State)

/-- Read the sector of an instruction at its end point (R276, LOG 130): whether it is poisoned. -/
def fetchRead (s : State) (pa : Nat) (dev : Bool) : Bool × State :=
  let r := if dev then vaultGet s pa 8 else dramRead s pa 8 false
  (r.1.bad, r.2)

/-- Fetch the instruction at the program counter: alignment, an executable page, no poison; a host-resident page migrates
(R99, the exception table's first row), and a translation fault waits for a fault record (R351). -/
def fetchCheck (e : Env) : FetchResult :=
  let va := e.g.pc.toNat
  let bad (s : State) (st : Status) (pa : Option Nat) : FetchResult := .trap s { status := st, lane := none, va := some va, pa := pa }
  if va % 8 ≠ 0 ∨ 2 ^ 56 ≤ va then bad e.s Code.fetchFault none else
  let s := lookUp e.s (.core e.c) e.l.ctx va
  match translate s (.core e.c) e.l.ctx va .fetch with
  | .error .lost => .wait s
  | .error .fault => if faultWaits s e.l.ctx va then .wait s else bad s Code.fetchFault none
  | .error (.poison pa) => bad s Code.poisonConsumed (some pa)
  | .error (.migrate page) =>
    .wait (joinMigration s e.l.ctx page (.fetch e.c e.k) (groupInfo e.l.ctx e.c e.k e.g.pc (Trap.plain 0))).2
  | .ok (_, .phys pa dev) =>
    if regionOf pa ≠ .dram then .ok s else
    let r := fetchRead s pa dev
    if r.1 then bad r.2 Code.poisonConsumed (some (pa / 32 * 32)) else .ok r.2
  | .ok (_, .remote _ _ _) => bad s Code.fetchFault none

/-- The checks of R101 to R107 and R64 on a decoded instruction: illegal instruction before register range (R92). -/
def formTrap (e : Env) (i : Form) : Option Trap :=
  if !i.legal || (i.uniform && !((i.dsts ++ i.srcs.map (·.1)).all Use.uni)) then some (Trap.plain Code.illegalInstruction)
  else if !((i.dsts ++ i.srcs.map (·.1)).all fun u => u.inRange e.l.regs) then some (Trap.plain Code.registerRange)
  else none

/-- Issue one instruction of a group that needs a unit to accept it: nothing happens while it is not ready, which includes a unit
that is not `free` (R70, R72, R210); otherwise the first exception in the order of R92 is taken, or the instruction has its effect
in the state that the fetch leaves. -/
def issueTo (s : State) (r : GroupRef) (i : Form) (free : Env → Bool) (eff : Env → Except Trap State) : Out :=
  match ready? s r with
  | none => .next s
  | some e =>
    if hazard e i || !free e then .next s else
    match fetchCheck e with
    | .wait s => .next s
    | .trap s t => .next (takeTrap e s t)
    | .ok s =>
      let e := { e with s := s }
      match formTrap e i with
      | some t => .next (takeTrap e s t)
      | none => match eff e with
        | .error t => .next (takeTrap e s t)
        | .ok s => .next s

/-- Issue one instruction that needs no unit beyond its quadrant. -/
def issue (s : State) (r : GroupRef) (i : Form) (eff : Env → Except Trap State) : Out := issueTo s r i (fun _ => true) eff

/-- Account the issue and continue at `pc`, reconverging there (R65, R78, R98). -/
def goTo (e : Env) (i : Form) (s : State) (pc : DWord) : State :=
  let s := accountIssue s e.c e.quad e.slot i.srcs i.dsts
  settle e.c e.k e.l settleFuel (s.modGroup e.c e.k fun g => { g with pc := pc })

/-- Continue at the next instruction (R98). -/
def advance (e : Env) (i : Form) (s : State) : State := goTo e i s (e.g.pc + 8)

/-- The lanes that act (R100). -/
def Env.acts (e : Env) (i : Form) : List Nat := lanesOf (e.g.acting i.guard)

/-- Finish an instruction that changes only its group. -/
def withGroup (e : Env) (i : Form) (g : Group) : State := advance e i (e.s.setGroup e.c e.k (some g))

/-- The effect of an instruction that computes one result per acting lane, or once when uniform, with flags (R100, R105). `val`
is given the lane whose operands it reads. -/
def laneEffect (i : Form) (dst : Use) (val : Nat → Group → Nat × BitVec 5) (e : Env) : Except Trap State :=
  let ls := e.acts i
  let ls := if i.uniform then ls.take 1 else ls
  .ok (withGroup e i (ls.foldl (fun g l =>
    let r := val l e.g
    (g.setRun l dst r.1).raiseFlags r.2) e.g))

/-- The effect of an instruction that writes one predicate per acting lane. -/
def predEffect (i : Form) (p : Nat) (val : Nat → Group → Bool × BitVec 5) (e : Env) : Except Trap State :=
  .ok (withGroup e i ((e.acts i).foldl (fun g l =>
    let r := val l e.g
    (g.setPred l p r.1).raiseFlags r.2) e.g))

end Sys2Proof.Machine
end

