-- ==== Sys2Proof/Machine/Access.lean ====
section
/-! DEFINITION. Performing the accesses that cores have issued: order, end points, values, failures
(08_caches_and_local_store.md, 09_memory_ordering.md, R119 to R128, R413, R426). -/

namespace Sys2Proof.Machine

/-! ## Order -/

/-- Where a lane's piece of a device-type instruction stands: ascending lanes, then ascending addresses (R280). -/
def Access.piece (a : Access) : Nat := 4 * ((a.lanes.head?.map (·.lane)).getD 0) + a.part

/-- Program order of two accesses of one engine. -/
def Access.before (b a : Access) : Bool :=
  decide (b.ins < a.ins) || (b.ins == a.ins && b.dev && a.dev && decide (b.piece < a.piece))

/-- Whether two accesses belong to one instruction. -/
def Access.sibling (b a : Access) : Bool := b.ins == a.ins && b.engine == a.engine

/-- Whether an access is still on its way: neither performed nor failed. -/
def Access.open (a : Access) : Bool := match a.stage with | .failed _ | .done _ _ => false | _ => true

/-- Whether an access is a store that failed (R304). -/
def Access.hasFailed (a : Access) : Bool := match a.stage with | .failed _ => true | _ => false

/-- Whether an access still waits for its translation (R351). -/
def Access.untranslated (a : Access) : Bool := match a.stage with | .migrating _ | .retry => true | _ => false

/-- Whether an access reads. -/
def Access.reads (a : Access) : Bool := match a.kind with | .load | .ldRes | .atomic _ _ => true | _ => false

/-- Whether an access is an atomic. -/
def Access.isAtomic (a : Access) : Bool := match a.kind with | .atomic _ _ => true | _ => false

/-- Whether an access counts as a write under fences and release (R133, R285). -/
def Access.writesMem (a : Access) : Bool := match a.kind with | .store | .atomic _ _ | .stCond | .maint _ _ => true | _ => false

/-- Whether two accesses of one engine and launch. -/
def Access.sameEngine (b a : Access) : Bool := b.engine == a.engine && b.launch == a.launch

/-- Whether two accesses were issued in one quadrant. -/
def Access.sameQuad (b a : Access) : Bool :=
  match b.engine, a.engine with
  | .group c k, .group d j => c == d && k / 16 % 4 == j / 16 % 4
  | _, _ => false

/-- The core of an engine. -/
def Engine.core : Engine → Nat
  | .group c _ => c
  | .streamer c _ => c

/-- Whether an engine is a group. -/
def Engine.isGroup : Engine → Bool
  | .group _ _ => true
  | .streamer _ _ => false

/-- Whether an access is maintenance, whose `addr` numbers lines. -/
def Access.isMaint (a : Access) : Bool := match a.kind with | .maint _ _ => true | _ => false

/-- Whether two targets have one end point: two peer-table entries may name one device or one host (R276, R425). -/
def samePoint (s : State) (x y : EndPoint) : Bool :=
  x == y || match x, y with
  | .remote m, .remote n =>
    let e := (s.peer m).entry
    let f := (s.peer n).entry
    fld e 0 2 == fld f 0 2 && (if fld e 0 2 = 1 then fld e 256 128 == fld f 256 128 else fld e 64 16 == fld f 64 16)
  | _, _ => false

/-- An address as its end point sees it: a host window's offset lies behind its BASE (R413). -/
def pointAddr (s : State) (x : EndPoint) (addr : Nat) : Nat :=
  match x with
  | .remote n => if fld (s.peer n).entry 0 2 = 2 then fld (s.peer n).entry 128 64 + addr else addr
  | _ => addr

/-- Whether two accesses touch a common byte. -/
def Access.overlaps (s : State) (b a : Access) : Bool :=
  samePoint s b.target a.target && !b.isMaint && !a.isMaint && b.lanes.any fun x => a.lanes.any fun y =>
    decide (pointAddr s b.target x.addr < pointAddr s a.target y.addr + a.size) &&
    decide (pointAddr s a.target y.addr < pointAddr s b.target x.addr + b.size)

/-- Whether a load looks up the L1 (R249, R269, R286). -/
def Access.throughL1 (a : Access) : Bool :=
  a.kind == .load && a.engine.isGroup && !a.acq && !a.l1off && a.cache != 2 &&
  match a.target with | .home _ => true | _ => false

/-- Whether open access `b` holds back `a`: the same bytes (R278, R284), an acquire (R286), a device-type access (R280), the
same end point across `fence.order` (R288), or an earlier write of the same core to the same bytes (R248). A load that looks up
the L1 may take the value of its group's own store once the L1 has accepted it, also across `fence.order` (R130, R283). -/
def Access.blocks (s : State) (b a : Access) : Bool :=
  b.open && b.before a &&
  ((b.sameEngine a && (b.acq || (b.dev && a.dev) ||
      (!(b.accepted && a.throughL1) && b.overlaps s a) ||
      (decide (b.epoch < a.epoch) && samePoint s b.target a.target && !(b.accepted && a.throughL1 && b.overlaps s a)))) ||
   (b.engine.core == a.engine.core && b.writesMem && a.writesMem && b.overlaps s a))

/-- Whether an instruction still has lanes whose pages migrate: until then none of its stores, conditional stores or atomics is
performed, since such a lane may fault and the instruction then has no effect in any lane (R91). -/
def lanesMissing (s : State) (a : Access) : Bool := s.accesses.any fun b => b.sibling a && b.untranslated

/-- Whether an access goes to a peer or a host. -/
def Access.remote (a : Access) : Bool := match a.target with | .remote _ => true | _ => false

/-- Whether a set of an atomic instruction waits for other sets of it: the sets at peers are performed one by one and before those
on this device, so that one which fails leaves the others unperformed (R91, R128, LOG 132). -/
def setWaits (s : State) (a : Access) : Bool :=
  a.isAtomic && s.accesses.any fun b => b.sibling a && b.id != a.id && b.remote && b.open &&
    (!a.remote || (match b.stage with | .sent _ => true | _ => false))

/-- Whether an access may be performed now. -/
def mayPerform (s : State) (a : Access) : Bool :=
  !a.rel && !(a.writesMem && lanesMissing s a) && !setWaits s a && !s.accesses.any fun b => b.blocks s a

/-- Whether a release may be performed: earlier reads of its group and earlier writes of its quadrant have completed (R285). -/
def releaseReady (s : State) (a : Access) : Bool :=
  !s.accesses.any fun b => b.open && decide (b.ins < a.ins) &&
    ((b.sameEngine a && b.reads) || (b.sameQuad a && b.writesMem))

/-- Whether a write that a release waits for has failed (R303). -/
def releaseFailed (s : State) (a : Access) : Bool :=
  s.accesses.any fun b => b.hasFailed && decide (b.ins < a.ins) && b.sameQuad a && b.launch == a.launch

/-! ## Results and failures -/

/-- The resident group that issued an access. -/
def groupOf (s : State) (a : Access) : Option (Nat × Nat × Group) :=
  match a.engine with
  | .group c k => match s.group c k with
    | some g => if g.launch = a.launch then some (c, k, g) else none
    | none => none
  | .streamer _ _ => none

/-- Write one run of registers per lane; the lane whose value an s register keeps is a free value (LOG 40). Reuse entries of
the registers drop (R68). -/
def writeLanes (s : State) (c k : Nat) (dst : BitVec 9) (n : Nat) (vals : List (Nat × Nat)) : State :=
  let u := Use.mk dst n
  let (vals, s) := if isS dst ∧ 1 < vals.length then
      let d := s.draw
      ((vals[Config.free d.1 % vals.length]?).toList, d.2)
    else (vals, s)
  let s := s.modGroup c k fun g => vals.foldl (fun g v => g.setRun v.1 u v.2) g
  s.modCore c fun x => x.setReuse (k / 16) (reuseDrop (x.reuseOf (k / 16)) (k % 16) u.regs)

/-- Registers that a value of `n` bytes fills. -/
def regsFor (n : Nat) : Nat := Nat.max 1 (n / 4)

/-- A loaded value extended to its registers (R119). -/
def extendLoad (a : Access) (v : Nat) : Nat := if a.sext then wrapI 32 (sgn (8 * a.size) v) else v

/-- What a fault record says of an access. -/
def accessInfo (a : Access) (t : Trap) : FaultInfo :=
  match a.engine with
  | .group c k => groupInfo a.ctx c k a.pc t
  | .streamer c n =>
    { ctx := a.ctx, status := t.status, kind := 2, unit := n, core := c, slot := 0, lane := none, queue := 0, pos := 0,
      pc := a.pc, va := t.va, pa := t.pa }

/-- The lane and address that a fault of access `a` reports. -/
def laneTrap (st : Status) (l : Option LaneAcc) (pa : Option Nat) : Trap :=
  { status := st, lane := l.map (·.lane), va := l.map (·.va), pa := pa }

/-- An access takes an exception; what its instruction has not yet performed is not performed (R91, R302, R41). -/
def accessFault (s : State) (a : Access) (t : Trap) : State :=
  raiseFault { s with accesses := s.accesses.filter fun b => !b.sibling a } (accessInfo a t)

/-- Invalidate the L1 for an acquire, but not in a launch with L1_DISABLE (R269, R286). -/
def acquireL1 (s : State) (c : Nat) (l1off : Bool) : State := if l1off then s else s.l1Clear c

/-! ### The end of an instruction that reads (R70, R91, R92) -/

/-- The fault that a failure status of an access stands for (R245, R293, R302, R599). -/
def failureFault (st : Status) : Status :=
  if st = Code.windowUnavailable then Code.localStoreRange
  else if st = Code.atomicNotSupported then Code.translationFault
  else Code.remoteWriteLost

/-- The priority of R92 among the exceptions that an access can meet when it is performed. -/
def trapRank (st : Status) : Nat :=
  if st = Code.translationFault then 7 else if st = Code.localStoreRange then 8 else if st = Code.poisonConsumed then 9 else 10

/-- Whether trap `x` is reported before `y`: the priority first, then the lowest lane (R92). -/
def Trap.precedes (x y : Trap) : Bool :=
  decide (trapRank x.status < trapRank y.status) ||
  (trapRank x.status == trapRank y.status && decide (x.lane.getD 32 < y.lane.getD 32))

/-- The trap that an instruction reports. -/
def worstTrap (ts : List Trap) : Option Trap :=
  ts.foldl (fun b t => match b with
    | some x => if t.precedes x then some t else some x
    | none => some t) none

/-- The sector that a fault record names for a poisoned lane: one in DRAM of this device. -/
def poisonPa (a : Access) (l : LaneAcc) : Option Nat :=
  match a.target with | .home _ | .vault _ => some (l.addr / 32 * 32) | _ => none

/-- The exceptions that a performed access has met. -/
def Access.traps (a : Access) : List Trap :=
  match a.stage with
  | .done vals failure =>
    (a.lanes.filter fun l => vals.any fun v => v.1 == l.lane && v.2.2).map
      (fun l => laneTrap Code.poisonConsumed (some l) (poisonPa a l)) ++
    (match failure with | some st => [laneTrap (failureFault st) a.lanes.head? none] | none => [])
  | _ => []

/-- What a performed access has read. -/
def Access.vals (a : Access) : List (Nat × Nat) := match a.stage with | .done vals _ => vals.map fun v => (v.1, v.2.1) | _ => []

/-- The bytes that the device-type accesses of a load read, by virtual address, the lowest lane's first (R120). -/
def strictBytes (as : List Access) : SMap (Option Byte) :=
  as.foldl (fun m a => a.lanes.foldl (fun m l => match a.vals.find? fun v => v.1 == l.lane with
    | some v => (List.range a.size).foldl (fun m i =>
        if (oget m (l.va + i)).isSome then m else oput m (l.va + i) (some (BitVec.ofNat 8 (v.2 / 256 ^ i)))) m
    | none => m) m) []

/-- The values of a performed access: lanes of a device-type load that read one byte receive one value (R120). -/
def settledVals (bytes : SMap (Option Byte)) (a : Access) : List (Nat × Nat) :=
  if a.dev && a.kind == .load then
    a.lanes.map fun l => (l.lane, leNat ((List.range a.size).map fun i => (oget bytes (l.va + i)).getD 0))
  else a.vals

/-- The register and size that a performed access writes (R119, R123, R125). -/
def Access.slotOf (a : Access) : BitVec 9 × Nat := if a.kind = .stCond then (a.dst2, 4) else (a.dst, a.size)

/-- Write what an instruction's accesses have read, one run of registers after the other. -/
def writeBack (s : State) (c k : Nat) (as : List Access) : State :=
  let bytes := strictBytes (as.filter (·.dev))
  ((as.map Access.slotOf).eraseDups).foldl (fun s d =>
    let mine := as.filter fun a => a.slotOf == d
    let vals := mine.flatMap fun a => (settledVals bytes a).map fun v => (v.1, extendLoad a v.2)
    writeLanes s c k d.1 (regsFor d.2) vals) s

/-- When every access of an instruction that reads has been performed, the instruction takes its exception, or writes its registers
and, where it is an acquire, invalidates the L1 (R91, R92, R286). -/
def settleInstr (s : State) (a : Access) : State :=
  let all := s.accesses.filter (·.sibling a)
  if all.any Access.open then s else
  match worstTrap (all.flatMap Access.traps) with
  | some t => accessFault s a t
  | none =>
    let s := match groupOf s a with
      | some (c, k, _) => writeBack s c k all
      | none => s
    let s : State := { s with accesses := s.accesses.filter fun b => !b.sibling a }
    if a.acq then acquireL1 s a.engine.core a.l1off else s

/-- An access that reads has been performed, or has failed: its values are kept until its instruction ends. -/
def performed (s : State) (a : Access) (vals : List (Nat × Nat × Bool)) (failure : Option Status) : State :=
  settleInstr (s.modAccess a.id fun a => { a with stage := .done vals failure }) a

/-- An access that has completed leaves. -/
def finishAccess (s : State) (a : Access) : State := s.dropAccess a.id

/-- A failed write of a store descriptor: it is kept for the `ts.wait`, or names the `exit` of the group (R212, R231, R304). -/
def failTileWrite (s : State) (a : Access) (c n : Nat) : State :=
  let s := s.dropAccess a.id
  match (s.streamer c n).descs with
  | [] => s
  | d :: _ => match s.group c d.slot with
    | some g => if g.done then raiseFault s (groupInfo a.ctx c d.slot g.pc (Trap.plain Code.remoteWriteLost))
        else s.modStreamer c n fun t => { t with descs := { d with failed := true } :: t.descs.drop 1 }
    | none => s

/-- A store of a group completes with a failure: the next fence, release or `exit` reports it (R130, R303, R304). -/
def failStore (s : State) (a : Access) (k : Nat) (st : Status) : State :=
  match groupOf s a with
  | some (_, _, g) =>
    -- after `exit` the fault names that instruction
    if g.done then accessFault s { a with pc := g.pc } (Trap.plain Code.remoteWriteLost)
    else s.modAccess a.id fun a => { a with stage := .failed st }
  | none => if 64 ≤ k then accessFault s a (Trap.plain Code.remoteWriteLost) else s.dropAccess a.id

/-- An access completes with a failure status (R245, R293, R301 to R304, R231). -/
def failAccess (s : State) (a : Access) (st : Status) : State :=
  match a.engine with
  | .streamer c n =>
    if st = Code.windowUnavailable ∨ a.reads then accessFault s a (laneTrap (failureFault st) a.lanes.head? none)
    else failTileWrite s a c n
  | .group _ k =>
    if a.isAtomic ∨ st = Code.windowUnavailable then accessFault s a (laneTrap (failureFault st) a.lanes.head? none)
    else if a.reads then performed s a [] (some st)
    else failStore s a k st

/-- Clear the reservation of a lane, and its granule's entry when no thread holds it any more (R122, R297). -/
def dropReservation (s : State) (c k l : Nat) : State :=
  match (s.group c k).bind fun g => oget g.res l with
  | none => s
  | some r =>
    let s := s.modGroup c k fun g => { g with res := oput g.res l none }
    if granuleHeld s r.pa then s else
    s.modCluster (homeOfLine (r.pa / 8)) fun x => { x with granules := x.granules.filter (· != r.pa) }

/-- Set a lane's reservation (R122); only normal-type DRAM of this device can be reserved (R296). -/
def setReservation (s : State) (c k : Nat) (l : LaneAcc) (real : Bool) : State :=
  let s := dropReservation s c k l.lane
  if !real then s else
  let s := reserveGranule s (l.addr / 16)
  s.modGroup c k fun g => { g with res := oput g.res l.lane (some { va := l.va / 16, pa := l.addr / 16 }) }

/-- Reserve the granules that an `ld.res` has read (R122, R296). -/
def reserveLanes (s : State) (a : Access) : State :=
  match a.kind, groupOf s a with
  | .ldRes, some (c, k, _) =>
    a.lanes.foldl (fun s l => setReservation s c k l (match a.target with | .home _ => true | _ => false)) s
  | _, _ => s

/-- A read has been performed, with a value and a poison flag per lane (R41, R119, R227). -/
def completeRead (s : State) (a : Access) (val : LaneAcc → Nat × Bool) : State :=
  match a.engine with
  | .streamer c _ =>
    let s := a.lanes.foldl (fun s l =>
      let v := val l
      lsWrite s c l.cmp.toNat (leBytes a.size v.1) fun _ => v.2) s
    s.dropAccess a.id
  | .group _ _ => performed (reserveLanes s a) a (a.lanes.map fun l => (l.lane, val l)) none

/-! ## Atomics (R126, R127) -/

/-- One lane's operand and comparand. -/
structure Operand where
  lane : Nat
  d    : Nat
  c    : Nat
  deriving DecidableEq, Repr

/-- The pairwise tree over lanes `lo` to `lo + 2^n - 1` (R127). -/
def pairSum (m : Fmt) (mode : Nat) (xs : List Operand) : Nat → Nat → Option Nat
  | 0, lo => (xs.find? fun x => x.lane == lo).map (·.d)
  | n + 1, lo =>
    match pairSum m mode xs n lo, pairSum m mode xs n (lo + 2 ^ n) with
    | none, y => y
    | x, none => x
    | some x, some y => some (fAdd m mode 0 x y).1

/-- old (+) a tree value. -/
def plusTree (m : Fmt) (mode old : Nat) : Option Nat → Nat
  | none => old
  | some x => (fAdd m mode 0 old x).1

/-- One operation of a set on the value in memory (R126). -/
def atomStep (op : AtomOp) (atype w old d c : Nat) : Nat :=
  let m := if w = 64 then f64 else f32
  let pick (lessFirst : Bool) : Nat :=
    if atype = 2 then
      if isNan m old then (if isNan m d then old else d)
      else if isNan m d then old
      else if fTotalLt m d old == lessFirst && (fTotalLt m d old || fTotalLt m old d) then d else old
    else
      let x := if atype = 1 then sgn w old else (old : Int)
      let y := if atype = 1 then sgn w d else (d : Int)
      if lessFirst then (if y < x then d else old) else (if x < y then d else old)
  match op with
  | .add => (old + d) % 2 ^ w
  | .min => pick true
  | .max => pick false
  | .and => old &&& d
  | .or => old ||| d
  | .xor => old ^^^ d
  | .exch => d
  | .cas => if old = c then d else old

/-- A set of lanes performed on one address: each lane's old value and the new value in memory (R126, R127). -/
def atomSet (op : AtomOp) (atype mode size old : Nat) (xs : List Operand) : List (Nat × Nat) × Nat :=
  if op = .add ∧ atype = 2 then
    let m := if size = 8 then f64 else f32
    (xs.map fun x => (x.lane, plusTree m mode old (pairSum m mode (xs.filter fun y => y.lane < x.lane) 5 0)),
      plusTree m mode old (pairSum m mode xs 5 0))
  else
    xs.foldl (fun r x => (r.1 ++ [(x.lane, r.2)], atomStep op atype (8 * size) r.2 x.d x.c)) ([], old)

/-- The addresses that an atomic access names, each once, in order of their lowest lane. -/
def Access.addrs (a : Access) : List Nat := (a.lanes.map (·.addr)).eraseDups

/-- The operands of the set of address `p`. -/
def Access.operands (a : Access) (p : Nat) : List Operand :=
  (a.lanes.filter (·.addr == p)).map fun l => { lane := l.lane, d := l.data.toNat, c := l.cmp.toNat }

/-- A read-modify-write of every set of an atomic through `rd` and `wr`: the lanes' old values, or the first lane that meets
poison before anything is written (R128, R294). -/
def performSets (s : State) (a : Access) (op : AtomOp) (atype : Nat) (rd : State → Nat → (Nat × Bool) × State)
    (wr : State → Nat → Nat → State) : Except (LaneAcc × State) (List (Nat × Nat) × State) :=
  let r := a.lanes.foldl (fun (r : Option LaneAcc × State) l => match r.1 with
    | some _ => r
    | none => let x := rd r.2 l.addr; (if x.1.2 then some l else none, x.2)) (none, s)
  match r.1 with
  | some l => .error (l, r.2)
  | none => .ok <| a.addrs.foldl (fun r p =>
      let x := rd r.2 p
      let q := atomSet op atype a.cache.toNat a.size x.1.1 (a.operands p)
      (r.1 ++ q.1, wr x.2 p q.2)) ([], s)

/-! ## Reading and writing at the end points -/

/-- The bytes of one lane's store laid into a line. -/
def laneMask (a : Access) (l : LaneAcc) : BitVec 128 := byteMask (l.addr % 128) a.size

/-- The data of a store access to one line; of lanes that write one byte the highest wins (R120). -/
def storeData (a : Access) : Line × BitVec 128 :=
  a.lanes.foldl (fun r l =>
    let m := laneMask a l
    (mergeLine r.1 (placeBytes (l.addr % 128) (leBytes a.size l.data.toNat)) m, r.2 ||| m)) (0, 0)

/-- The writing thread of granule `g` when a single lane writes it (R124). -/
def soleWriter (a : Access) (g : Nat) : Option (Nat × Nat × Nat) :=
  match a.engine with
  | .group c k => match (a.lanes.filter fun l => l.addr / 16 == g).map (·.lane) with
    | [l] => some (c, k, l)
    | _ => none
  | .streamer _ _ => none

/-- The sectors that an access touches in its line. -/
def Access.sectors (a : Access) : BitVec 4 :=
  a.lanes.foldl (fun m l => m ||| sectorMask (l.addr % 128) a.size) 0

/-- The line that an access to DRAM names. -/
def Access.line (a : Access) : Nat := (a.lanes.head?.map fun l => l.addr / 128).getD 0

/-- A lane's value in a line, with its sector's poison bit. -/
def lineVal (d : Line) (p : BitVec 4) (size : Nat) (l : LaneAcc) : Nat × Bool :=
  ((d.extractLsb' (8 * (l.addr % 128)) (8 * size)).toNat, bit p (l.addr % 128 / 32))

/-- Note the pages of a write through a KIND 1 leaf of DRAM dirty (R356). -/
def noteLanes (s : State) (a : Access) : State :=
  match a.target with
  | .home _ | .vault _ => a.lanes.foldl (fun s l => noteDirty s a.ctx (l.va / 65536)) s
  | _ => s

/-- The value and poison of `n` bytes of what a read at an end point gave. -/
def Got.val (g : Got) : Nat × Bool := (leNat g.bytes, g.bad)

/-- Start or join an L1 miss of a load (R251); nothing happens while 32 entries are busy. -/
def joinMiss (s : State) (a : Access) (c : Nat) : State :=
  let k := s.core c
  let join (m : Miss) : Miss := { m with sectors := m.sectors ||| a.sectors, accesses := m.accesses ++ [a.id] }
  let s' := s.modAccess a.id fun a => { a with stage := .filling }
  if k.misses.any (·.line == a.line) then
    s'.modCore c fun k => { k with misses := replaceFirst (·.line == a.line) join k.misses }
  else if 32 ≤ k.misses.length then s
  else s'.modCore c fun k => { k with misses := k.misses ++
    [{ line := a.line, sectors := a.sectors, overlay := [], invalidated := false, accesses := [a.id], before := s.nextAcc }] }

/-- A normal-type load of DRAM: through the L1, or at the home cluster cache for an acquire, CACHE 2, L1_DISABLE and the streamers
(R249, R269, R286). -/
def loadHome (s : State) (a : Access) : State :=
  if !a.throughL1 then
    let r := homeRead s a.line a.sectors a.noAlloc
    completeRead r.2 a (lineVal r.1.1 r.1.2 a.size)
  else
    let c := a.engine.core
    match (s.core c).l1Find a.line with
    | some key =>
      let w := (s.core c).l1Way key
      if a.sectors &&& ~~~w.valid = 0 then
        let s := if a.cache = 0 then s.modCore c fun k => k.setL1 key { w with age := 0 } else s
        completeRead s a (lineVal w.data w.poison a.size)
      else joinMiss s a c
    | none => joinMiss s a c

/-- A write by a group updates the L1 copy that its core holds and the fills under way (R248, R252), but not in a launch with
L1_DISABLE (R269). -/
def updateL1 (s : State) (a : Access) (line : Nat) (d : Line) (m : BitVec 128) : State :=
  if a.l1off || !a.engine.isGroup then s else s.modCore a.engine.core fun k => k.l1Store a.id line d m

/-- A store to normal-type DRAM at its home (R255); the L1 has it since it accepted it, else from now on. -/
def storeHome (s : State) (a : Access) : State :=
  let d := storeData a
  let s := if a.accepted then s else updateL1 s a a.line d.1 d.2
  finishAccess (storeLine (noteLanes s a) a.line d.1 d.2 a.poison a.noAlloc (soleWriter a)) a

/-- `st.cond` at its end point, lanes ascending (R123, R296). -/
def condHome (s : State) (a : Access) (c k : Nat) : State :=
  let real := match a.target with | .home _ => true | _ => false
  let r := a.lanes.foldl (fun (r : List (Nat × Nat × Bool) × State) l =>
    let held := ((r.2.group c k).bind fun g => oget g.res l.lane).any fun x => x.va == l.va / 16 && x.pa == l.addr / 16
    if real && held then
      let one := { a with lanes := [l] }
      let d := storeData one
      let s := storeLine (noteLanes r.2 one) one.line d.1 d.2 0 false (soleWriter one)
      (r.1 ++ [(l.lane, 0, false)], dropReservation (updateL1 s a one.line d.1 d.2) c k l.lane)
    else (r.1 ++ [(l.lane, 1, false)], dropReservation r.2 c k l.lane)) ([], s)
  performed r.2 a r.1 none

/-- An atomic's set has been performed: the L1 copies of its sectors go (R125, R253). -/
def finishAtomic (s : State) (a : Access) (vals : List (Nat × Nat)) : State :=
  let s := match a.target with
    | .home _ => if a.l1off then s else s.l1DropSectors a.engine.core a.line a.sectors
    | _ => s
  performed s a (vals.map fun v => (v.1, v.2, false)) none

/-- Read one operand of an atomic at its end point on this device (R292). -/
def atomRead (s : State) (a : Access) (p : Nat) : (Nat × Bool) × State :=
  match a.target with
  | .vault _ => let r := vaultGet s p a.size; (r.1.val, r.2)
  | .localStore c => ((lsRead s c p a.size).val, s)
  | _ => let r := dramRead s p a.size false; (r.1.val, r.2)

/-- Write the result of an atomic at its end point on this device. -/
def atomWrite (s : State) (a : Access) (p v : Nat) : State :=
  match a.target with
  | .vault _ => vaultPut s p (leBytes a.size v) fun _ => false
  | .localStore c => lsWrite s c p (leBytes a.size v) fun _ => false
  | _ => storeLine s (p / 128) (placeBytes (p % 128) (leBytes a.size v)) (byteMask (p % 128) a.size) 0 false (soleWriter a)

/-- An atomic on memory of this device (R292). -/
def atomHere (s : State) (a : Access) (op : AtomOp) (atype : Nat) : State :=
  match performSets (noteLanes s a) a op atype (fun s p => atomRead s a p) (fun s p v => atomWrite s a p v) with
  | .error (l, s) => accessFault s a (laneTrap Code.poisonConsumed (some l) (poisonPa a l))
  | .ok r => finishAtomic r.2 a r.1

/-! ## What an instruction would meet (R91, R92) -/

/-- The exceptions that an access which has not been performed would meet: a refused window (R245), a poisoned sector under an
atomic (R128), an atomic on a host or through an entry that refuses it (R293, R426). The sectors are read where they are. -/
def wouldMeet (s : State) (b : Access) : List Trap × State :=
  let lane (st : Status) (l : LaneAcc) (pa : Option Nat) : Trap := laneTrap st (some l) pa
  match b.target with
  | .localStore c =>
    if b.win then
      ((b.lanes.filter fun l => !windowOk s c l.addr b.size (tenantOf s b.ctx)).map fun l => lane Code.localStoreRange l none, s)
    else if b.isAtomic then
      ((b.lanes.filter fun l => (lsRead s c l.addr b.size).bad).map fun l => lane Code.poisonConsumed l none, s)
    else ([], s)
  | .home _ | .vault _ =>
    if !b.isAtomic then ([], s) else
    b.lanes.foldl (fun (r : List Trap × State) l =>
      let x := atomRead r.2 b l.addr
      (if x.1.2 then r.1 ++ [lane Code.poisonConsumed l (poisonPa b l)] else r.1, x.2)) ([], s)
  | .remote n =>
    let e := s.peer n
    if !b.isAtomic then ([], s)
    else if e.kind = 2 ∧ e.tenant = tenantOf s b.ctx then (b.lanes.map fun l => lane Code.translationFault l none, s)
    else if e.kind ≠ 1 ∨ e.tenant ≠ tenantOf s b.ctx ∨ e.state = 2 then (b.lanes.map fun l => lane Code.remoteWriteLost l none, s)
    else ([], s)
  | _ => ([], s)

/-- The exception that a store, conditional store or atomic would meet in any lane not yet performed: then none is performed (R91). -/
def probe (s : State) (a : Access) : Option Trap × State :=
  let r := (s.accesses.filter fun b => b.sibling a && b.open).foldl (fun (r : List Trap × State) b =>
    let x := wouldMeet r.2 b
    (r.1 ++ x.1, x.2)) ([], s)
  (worstTrap r.1, r.2)

/-- Maintenance of the lines of a `cmo`, or of one set and way of a `cmo.sw` (`size` 1): level 0 the L1, 1 the cluster cache,
2 both (R131, R132). A way that holds no line needs nothing (R266). -/
def maintAccess (s : State) (a : Access) (level op : Nat) : State :=
  let c := a.engine.core
  let s := a.lanes.foldl (fun s l =>
    if a.size = 1 then
      if level = 0 then
        (if op = 1 ∨ ((s.core c).l1Way l.addr).valid = 0 then s else s.l1Drop c ((s.core c).l1Way l.addr).line)
      else maintWay s (c / 16) l.addr op
    else
      let s := if level = 1 then s else l1Maint s c l.addr op
      if level = 0 then s else maintLine s l.addr op) s
  finishAccess s a

/-! ## Remote end points (R413, R426, R427) -/

/-- Bytes that an access covers from its lowest address on: (address, bytes). -/
def Access.span (a : Access) : Nat × Nat :=
  let lo := a.lanes.foldl (fun m l => Nat.min m l.addr) ((a.lanes.head?.map (·.addr)).getD 0)
  let hi := a.lanes.foldl (fun m l => Nat.max m (l.addr + a.size)) 0
  (lo, hi - lo)

/-- The bytes that a store writes, each once, ascending: (address, virtual address, byte). -/
def storeBytes (a : Access) : List (Nat × Nat × Byte) :=
  let all : SMap (Option (Nat × Byte)) := a.lanes.foldl (fun m l =>
    (List.range a.size).foldl (fun m i =>
      oput m (l.addr + i) (some (l.va + i, (BitVec.ofNat 8 (l.data.toNat / 256 ^ i))))) m) []
  (olist all).map fun e => (e.1, e.2.1, e.2.2)

/-- Consecutive bytes together. -/
def segmentsOf (bs : List (Nat × Nat × Byte)) : List (List (Nat × Nat × Byte)) :=
  bs.foldr (fun x acc => match acc with
    | (y :: ys) :: rest => if x.1 + 1 = y.1 then (x :: y :: ys) :: rest else [x] :: (y :: ys) :: rest
    | _ => [x] :: acc) []

/-- OPX of a WRITE or READ frame: bit 0 says that the access is of device type, so that it ends at the peer's vault (R276, LOG 41). -/
def devOpx (dev : Bool) : Byte := BitVec.ofNat 8 (b2n dev)

/-- OPX of an ATOMIC frame: [2:0] operation, [4:3] ATYPE, [5] eight bytes, [7:6] subnormal mode (LOG 41). -/
def atomOpx (op : AtomOp) (atype size mode : Nat) : Byte :=
  let code := match op with | .add => 0 | .min => 1 | .max => 2 | .and => 3 | .or => 4 | .xor => 5 | .exch => 6 | .cas => 7
  BitVec.ofNat 8 (code + 8 * atype + 32 * b2n (size == 8) + 64 * mode)

/-- The operation of an OPX. -/
def opxAtom (x : Byte) : AtomOp :=
  match x.toNat % 8 with
  | 0 => .add | 1 => .min | 2 => .max | 3 => .and | 4 => .or | 5 => .xor | 6 => .exch | _ => .cas

/-- Payload of an ATOMIC frame: for each lane its number, with bit 7 for device type, its operand and comparand (LOG 41). -/
def atomPayload (a : Access) : List Byte :=
  a.lanes.flatMap fun l => BitVec.ofNat 8 (l.lane + 128 * b2n a.dev) :: leBytes a.size l.data.toNat ++ leBytes a.size l.cmp.toNat

/-- The TAG of a frame for access or item `id`: bit 31 tells it from a step number (LOG 44). -/
def tagOf (id : Nat) : Word := BitVec.ofNat 32 (2 ^ 31 + id % 2 ^ 31)

/-- Put one access on its way to a device peer (R426, R427). -/
def sendPeer (s : State) (a : Access) (n : Nat) : State :=
  let e := s.peer n
  let f := { OutFrame.plain 1 n (tenantOf s a.ctx) (fld e.entry 24 10) (tagOf a.id) with
    addr := a.span.1, length := a.span.2, opx := devOpx a.dev }
  let f := match a.kind with
    | .load | .ldRes => { f with typ := 2 }
    | .atomic op t => { f with typ := 4, opx := atomOpx op t.toNat a.size a.cache.toNat, payload := atomPayload a,
                               length := (atomPayload a).length }
    | _ => { f with payload := (storeBytes a).map (·.2.2),
                    poison := (List.range ((a.span.1 + a.span.2 - 1) / 32 - a.span.1 / 32 + 1)).map fun j =>
                      bit a.poison ((a.span.1 / 32 + j) % 4) }
  peerSend (s.modAccess a.id fun a => { a with stage := .sent a.id }) n (e.portFor (a.span.1 / 128)) f

/-- Put one access on its way to host memory (R413, R414). -/
def sendHost (s : State) (a : Access) (n : Nat) : State :=
  let e := (s.peer n).entry
  let c := fld e 64 16
  if fld e 192 64 < a.span.1 + a.span.2 then failAccess s a Code.remoteRefused
  else match s.conn c with
    | none => failAccess s a Code.hostLost
    | some x => if x.error then failAccess s a Code.hostLost else
      match a.kind with
      | .atomic _ _ => failAccess s a Code.atomicNotSupported
      | _ =>
        let s := s.modAccess a.id fun a => { a with stage := .sent a.id }
        let write := !a.reads
        roceIssue s c write ((fld e 128 64 + a.span.1) % 2 ^ 64) (BitVec.ofNat 32 (fld e 96 32)) a.span.2
          (if write then (storeBytes a).map (·.2.2) else []) (.access a.id)

/-- `st.cond` at an end point, or its end when its group is gone (R123, R296). -/
def condAccess (s : State) (a : Access) : State :=
  match groupOf s a with
  | some (c, k, _) => condHome s a c k
  | none => performed s a [] none

/-- An access to peer-table entry `n` (R426). -/
def remoteAccess (s : State) (a : Access) (n : Nat) : State :=
  let e := s.peer n
  if a.kind = .stCond then condAccess s a
  else if e.kind = 0 ∨ e.kind = 3 ∨ e.tenant ≠ tenantOf s a.ctx then failAccess s a Code.remoteRefused
  else if e.kind = 1 ∧ e.state = 2 then failAccess s a Code.peerLost
  else
    let send (s : State) (a : Access) : State := if e.kind = 1 then sendPeer s a n else sendHost s a n
    if a.kind ≠ .store then send s a else
    match segmentsOf (storeBytes a) with
    | [] => finishAccess s a
    | [_] => send s a
    | segs =>
      -- a store with gaps travels as one write per run of bytes
      let s := s.dropAccess a.id
      segs.foldl (fun s g =>
        let x : Access := { a with
          id := s.nextAcc, size := 1,
          lanes := g.map fun b => { lane := 0, addr := b.1, va := b.2.1, data := b.2.2.setWidth 128, cmp := 0 } }
        let s : State := { s with accesses := s.accesses ++ [x], nextAcc := s.nextAcc + 1 }
        send s x) s

/-- A remote read's data arrives: `bytes` from `Access.span` on, a poison flag per sector (R41, R430). -/
def remoteData (s : State) (a : Access) (bytes : List Byte) (poison : List Bool) : State :=
  let lo := a.span.1
  completeRead s a fun l =>
    (leNat (sub bytes (l.addr - lo) a.size), poison.getD (l.addr / 32 - lo / 32) false)

/-- A remote atomic's old values arrive, `size` bytes per lane in order. -/
def remoteAtomic (s : State) (a : Access) (bytes : List Byte) (poison : List Bool) : State :=
  if poison.any id then
    accessFault s a (laneTrap Code.poisonConsumed a.lanes.head? none)
  else finishAtomic s a ((a.lanes.zipIdx).map fun (l, i) => (l.lane, leNat (sub bytes (i * a.size) a.size)))

/-! ## One access -/

/-- Perform an access whose instruction meets no exception at its end point (R276, R277). -/
def performAt (s : State) (a : Access) : State :=
  match a.target, a.kind with
  | .syncHub, _ => s
  | .remote n, _ => remoteAccess s a n
  | _, .stCond => condAccess s a
  | .home _, .store => storeHome s a
  | .vault _, .store => finishAccess (a.lanes.foldl (fun s l =>
      vaultPut s l.addr (leBytes a.size l.data.toNat) fun k => bit a.poison (k % 4)) (noteLanes s a)) a
  | .localStore c, .store => finishAccess (a.lanes.foldl (fun s l =>
      lsWrite s c l.addr (leBytes a.size l.data.toNat) fun k => bit a.poison (k % 4)) s) a
  | .control, .store => finishAccess (a.lanes.foldl (fun s l => ctlWrite s l.addr (leBytes a.size l.data.toNat)) s) a
  | _, .atomic op t => atomHere s a op t.toNat
  | .home _, _ => loadHome s a
  | .vault _, _ =>
    let r := a.lanes.foldl (fun (r : List (Nat × Nat × Bool) × State) l =>
      let q := vaultGet r.2 l.addr a.size
      (r.1 ++ [(l.lane, q.1.val)], q.2)) ([], s)
    completeRead r.2 a fun l => ((r.1.find? fun e => e.1 == l.lane).map (·.2)).getD (0, false)
  | .localStore c, _ =>
    if a.win && !a.lanes.all (fun l => windowOk s c l.addr a.size (tenantOf s a.ctx)) then performed s a [] (some Code.windowUnavailable)
    else completeRead s a fun l => (lsRead s c l.addr a.size).val
  | .control, _ => completeRead s a fun l => (leNat (ctlRead s l.addr a.size), false)

/-- Perform an access at its end point. A store, conditional store or atomic is performed only when its instruction meets no
exception in any lane (R91). -/
def performAccess (s : State) (a : Access) : State :=
  match a.kind with
  | .maint level op => maintAccess s a level op
  | .signal _ _ _ => s
  | .store | .stCond | .atomic _ _ => match probe s a with
    | (some t, s) => accessFault s a t
    | (none, s) => performAt s a
  | _ => performAt s a

end Sys2Proof.Machine
end

