-- ==== Sys2Proof/Machine/Smt.lean ====
section
/-! DEFINITION. Sessions of the Scehel Message Transport: acceptance of messages, sequencing, opening, closing and loss, and what
fails with a session or a connection (R402, R407, R414 to R419, R527, R539). -/

namespace Sys2Proof.Machine

/-! ## The presence window -/

/-- Whether a presence window is open with the tamper loop intact (R537 to R539). -/
def presenceOpen (s : State) : Bool := s.sec.presenceEnd.any (fun t => decide (s.power.now < t)) && !s.sec.sealBroken

/-! ## Acceptance of a message -/

/-- Whether port `n` receives and the firmware, or the boot ROM in recovery mode on H0 alone, serves it (R525, R551, R564). -/
def portUp (s : State) (n : Nat) : Bool :=
  linkUp s n && (if s.power.devState = .recovery then n == 0 else decide (6 ≤ s.power.step))

/-- A port counts a discarded frame (R402, R433). -/
def dropFrame (s : State) (p : Nat) : State := s.modPort p fun x => { x with rxDropped := satAdd 64 x.rxDropped 1 }

/-- Whether a port accepts a frame by its VLAN, which is VLAN_ID or MGMT_VLAN, and by the length of its IP packet (R405, R407). -/
def admits (s : State) (port vlan bytes : Nat) : Bool :=
  (vlan == (vlansOf s port).1 || vlan == (vlansOf s port).2) && decide (bytes ≤ (s.port port).mtu)

/-- A frame arrives on a port: it is acted on, or discarded and counted (R402, R405, R407). -/
def arrive (s : State) (port vlan bytes : Nat) (act : State → State) : State :=
  if !portUp s port then s else if admits s port vlan bytes then act s else dropFrame s port

/-- Record `i` of the session allow list (R435). -/
def allowRec (s : State) (i : Nat) : BitVec 256 := sget (fun _ => 0) s.ports.allow i

/-- The valid records of the session allow list, in order. -/
def allowRecs (s : State) : List (BitVec 256) := (below 64 fun i => bit (allowRec s i) 145).map (allowRec s)

/-- Whether a message's VLAN is one it may arrive on: Catalogue requests on MGMT_VLAN, others on VLAN_ID (R407); OPEN on MGMT_VLAN
while R416 asks for it. -/
def vlanOk (s : State) (m : Msg) (cat opens : Bool) : Bool :=
  let v := vlansOf s m.port
  if cat then m.vlan.toNat == v.2
  else m.vlan.toNat == v.1 || (opens && (allowRecs s).isEmpty && m.vlan.toNat == v.2)

/-- A message arrives on a port: one on a peer port, on the wrong VLAN or beyond MTU is discarded and counted (R402, R405, R407). -/
def msgArrives (s : State) (m : Msg) (cat opens : Bool) (act : State → State) : State :=
  arrive s m.port m.vlan.toNat (ownBytes m.srcIp m.payload.length) fun s =>
    if 2 ≤ m.port ∨ !vlanOk s m cat opens then dropFrame s m.port else act s

/-- Whether a message comes from the port, address and UDP port that its session is bound to (R416). -/
def msgFrom (m : Msg) (x : Session) : Bool := x.port == m.port && x.ip == m.srcIp && x.udp == m.srcUdp

/-- The session of a message, when it is open and bound to the sender. -/
def sessionOf (s : State) (m : Msg) : Option Session :=
  if m.session.toNat < 256 then (s.session m.session.toNat).filter fun x => msgFrom m x else none

/-- Answer with STATUS (R415, R420). -/
def sendStatus (s : State) (n : Nat) (st : Status) (tag : Word) : State := smtSend s n (OutMsg.plain 5 st tag 0)

/-- Put the messages of a session's window on the wire again (R417). -/
def resendWindow (s : State) (n : Nat) : State :=
  match s.session n with
  | none => s
  | some x => (x.unacked.take 256).foldl (fun s m => emit s (.smt n m)) s

/-- The first wait of a resend timer in nanoseconds, and its limit (R417). -/
def firstBackoff : Nat := 20000

/-- What an ACK acknowledges: the messages before it leave, those that enter the window are sent, and GAP prompts a resend
(R417). -/
def smtAcked (s : State) (n : Nat) (ack : Word) (gap : Bool) : State :=
  match s.session n with
  | none => s
  | some x =>
    let first := x.txNext - BitVec.ofNat 32 x.unacked.length
    let k := (ack - first).toNat
    if Nat.min 256 x.unacked.length < k then s else
    let s := if k = 0 then s else
      let left := x.unacked.drop k
      let fresh := (left.take 256).drop (Nat.min 256 x.unacked.length - k)
      fresh.foldl (fun s m => emit s (.smt n m))
        (s.setSession n (some { x with unacked := left, resends := 0, backoff := firstBackoff }))
    if gap then resendWindow s n else s

/-- Discard a malformed message; an existing session is told the format status (R415). -/
def smtBad (s : State) (m : Msg) : State :=
  match sessionOf s m with
  | some _ => sendStatus s m.session.toNat Code.formatError m.tag
  | none => s

/-- The header checks of R415 that every type shares. -/
def msgOk (m : Msg) : Bool := m.version == 1 && !m.rsv && decide (m.payload.length ≤ 8192)

/-- Whether the Catalogue server has started (R500, R525). -/
def serverUp (s : State) : Bool := s.power.devState == .recovery || decide (8 ≤ s.power.step)

/-- A sequenced message of a session: the checks of R407, R415 and R416, then delivery in SEQ order (R417). `argOk` says that
ARG0 and the payload keep the type's reserved bits clear. -/
def smtSeq (s : State) (m : Msg) (cat argOk : Bool) (act : State → Session → State) : State :=
  msgArrives s m cat false fun s =>
  if !msgOk m || !argOk then smtBad s m
  else match sessionOf s m with
  | none => s
  | some _ =>
    let n := m.session.toNat
    let s' := if m.ackValid then smtAcked s n m.ack false else s
    match s'.session n with
    | none => s'
    | some x =>
      if m.seq ≠ x.rxNext then smtAck s' n (decide ((m.seq - x.rxNext).toNat < 2 ^ 31))
      else if cat && !serverUp s then s
      else
        let s' := s'.setSession n (some { x with rxNext := x.rxNext + 1, owed := x.owed + 1 })
        act (if m.ackNow ∨ 16 ≤ x.owed + 1 then smtAck s' n false else s') x

/-- A sequenced message of a type that only the firmware handles: the boot ROM does not know it (R525, LOG 52). -/
def smtFirmware (s : State) (m : Msg) (argOk : Bool) (act : State → Session → State) : State :=
  smtSeq s m false (argOk && s.power.devState != .recovery) act

/-! ## What fails with a connection or a session (R414, R418) -/

/-- The accesses and migrations of a connection's outstanding requests fail (R354, R414). -/
def failRequests (s : State) (rs : List RdmaReq) : State :=
  rs.foldl (fun s r => match r.use with
    | .access id => match s.access id with
      | some a => failAccess s a Code.hostLost
      | none => s
    | .migration n => migrationFail s n) s

/-- A connection fails (R414). -/
def failConn (s : State) (n : Nat) : State :=
  match s.conn n with
  | none => s
  | some c => failRequests (s.setConn n (some { c with error := true, reqs := [] })) c.reqs

/-- A connection is removed. -/
def removeConn (s : State) (n : Nat) : State := (failConn s n).setConn n none

/-- A running image that uses session `n` fails (R482). -/
def folioLostSession (s : State) (n : Nat) : State :=
  { s with folio := { s.folio with run := s.folio.run.map fun (r : FolioRun) =>
      if r.failure.isNone ∧ r.cmd.locs.any (fun l => fld l 0 2 == 3 && (fld l 40 8 == n || fld l 48 8 == n)) then
        { r with failure := some Code.folioSinkFailed } else r } }

/-- The number that stands for a session that no longer exists: what is owed to it is never sent (R510, R531). -/
def noSession : Nat := 65535

/-- What is owed to session `n` is owed to nobody: accepted transactions, a commit's STATUS, a domain reset's reply. -/
def forgetSession (s : State) (n : Nat) : State :=
  let away (k : Nat) : Nat := if k = n then noSession else k
  { s with
      desk := { s.desk with txns := s.desk.txns.map fun (t : Txn) => { t with session := away t.session } },
      sec := { s.sec with commit := s.sec.commit.map fun c => (away c.1, c.2) },
      power := { s.power with resets := s.power.resets.map fun (r : DomReset) => { r with session := away r.session } } }

/-- A session closes or is lost (R418, R423, R506). -/
def endSession (s : State) (n : Nat) : State :=
  match s.session n with
  | none => s
  | some _ =>
    let s := forgetSession (s.setSession n none) n
    let s := { s with
      ports := { s.ports with closedAt := oput s.ports.closedAt n (some s.power.now) },
      sec := { s.sec with fwSeg := s.sec.fwSeg.filter fun f => f.1 != n } }
    let s := (keysOf s.ports.conns).foldl (fun s c => if (s.conn c).any (·.session == n) then removeConn s c else s) s
    let mine (k : WatchKind) : Bool := match k with | .once k | .every k => k == n | _ => false
    let s := dropWakes (removeWatches s fun w => mine w.kind) mine
    let s := (List.range 256).foldl (fun s r =>
      if (oget s.xlat.records r).any fun m => (s.ctx m.ctx).migSession == n then migrationFail s r else s) s
    folioLostSession s n

/-! ## OPEN, CLOSE, ACK -/

/-- Whether an address matches a record's prefix. -/
def allowMatch (r : BitVec 256) (ip : BitVec 128) : Bool :=
  let n := fld r 128 8
  n ≤ 128 && decide (fld r 0 128 >>> (128 - n) = ip.toNat >>> (128 - n))

/-- The tenant and OPERATOR that an OPEN receives, or its refusal (R416, R527, R539). -/
def openGrant (s : State) (m : Msg) : Except Status (Nat × Bool) :=
  if s.power.devState = .recovery then
    if presenceOpen s then .ok (0, true) else .error Code.presenceRequired
  else
    let recs := allowRecs s
    if recs = [] then
      if m.vlan.toNat ≠ (vlansOf s m.port).2 then .error Code.sessionNotAllowed
      else if presenceOpen s then .ok (0, true) else .error Code.presenceRequired
    else match recs.find? fun r => allowMatch r m.srcIp with
      | some r => .ok (fld r 136 8, bit r 144)
      | none => .error Code.sessionNotAllowed

/-- The lowest free session number that has been closed for 1 ms (R416, R418). -/
def freeSession (s : State) : Option Nat :=
  firstBelow 256 fun n => (s.session n).isNone &&
    (oget s.ports.closedAt n).all fun t => decide (t + 1000000 ≤ s.power.now)

/-- Answer an OPEN. -/
def openReply (s : State) (m : Msg) (session : Nat) (st : Status) (arg0 : DWord) : State :=
  emit s (.unseq m.port session m.srcIp m.srcUdp (OutMsg.plain 2 st m.tag arg0) 0 false)

/-- OPEN (R416); the KEY_TAG is a free value. -/
def execOpenSession (m : Msg) (s : State) : Out :=
  .next (msgArrives s m false true fun s =>
  if !msgOk m || m.arg0 != 0 || m.payload != [] || m.session != 0xFFFF then s
  else match openGrant s m with
  | .error st => openReply s m 0xFFFF st 0
  | .ok (tenant, op) => match freeSession s with
    | none => openReply s m 0xFFFF Code.sessionTableFull 0
    | some n =>
      let d := s.draw
      let tag := Config.free d.1 % 2 ^ 22
      let x : Session :=
        { port := m.port, ip := m.srcIp, udp := m.srcUdp, tenant := tenant, operator := op, keyTag := BitVec.ofNat 22 tag,
          rxNext := 0, txNext := 0, unacked := [], resends := 0, backoff := firstBackoff, owed := 0 }
      openReply (d.2.setSession n (some x)) m n Code.success (BitVec.ofNat 64 (tag ||| tenant <<< 22 ||| b2n op <<< 30)))

/-- CLOSE (R417, R418): acknowledged at once. -/
def execCloseSession (m : Msg) (s : State) : Out :=
  .next (smtSeq s m false (m.arg0 == 0 && m.payload == []) fun s _ =>
    endSession (smtAck s m.session.toNat false) m.session.toNat)

/-- ACK: consumes no sequence number (R417, R419). -/
def execAck (m : Msg) (s : State) : Out :=
  .next (msgArrives s m false false fun s =>
    if !msgOk m || m.arg0 != 0 || m.payload != [] then smtBad s m
    else match sessionOf s m with
    | none => s
    | some _ => if m.ackValid then smtAcked s m.session.toNat m.ack m.gap else s)

/-! ## Timers -/

/-- SMT_ACK_TIMER: an acknowledgement is owed 2 µs after the oldest unacknowledged message (R417). -/
def execSmtAckTimer (session : Nat) (s : State) : Out :=
  .next (if bit s.power.clocks 1 && (s.session session).any (fun x => decide (0 < x.owed)) then smtAck s session false else s)

/-- SMT_RESEND_TIMER: a resend without progress; the wait doubles up to 1 ms; at most 12 (R417). -/
def execSmtResendTimer (session : Nat) (s : State) : Out :=
  match s.session session with
  | none => .next s
  | some x =>
    if !bit s.power.clocks 1 || x.unacked == [] || decide (12 ≤ x.resends) then .next s else
    .next (resendWindow (s.setSession session (some { x with resends := x.resends + 1, backoff := Nat.min 1000000 (2 * x.backoff) }))
      session)

/-- SESSION_LOST: 12 resends without progress (R417, R418). -/
def execSessionLost (session : Nat) (s : State) : Out :=
  match s.session session with
  | none => .next s
  | some x => .next (if bit s.power.clocks 1 && decide (12 ≤ x.resends) && x.unacked != [] then endSession s session else s)

end Sys2Proof.Machine
end

