-- ==== Sys2Proof/Machine/Lsu.lean ====
section
/-! DEFINITION. Memory access, atomics, fences and cache maintenance, opcode rows 0x6 and 0x7 (R119 to R133), and the events
that perform what they issue (R251, R252, R277, R285, R289). -/

namespace Sys2Proof.Machine

/-! ## Issue -/

/-- Registers of a lane's data. -/
def mRegs (f : MFields) : Nat := if f.size = 4 then 4 else if f.size = 3 then 2 else 1

/-- Bytes of a lane's access. -/
def mBytes (f : MFields) : Nat := 2 ^ f.size.toNat

/-- The form of an M-format instruction. -/
def mForm (f : MFields) (dataDst dataSrc : Bool) (d2 : Role) (legal : Bool) : Form :=
  let du := Use.mk f.data (mRegs f)
  let au := Use.mk f.addr (if f.space then 1 else 2)
  let w := match d2 with | .wreg _ => d2.dst f.data2 | _ => []
  { guard := f.guard, dsts := (if dataDst then [du] else []) ++ w,
    srcs := (if dataSrc then [(du, f.reuseData)] else []) ++ [(au, f.reuseAddr)] ++ d2.src f.data2 f.reuseD2,
    legal := legal && du.ok && au.ok && d2.ok f.data2 f.reuseD2 && (dataSrc || !f.reuseData) && decide (f.size.toNat < 5),
    uniform := false }

/-- A lane's address (SPACE 0: 64 bits, SPACE 1: 32 bits). -/
def mAddr (f : MFields) (g : Group) (l : Nat) : Nat :=
  if f.space then ((g.reg l f.addr.toNat) + f.offset.signExtend 32).toNat
  else (BitVec.ofNat 64 (g.run l ⟨f.addr, 2⟩) + f.offset.signExtend 64).toNat

/-- The kind of translation of an access. -/
def AccKind.xkind : AccKind → XKind
  | .load | .ldRes => .read
  | .atomic _ _ => .atomic
  | _ => .write

/-- Port cycles of a global access: distinct sectors, at least one (R89). -/
def sectorCost (as : List Nat) : Nat := Nat.max 1 (as.map (· / 32)).eraseDups.length

/-- Port cycles of a local-store access: the most distinct words in one bank (R90). -/
def bankCost (n : Nat) (as : List Nat) : Nat :=
  let words := (as.flatMap fun a => (List.range (Nat.max 1 (n / 4))).map fun i => a / 4 + i).eraseDups
  (List.range 32).foldl (fun m b => Nat.max m (words.filter (· % 32 == b)).length) 1

/-- What an access of a target is keyed by: its end point, window flag and the line, or the address of a remote or
device-type atomic (R290 to R294). -/
def targetKey (kind : AccKind) (addr : Nat) (t : Target) : EndPoint × Bool × Nat :=
  let a := match t with | .phys _ _ => targetAddr t | .remote _ _ _ => addr
  let point := match t with | .phys p d => endPointOf p d | .remote n _ _ => .remote n
  let fine := match kind, point with
    | .atomic _ _, .remote _ => true
    | .atomic _ _, .vault _ => true
    | _, _ => false
  (point, targetWindow t, if fine then a else a / 128)

/-- The accesses of translated lanes: normal type by line, device type by lane and 4-byte piece (R280, R290, R291). -/
def splitLanes (p : Access) (ls : List (LaneAcc × Target)) : List Access :=
  let dev (t : Target) : Bool := match t with | .phys _ d => d | .remote _ _ d => d
  let at_ (l : LaneAcc) (t : Target) : LaneAcc := { l with addr := targetAddr t }
  let isAtomic := match p.kind with | .atomic _ _ => true | _ => false
  let pieces := (ls.filter fun x => dev x.2 && !isAtomic).flatMap fun x =>
    let k := targetKey p.kind 0 x.2
    (List.range (Nat.max 1 (p.size / 4))).map fun i =>
      let l := at_ x.1 x.2
      { p with
        dev := true, size := Nat.min 4 p.size, part := i, target := k.1, win := k.2.1,
        dst := if p.dst = ZR then ZR else p.dst + BitVec.ofNat 9 i,
        lanes := [{ l with addr := l.addr + 4 * i, va := l.va + 4 * i, data := l.data >>> (32 * i) }] }
  let whole := ls.filter fun x => !dev x.2 || isAtomic
  let key (x : LaneAcc × Target) := targetKey p.kind (targetAddr x.2) x.2
  let lines := ((whole.map key).eraseDups).map fun k =>
    let here := whole.filter fun x => key x == k
    { p with
      target := k.1, win := k.2.1, dev := here.any fun x => dev x.2,
      lanes := here.map fun x => at_ x.1 x.2 }
  pieces ++ lines

/-- Whether the L1 can accept a store as soon as it is issued (R248): a plain store whose instruction goes to DRAM of this device
in every lane, behind nothing but stores that the L1 has accepted. -/
def acceptable (s : State) (a : Access) : Bool :=
  a.kind == .store && !a.rel && !a.l1off && a.engine.isGroup &&
  (s.accesses.filter (·.sibling a)).all (fun b => !b.untranslated && !b.dev && (match b.target with | .home _ => true | _ => false)) &&
  !s.accesses.any fun b => !b.accepted && b.blocks s a

/-- The L1 accepts a store: the copies of its sectors and the fills under way take it (R248, R252). -/
def l1Accept (s : State) (a : Access) : State :=
  if !acceptable s a then s else
  let d := storeData a
  updateL1 (s.modAccess a.id fun a => { a with accepted := true }) a a.line d.1 d.2

/-- Add the accesses of one instruction under its number `ins`. -/
def pushAccesses (s : State) (ins : Nat) (as : List Access) : State :=
  let s := as.foldl (fun s a =>
    { s with accesses := s.accesses ++ [{ a with id := s.nextAcc, ins := ins }], nextAcc := s.nextAcc + 1 }) s
  (s.accesses.filter fun a => a.ins == ins && a.kind == .store).foldl l1Accept s

/-- Add an access of lanes whose page migrates; it is queued on the page's record, or tries again while every record is busy
(R351, R355). -/
def pushMigrating (s : State) (ins page : Nat) (a : Access) : State :=
  let r := joinMigration s a.ctx page (.access s.nextAcc) (accessInfo a (laneTrap 0 a.lanes.head? none))
  let add (st : AccStage) : State :=
    { r.2 with accesses := r.2.accesses ++ [{ a with id := r.2.nextAcc, ins := ins, stage := st }], nextAcc := r.2.nextAcc + 1 }
  match r.1 with
  | .queued n => add (.migrating n)
  | .busy => add .retry
  | .failed _ => { r.2 with accesses := r.2.accesses.filter fun b => !(b.ins == ins && b.engine == a.engine) }

/-- Add what translated lanes and lanes of migrating pages make. A lane whose page migrates waits with the address that its leaf
names (R344), so that later accesses to it stay behind it. -/
def pushLanes (s : State) (ins : Nat) (p : Access) (ls : List (LaneAcc × Except XFail (Leaf × Target))) : State :=
  let ok := ls.filterMap fun x => match x.2 with | .ok t => some (x.1, t.2) | .error _ => none
  let late := ls.filterMap fun x => match x.2 with | .error (.migrate g) => some (g, x.1) | _ => none
  let waiting := ((late.map (·.1)).eraseDups).flatMap fun g =>
    (splitLanes p ((late.filter (·.1 == g)).map fun x => (x.2, migratingTarget s p.ctx x.2.va))).map fun a => (g, a)
  let s := waiting.foldl (fun s x => if ((s.ctx p.ctx).state = .live ∨ (s.ctx p.ctx).state = .teardown)
    then pushMigrating s ins x.1 x.2 else s) s
  if waiting ≠ [] ∧ (s.ctx p.ctx).state ≠ .live ∧ (s.ctx p.ctx).state ≠ .teardown then s
  else pushAccesses s ins (splitLanes p ok)

/-- The exception of a translated lane: a translation fault, or an atomic that its target refuses (R119, R292, R293). -/
def laneFault (kind : AccKind) (x : LaneAcc × Except XFail (Leaf × Target)) : Option Trap :=
  let bad : Option Trap := some (laneTrap Code.translationFault (some x.1) none)
  match x.2 with
  | .error .fault => bad
  | .ok (_, .phys pa _) =>
    if regionOf pa = .reserved then bad else
    match kind with
    | .atomic _ _ => if regionOf pa = .dram then none else bad
    | _ => none
  | _ => none

/-- The poisoned table entry that a lane's walk met (R41). -/
def lanePoison (x : LaneAcc × Except XFail (Leaf × Target)) : Option Trap :=
  match x.2 with | .error (.poison pa) => some (laneTrap Code.poisonConsumed (some x.1) (some pa)) | _ => none

/-- The access that an M-format instruction makes, before its lanes are placed. -/
def mProto (e : Env) (f : MFields) (kind : AccKind) (acq rel : Bool) : Access :=
  { id := 0, ins := 0, engine := .group e.c e.k, ctx := e.l.ctx, launch := e.n, kind := kind, pc := e.g.pc, acq := acq, rel := rel,
    dev := false, size := mBytes f, sext := f.sext,
    cache := (match kind with
      | .atomic _ _ => BitVec.ofNat 2 e.l.subnormal
      | _ => f.cache),
    dst := f.data, dst2 := f.data2, part := 0, target := .localStore e.c, win := false, lanes := [], poison := 0,
    noAlloc := false, accepted := false, l1off := e.l.l1Off, epoch := e.g.epoch, stage := .issued }

/-- The lanes of an M-format instruction. -/
def mLanes (e : Env) (f : MFields) (i : Form) : List LaneAcc :=
  (e.acts i).map fun l =>
    { lane := l, addr := mAddr f e.g l, va := mAddr f e.g l, data := BitVec.ofNat 128 (e.g.run l ⟨f.data, mRegs f⟩),
      cmp := BitVec.ofNat 128 (e.g.run l ⟨f.data2, mRegs f⟩) }

/-- The effect of an M-format instruction on local store: one access of all its lanes (R238). -/
def localEffect (e : Env) (f : MFields) (i : Form) (p : Access) (ls : List LaneAcc) : Except Trap State :=
  match ls.find? fun l => e.l.lsPer * 1024 < l.addr + mBytes f with
  | some l => .error { status := Code.localStoreRange, lane := some l.lane, va := none, pa := none }
  | none =>
    let base := ((blockOf e.s e.c e.g).map (·.region)).getD 0 * e.l.lsBlk
    let s := pushAccesses e.s e.s.nextAcc [{ p with lanes := ls.map fun l => { l with addr := base + l.addr } }]
    .ok (setCost (advance e i s) e.c e.quad (bankCost (mBytes f) (ls.map (·.addr))))

/-- Whether a lane that raises a translation fault must wait for a fault record (R351): its instruction then does not issue yet. -/
def laneWaits (s : State) (ctx : Nat) (x : LaneAcc × Except XFail (Leaf × Target)) : Bool :=
  match x.2 with | .error .fault => decide (x.1.va < 2 ^ 56) && faultWaits s ctx x.1.va | _ => false

/-- The lanes of a global access with their translations. -/
def xlatLanes (s : State) (c ctx : Nat) (kind : AccKind) (ls : List LaneAcc) : List (LaneAcc × Except XFail (Leaf × Target)) :=
  ls.map fun l => (l, if 2 ^ 56 ≤ l.va then Except.error XFail.fault else translate s (.core c) ctx l.va kind.xkind)

/-- The effect of an M-format instruction on global memory (R119): the lanes are looked up, and the first exception of R92 is
taken. -/
def globalEffect (e : Env) (i : Form) (p : Access) (ls : List LaneAcc) : Except Trap State :=
  let s := lookUps e.s (.core e.c) e.l.ctx ((ls.map (·.va)).filter (· < 2 ^ 56))
  let xs := xlatLanes s e.c e.l.ctx p.kind ls
  if xs.any (laneWaits s e.l.ctx) then .ok s
  else match xs.findSome? (laneFault p.kind) with
  | some t => .ok (takeTrap e s t)
  | none => match xs.findSome? lanePoison with
    | some t => .ok (takeTrap e s t)
    | none =>
      .ok (setCost (advance e i (pushLanes s s.nextAcc p xs)) e.c e.quad (sectorCost (ls.map (·.va))))

/-- The effect of an M-format instruction (R88, R91, R119); without an acting lane it costs its port one cycle (R89, R90). -/
def memEffect (f : MFields) (i : Form) (kind : AccKind) (acq rel : Bool) (e : Env) : Except Trap State :=
  let ls := mLanes e f i
  if ls = [] then .ok (setCost (advance e i e.s) e.c e.quad 1) else
  match ls.find? fun l => l.addr % mBytes f ≠ 0 with
  | some l => .error { status := Code.misaligned, lane := some l.lane, va := if f.space then none else some l.va, pa := none }
  | none =>
    let p := mProto e f kind acq rel
    if f.space then localEffect e f i p ls else globalEffect e i p ls

/-- CACHE and SPACE of a load or store (R121). -/
def ldstOk (f : MFields) : Bool := f.cache != 3 && (!f.space || f.cache == 0)

/-- `ld`. -/
def execLd (r : GroupRef) (f : MFields) (s : State) : Out :=
  let i := mForm f true false .unused (ldstOk f && (!f.sext || decide (f.size.toNat < 2)) && decide (f.sem.toNat < 2))
  issue s r i (memEffect f i .load (f.sem == 1) false)

/-- `st`. -/
def execSt (r : GroupRef) (f : MFields) (s : State) : Out :=
  let i := mForm f false true .unused (ldstOk f && !f.sext && (f.sem == 0 || f.sem == 2))
  issue s r i (memEffect f i .store false (f.sem == 2))

/-- What `ld.res` and `st.cond` both require (R122, R123). -/
def pairOk (f : MFields) : Bool := decide (2 ≤ f.size.toNat) && !f.space && f.cache == 0 && !f.sext

/-- `ld.res`. -/
def execLdRes (r : GroupRef) (f : MFields) (s : State) : Out :=
  let i := mForm f true false .unused (pairOk f && decide (f.sem.toNat < 2))
  issue s r i (memEffect f i .ldRes (f.sem == 1) false)

/-- `st.cond`. -/
def execStCond (r : GroupRef) (f : MFields) (s : State) : Out :=
  let i := mForm f false true (.wreg 1) (pairOk f && (f.sem == 0 || f.sem == 2))
  issue s r i (memEffect f i .stCond false (f.sem == 2))

/-- Issue an atomic (R125). -/
def atomIssue (r : GroupRef) (f : MFields) (op : AtomOp) (float cmp : Bool) (s : State) : Out :=
  let i := mForm f true true (if cmp then .reg (mRegs f) else .unused)
    ((f.size == 2 || f.size == 3) && !f.sext && f.cache != 3 && (float || f.cache != 2))
  issue s r i (memEffect f i (.atomic op f.cache) (bit f.sem 0) (bit f.sem 1))

/-- `atom.add`. -/
def execAtomAdd (r : GroupRef) (f : MFields) (s : State) : Out := atomIssue r f .add true false s

/-- `atom.min`. -/
def execAtomMin (r : GroupRef) (f : MFields) (s : State) : Out := atomIssue r f .min true false s

/-- `atom.max`. -/
def execAtomMax (r : GroupRef) (f : MFields) (s : State) : Out := atomIssue r f .max true false s

/-- `atom.and`. -/
def execAtomAnd (r : GroupRef) (f : MFields) (s : State) : Out := atomIssue r f .and false false s

/-- `atom.or`. -/
def execAtomOr (r : GroupRef) (f : MFields) (s : State) : Out := atomIssue r f .or false false s

/-- `atom.xor`. -/
def execAtomXor (r : GroupRef) (f : MFields) (s : State) : Out := atomIssue r f .xor false false s

/-- `atom.exch`. -/
def execAtomExch (r : GroupRef) (f : MFields) (s : State) : Out := atomIssue r f .exch false false s

/-- `atom.cas`. -/
def execAtomCas (r : GroupRef) (f : MFields) (s : State) : Out := atomIssue r f .cas false true s

/-! ## Fences (R129, R130, R288, R289) -/

/-- The form of an instruction that uses no field beyond OPCODE and GUARD. -/
def bareForm (f : RFields) : Form := rForm f .unused .unused .unused .unused (f.mod == 0) false false

/-- `fence.order`. -/
def execFenceOrder (r : GroupRef) (f : RFields) (s : State) : Out :=
  let i := bareForm f
  issue s r i fun e =>
    if e.acts i = [] then .ok (advance e i e.s)
    else .ok (withGroup e i { e.g with epoch := e.g.epoch + 1 })

/-- `fence.done`: the group waits at the fence. -/
def execFenceDone (r : GroupRef) (f : RFields) (s : State) : Out :=
  let i := bareForm f
  issue s r i fun e =>
    if e.acts i = [] then .ok (advance e i e.s)
    else
      let s := accountIssue e.s e.c e.quad e.slot i.srcs i.dsts
      .ok (s.setGroup e.c e.k (some { e.g with wait := .fence e.s.nextAcc }))

/-- A group that waits: its command's core, key, group and launch. -/
def waiting? (s : State) (r : GroupRef) : Option (Group × Launch) :=
  if r.core < coreCount ∧ r.quad < 4 ∧ r.slot < 16 ∧ clusterUp s (r.core / 16) then
    match s.group r.core (gkey r) with
    | none => none
    | some g => (s.launch g.launch).map fun l => (g, l)
  else none

/-- End a group's wait at its present instruction and continue behind it. -/
def resumeGroup (s : State) (c k : Nat) (l : Launch) : State :=
  settle c k l settleFuel (s.modGroup c k fun g => { g with wait := .ready, pc := g.pc + 8 })

/-- FENCE_DONE_RELEASE: every earlier access has completed; a failed one raises remote write lost at the fence (R130, R289). -/
def execFenceDoneRelease (r : GroupRef) (s : State) : Out :=
  match waiting? s r with
  | none => .next s
  | some (g, l) => match g.wait with
    | .fence before =>
      let mine := s.accesses.filter fun a => a.by r.core (gkey r) g.launch && decide (a.ins < before)
      if mine.any Access.open then .next s
      else if mine.any Access.hasFailed then
        .next (raiseFault s (groupInfo l.ctx r.core (gkey r) g.pc (Trap.plain Code.remoteWriteLost)))
      else .next (resumeGroup (acquireL1 s r.core l.l1Off) r.core (gkey r) l)
    | _ => .next s

/-! ## Cache maintenance (R131 to R133) -/

/-- The form of `cmo` and `cmo.sw`. -/
def cmoForm (f : RFields) (n levels : Nat) : Form :=
  rForm f .unused (.reg n) (.reg 1) .unused (decide (fld f.mod 0 2 < levels) && fld f.mod 2 2 != 0 && fld f.mod 4 8 == 0) true false

/-- The access of a maintenance instruction. -/
def maintProto (e : Env) (level op size : Nat) (target : EndPoint) (ls : List Nat) : Access :=
  { id := 0, ins := 0, engine := .group e.c e.k, ctx := e.l.ctx, launch := e.n, kind := .maint level op, pc := e.g.pc,
    acq := false, rel := false, dev := false, size := size, sext := false, cache := 0, dst := ZR, dst2 := ZR, part := 0,
    target := target, win := false, lanes := ls.map fun l => { lane := 0, addr := l, va := 0, data := 0, cmp := 0 },
    poison := 0, noAlloc := false, accepted := false, l1off := e.l.l1Off, epoch := e.g.epoch, stage := .issued }

/-- The lines of this device's caches in one page of a maintenance range, or why the page may not be acted on (R131), in a state
whose caches were looked up for it. -/
def cmoLines (s : State) (u : XUnit) (ctx op : Nat) (part : Nat × Nat) : Except XFail (List Nat) :=
  let va := part.1
  if 2 ^ 56 ≤ va then .error .fault else
  match (if translationHeld s u ctx va then none else walkPoison s ctx va) with
  | some pa => .error (.poison pa)
  | none => match findLeaf s ctx va with
    | none => .error .fault
    | some l =>
      if 2 ≤ op ∧ !bit l.word 4 then .error .fault
      else if !leafDram l then .ok []
      else
        let pa := leafAddr l.word + (va - l.va)
        .ok ((List.range ((pa + part.2 - 1) / 128 - pa / 128 + 1)).map (pa / 128 + ·))

/-- The lines of a whole range, or the first page that may not be acted on; and the state that the lookups leave. -/
def cmoRange (s : State) (u : XUnit) (ctx op va n : Nat) : Except (XFail × Nat) (List Nat) × State :=
  (pageParts va n).foldl (fun acc p => match acc with
    | (.error x, s) => (.error x, s)
    | (.ok ls, s) =>
      let s := if 2 ^ 56 ≤ p.1 then s else lookUp s u ctx p.1
      match cmoLines s u ctx op p with
      | .error f => (.error (f, p.1), s)
      | .ok ms => (.ok (ls ++ ms), s)) (.ok [], s)

/-- `cmo` (R131). -/
def execCmo (r : GroupRef) (f : RFields) (s : State) : Out :=
  let i := cmoForm f 2 3
  let op := fld f.mod 2 2
  issue s r i fun e =>
    let n := (e.g.reg 0 f.srcB.toNat).toNat
    if e.acts i = [] ∨ n = 0 then .ok (advance e i e.s) else
    let x := cmoRange e.s (.core e.c) e.l.ctx op (e.g.run 0 ⟨f.srcA, 2⟩) n
    match x.1 with
    | .error (.poison pa, va) =>
      .ok (takeTrap e x.2 { status := Code.poisonConsumed, lane := none, va := some va, pa := some pa })
    | .error (_, va) =>
      if va < 2 ^ 56 ∧ faultWaits x.2 e.l.ctx va then .ok x.2
      else .ok (takeTrap e x.2 { status := Code.translationFault, lane := none, va := some va, pa := none })
    | .ok ls =>
      let homes := (ls.map homeOfLine).eraseDups
      .ok (advance e i (pushAccesses x.2 x.2.nextAcc (homes.map fun h =>
        maintProto e (fld f.mod 0 2) op 0 (.home h) (ls.filter fun l => homeOfLine l == h))))

/-- `cmo.sw` (R132): level 1 only in a launch from a kernel queue. -/
def execCmoSw (r : GroupRef) (f : RFields) (s : State) : Out :=
  let i := cmoForm f 1 2
  let level := fld f.mod 0 2
  issue s r i fun e =>
    let set := (e.g.reg 0 f.srcA.toNat).toNat
    let way := (e.g.reg 0 f.srcB.toNat).toNat
    if e.acts i = [] then .ok (advance e i e.s)
    else if level = 1 ∧ (e.s.queue e.l.queue).cls ≠ .kernel then .error (Trap.plain Code.illegalInstruction)
    else
      let ways := if level = 0 then 4 else 16
      let sets := if level = 0 then (e.s.core e.c).nsets else 4096
      if sets ≤ set ∨ ways ≤ way then .ok (advance e i e.s)
      else .ok (advance e i (pushAccesses e.s e.s.nextAcc
        [maintProto e level (fld f.mod 2 2) 1 (.home (e.c / 16)) [set * ways + way]]))

/-! ## The events that perform accesses -/

/-- Translate a waiting access again (R351, R353 to R355). -/
def retryAccess (s : State) (a : Access) : State :=
  let s := lookUps s (.core a.engine.core) a.ctx (a.lanes.map (·.va))
  let xs := xlatLanes s a.engine.core a.ctx a.kind a.lanes
  let gone := xs.any fun x => match x.2 with | .error .lost => true | _ => false
  if gone then { s with accesses := s.accesses.filter fun b => !b.sibling a }
  else if xs.any (laneWaits s a.ctx) then s
  else match xs.findSome? (laneFault a.kind) with
  | some t => accessFault s a t
  | none => match xs.findSome? lanePoison with
    | some t => accessFault s a t
    | none => pushLanes (s.dropAccess a.id) a.ins { a with stage := .issued } xs

/-- Record `r` is free again: what was queued on it goes on in queue order, each engine translating again (R353); the Desk, the
fetches, the streamers and the plan engines try their step again themselves. -/
def resumeQueue (s : State) (m : MigRec) : State :=
  m.queue.foldl (fun s w => match w with
    | .access id => match s.access id with
      | some a => retryAccess s a
      | none => s
    | .record n => writeRecord s n
    | _ => s) s

/-- Whether the clocks that an end point needs run (R555). -/
def endPointUp (s : State) (t : EndPoint) : Bool :=
  match t with
  | .home n => clusterUp s n
  | .vault _ => bit s.power.clocks 2
  | .localStore c => clusterUp s (c / 16)
  | _ => true

/-- ACCESS_COMPLETE: the access is performed at its end point when nothing holds it back (R277 to R281, R286, R288). -/
def execAccessComplete (acc : Nat) (s : State) : Out :=
  match s.access acc with
  | none => .next s
  | some a => match a.stage with
    | .issued => .next (if mayPerform s a && endPointUp s a.target then performAccess s a else s)
    | .retry => .next (retryAccess s a)
    | _ => .next s

/-- The signal of a tally, or the end of the wait of a releasing store or atomic (R134, R285, R303). -/
def execReleasePerform (acc : Nat) (s : State) : Out :=
  match s.access acc with
  | none => .next s
  | some a =>
    if !a.rel || a.stage != .issued || !releaseReady s a then .next s
    else if releaseFailed s a then .next (accessFault s a (Trap.plain Code.remoteWriteLost))
    else match a.kind with
    | .signal add n v =>
      let r := tallySignal s add n v a.ctx (tenantOf s a.ctx) Code.success
      .next (match groupOf r.2 a with
        | some (c, k, _) => (writeLanes r.2 c k a.dst 1 [(0, r.1.toNat)]).dropAccess a.id
        | none => r.2.dropAccess a.id)
    | _ => .next { s with accesses := s.accesses.map fun b => if b.sibling a then { b with rel := false } else b }

/-- The line that a fill delivers: the sectors that the L1 still holds, the others from the home, and the stores made meanwhile
(R247, R252). -/
def fillLine (s : State) (c : Nat) (m : Miss) (need : BitVec 4) : (Line × BitVec 4) × State :=
  let here := match (s.core c).l1Find m.line with
    | some k => (s.core c).l1Way k
    | none => L1Line.none
  let want := need &&& ~~~here.valid
  let r := homeRead s m.line want false
  let x := (below 4 fun i => bit need i).foldl (fun (x : Line × BitVec 4) i =>
    if bit here.valid i then (putSector x.1 i (getSector here.data i), setBit x.2 i (bit here.poison i))
    else (putSector x.1 i (getSector r.1.1 i), setBit x.2 i (bit r.1.2 i))) ((0 : Line), (0 : BitVec 4))
  let d := m.overlay.foldl (fun d e => match e.2 with
    | some b => mergeLine d (placeBytes e.1 [b.2]) (byteMask e.1 1)
    | none => d) x.1
  ((d, x.2), r.2)

/-- Install a filled line (R249, R250). -/
def installFill (c : Core) (line : Nat) (d : Line) (p valid : BitVec 4) (age : BitVec 2) : Core :=
  match c.l1Find line with
  | some k =>
    let w := c.l1Way k
    c.setL1 k { w with
      valid := w.valid ||| valid, age := age,
      data := (below 4 fun i => bit valid i).foldl (fun x i => putSector x i (getSector d i)) w.data,
      poison := (below 4 fun i => bit valid i).foldl (fun x i => setBit x i (bit p i)) w.poison }
  | none =>
    let v := c.l1Victim line
    v.2.setL1 v.1 { line := line, valid := valid, poison := p &&& valid, age := age, data := d }

/-- Whether a fill must still wait for stores that the L1 accepted before the miss was sent: what it reads at the home contains
them (R283, R284). -/
def fillWaits (s : State) (core : Nat) (m : Miss) : Bool :=
  s.accesses.any fun a => a.accepted && a.open && a.engine.core == core && a.line == m.line && decide (a.id < m.before)

/-- The AGE that a fill gives its line: the access that waits with the lowest number decides, and without one AGE is 1 (R249,
LOG 133). -/
def fillAge (waiting : List Access) : BitVec 2 := if (waiting.head?.map (·.cache)) = some 1 then 3 else 1

/-- L1_FILL: a fill arrives, is installed unless its line was invalidated after the miss was sent, and is delivered (R252). -/
def execL1Fill (core line : Nat) (s : State) : Out :=
  match (s.core core).misses.find? (·.line == line) with
  | none => .next s
  | some m =>
    if !clusterUp s (homeOfLine line) || fillWaits s core m then .next s else
    let waiting := s.accesses.filter fun a => m.accesses.contains a.id
    let r := fillLine s core m m.sectors
    let s := r.2.modCore core fun k =>
      let k := { k with misses := k.misses.filter (·.line != line) }
      if m.invalidated then k else installFill k line r.1.1 r.1.2 m.sectors (fillAge waiting)
    .next (waiting.foldl (fun s a => if (s.access a.id).isSome then completeRead s a (lineVal r.1.1 r.1.2 a.size) else s) s)

end Sys2Proof.Machine
end

