-- ==== Sys2Proof/Machine/Sync.lean ====
section
/-! DEFINITION. Tally and barrier instructions, opcode row 0x8, and the release of a device-wide barrier
(R84 to R87, R134, R135, R320, R331). -/

namespace Sys2Proof.Machine

/-- Whether an earlier acquire of the group is still on its way: no later access is performed before it (R286). -/
def acquiring (e : Env) : Bool := e.s.accesses.any fun a => a.by e.c e.k e.n && a.open && a.acq

/-- The access of `tly.sig` and `tly.add`: it is performed with its release (R134, R285). -/
def signalAccess (e : Env) (f : RFields) (add : Bool) : Access :=
  { id := 0, ins := 0, engine := .group e.c e.k, ctx := e.l.ctx, launch := e.n,
    kind := .signal add (e.g.reg 0 f.srcA.toNat).toNat (e.g.run 0 ⟨f.srcB, 2⟩), pc := e.g.pc, acq := false, rel := true,
    dev := false, size := 0, sext := false, cache := 0, dst := f.dst, dst2 := ZR, part := 0, target := .syncHub, win := false,
    lanes := [], poison := 0, noAlloc := false, accepted := false, l1off := e.l.l1Off, epoch := e.g.epoch, stage := .issued }

/-- Issue a signal or an add. -/
def signalIssue (r : GroupRef) (f : RFields) (add : Bool) (s : State) : Out :=
  let i := rForm f (.reg 1) (.reg 1) (.reg 2) .zr (f.mod == 0) true false
  issue s r i fun e =>
    if e.acts i = [] then .ok (advance e i e.s)
    else .ok (advance e i (pushAccesses e.s e.s.nextAcc [signalAccess e f add]))

/-- `tly.sig`. -/
def execTlySig (r : GroupRef) (f : RFields) (s : State) : Out := signalIssue r f false s

/-- `tly.add`. -/
def execTlyAdd (r : GroupRef) (f : RFields) (s : State) : Out := signalIssue r f true s

/-- Write the status, and the tally word where the instruction writes it: then it is an acquire (R134, R286). -/
def tallyResult (e : Env) (i : Form) (f : RFields) (st : Status) (word : Option DWord) (s : State) : State :=
  let g := e.g.setRun 0 ⟨f.dst, 1⟩ st.toNat
  match word with
  | none => advance e i (s.setGroup e.c e.k (some g))
  | some w => advance e i (acquireL1 (s.setGroup e.c e.k (some (g.setRun 0 ⟨f.srcC, 2⟩ w.toNat))) e.c e.l.l1Off)

/-- `tly.poll`. -/
def execTlyPoll (r : GroupRef) (f : RFields) (s : State) : Out :=
  let i := rForm f (.reg 1) (.reg 1) .zr (.wreg 2) (f.mod == 0) true false
  issue s r i fun e =>
    let n := (e.g.reg 0 f.srcA.toNat).toNat
    if e.acts i = [] then .ok (advance e i e.s)
    else if acquiring e then .ok e.s
    else if 65535 < n then .ok (tallyResult e i f Code.tallyRange none e.s)
    else if !(e.s.tally n).allows (tenantOf e.s e.l.ctx) then .ok (tallyResult e i f Code.tallyTenant none e.s)
    else .ok (tallyResult e i f Code.success (some (e.s.tally n).word) e.s)

/-- `tly.wait`: evaluated in one step with the registration of its watch; the group sleeps at the instruction (R134, R320). -/
def execTlyWait (r : GroupRef) (f : RFields) (s : State) : Out :=
  let i := rForm f (.reg 1) (.reg 1) (.reg 2) (.wreg 2) (f.mod == 0) true false
  issue s r i fun e =>
    let n := (e.g.reg 0 f.srcA.toNat).toNat
    let target := e.g.run 0 ⟨f.srcB, 2⟩
    let tenant := tenantOf e.s e.l.ctx
    let t := e.s.tally n
    if e.acts i = [] then .ok (advance e i e.s)
    else if acquiring e then .ok e.s
    else if 65535 < n then .ok (tallyResult e i f Code.tallyRange none e.s)
    else if !t.allows tenant then .ok (tallyResult e i f Code.tallyTenant none e.s)
    else if t.abandoned then .ok (tallyResult e i f Code.tallyAbandoned (some t.word) e.s)
    else if target ≤ t.value then .ok (tallyResult e i f Code.success (some t.word) e.s)
    else match registerWatch e.s { kind := .group e.c e.k, tally := n, target := target, tenant := tenant, ctx := e.l.ctx } with
      | none => .ok (tallyResult e i f Code.watchTableFull none (countWatchFull e.s))
      | some s =>
        .ok ((accountIssue s e.c e.quad e.slot i.srcs i.dsts).setGroup e.c e.k (some { e.g with wait := .tally f.dst f.srcC }))

/-- A wake reaches a group asleep in `tly.wait`: the word and status are written, with acquire (R134, R321, R322). -/
def wakeGroup (s : State) (c k : Nat) (w : Wake) : State :=
  match s.group c k with
  | none => s
  | some g => match g.wait, s.launch g.launch with
    | .tally dst word, some l =>
      let g := g.setRun 0 ⟨word, 2⟩ w.word.toNat
      let st : Status := if w.abandoned then Code.tallyAbandoned else Code.success
      let g := g.setRun 0 ⟨dst, 1⟩ st.toNat
      resumeGroup (acquireL1 (s.setGroup c k (some g)) c l.l1Off) c k l
    | _, _ => s

/-! ## Barriers -/

/-- The groups of a block on core `c`: slot keys. -/
def blockGroups (s : State) (c b : Nat) : List (Nat × Group) :=
  (olist (s.core c).work.groups).filter fun e => e.2.block == b

/-- The block barrier releases when every group of the block has arrived or has exited (R86, R87). -/
def releaseBlock (s : State) (c b : Nat) (l : Launch) : State :=
  let gs := blockGroups s c b
  if gs.all fun e => e.2.done || e.2.wait == .barrier then
    (gs.filter fun e => !e.2.done).foldl (fun s e => resumeGroup s c e.1 l) s
  else s

/-- Whether every thread of the group that has not exited is active (R84). -/
def converged (g : Group) : Bool := g.active == ~~~g.exited

/-- Whether the group's earlier local-store writes have been performed: a barrier is not ready before (R299, LOG 42). -/
def localDone (e : Env) : Bool :=
  !e.s.accesses.any fun a => a.by e.c e.k e.n && a.open && a.writesMem && !a.win && a.target == .localStore e.c

/-- `bar.blk` (R84, R85). -/
def execBarBlk (r : GroupRef) (f : RFields) (s : State) : Out :=
  let i := rForm f .unused .unused .unused .unused (f.mod == 0) true false
  issue s r i fun e =>
    if e.acts i = [] then .ok (advance e i e.s)
    else if !converged e.g then .error (Trap.plain Code.divergentBarrier)
    else if !localDone e then .ok e.s
    else
      let s := accountIssue e.s e.c e.quad e.slot i.srcs i.dsts
      .ok (releaseBlock (s.setGroup e.c e.k (some { e.g with wait := .barrier })) e.c e.g.block e.l)

/-- `bar.dev`: MOD[57:52] is the logical channel (R135, R330). -/
def execBarDev (r : GroupRef) (f : RFields) (s : State) : Out :=
  let i := rForm f .unused .unused .unused .unused (fld f.mod 6 6 == 0) true false
  let ch := fld f.mod 0 6
  issue s r i fun e =>
    if e.acts i = [] then .ok (advance e i e.s)
    else if e.l.devBars ≤ ch then .error (Trap.plain Code.illegalInstruction)
    else if !converged e.g then .error (Trap.plain Code.divergentBarrier)
    else
      let s := accountIssue e.s e.c e.quad e.slot i.srcs i.dsts
      .ok (s.setGroup e.c e.k (some { e.g with wait := .channel ch }))

/-- Whether the arrival bits of a launch's channel are all set and some group waits there (R331). -/
def channelReady (s : State) (n ch : Nat) : Bool :=
  let gs := s.cores.flatMap fun c => if c.2.work.launch = some n then (olist c.2.work.groups).map (·.2) else []
  gs.all (fun g => g.done || g.wait == .channel ch) && gs.any (fun g => g.wait == .channel ch) &&
  !s.cores.any fun c => c.2.saved.any (·.launch == some n)

/-- DEVICE_BARRIER_RELEASE: the AND completes, the phase flips and the waiting groups become ready (R331). -/
def execDeviceBarrierRelease (ch : Nat) (s : State) : Out :=
  match oget s.hub.channels ch with
  | none => .next s
  | some b => match s.launch b.launch with
    | none => .next s
    | some l =>
      if !channelReady s b.launch b.logical then .next s else
      let s : State := { s with hub := { s.hub with
        phases := sput (fun _ => false) s.hub.phases ch (!sget (fun _ => false) s.hub.phases ch) } }
      .next (l.cores.foldl (fun s c =>
        ((olist (s.core c).work.groups).filter fun e => e.2.wait == .channel b.logical).foldl
          (fun s e => resumeGroup s c e.1 l) s) s)

end Sys2Proof.Machine
end

