-- ==== Sys2Proof/Machine/Desk.lean ====
section
/-! DEFINITION. The Desk: doorbells, fetching, checking and dispatching packets, and the commands of every queue
(R365 to R390, R319 to R322, R420). -/

namespace Sys2Proof.Machine

/-- Whether the Desk works: its domain's clock runs and start-up has ended (R550, R564). -/
def deskUp (s : State) : Bool := bit s.power.clocks 1 && s.power.devState == .running

/-! ## Doorbells -/

/-- Whether a RECALL has frozen a context (R468). -/
def recalling (s : State) (ctx : Nat) : Bool :=
  s.folio.run.any fun r => r.cmd.kind == .recall && r.cmd.ctx == ctx && r.phase != .waitBoundary

/-- What R373 answers to a doorbell: a refusal, nothing to do (stale), or acceptance. -/
def doorbellCheck (s : State) (n : Nat) (w : Word) (tenant : Nat) (operator : Bool) : Except Status Bool :=
  let q := s.queue n
  if q.state = .disabled then .error Code.queueNotEnabled
  else if tenantOf s q.ctx ≠ tenant ∨ (q.cls = .kernel ∧ !operator) then .error Code.doorbellNotPermitted
  else if q.state = .frozen ∧ recalling s q.ctx then .error Code.contextRecalled
  else if 2 ^ q.log2 < (w - q.retiredPos).toNat then .error Code.doorbellRange
  else if (w - q.readPos).toNat ≤ (q.writePos - q.readPos).toNat then .ok false
  else if q.state = .stopped then .error Code.contextLost
  else .ok true

/-- An accepted doorbell (R375), stamped now (R365); only a serving queue's stamps decide anything (R393). -/
def ringDoorbell (s : State) (n : Nat) (w : Word) : State :=
  let now := s.power.now
  let s := s.modQueue n fun q =>
    { q with writePos := w, pendingBit := true, bells := if q.cls = .serving then q.bells ++ [(now, w)] else q.bells }
  if (s.queue n).state = .idle then setQState s n .active else s

/-- A doorbell for queue `n`: its refusal, or the state after it. -/
def doorbell (s : State) (n : Nat) (w : Word) (tenant : Nat) (operator : Bool) : Except Status State :=
  match doorbellCheck s n w tenant operator with
  | .error st => .error st
  | .ok false => .ok s
  | .ok true => .ok (ringDoorbell s n w)

/-- DOORBELL: silent on success (R420). -/
def execDoorbell (m : Msg) (s : State) : Out :=
  .next (smtFirmware s m (fld m.arg0 12 20 == 0 && m.payload == []) fun s x =>
    match doorbell s (fld m.arg0 0 12) (BitVec.ofNat 32 (fld m.arg0 32 32)) x.tenant x.operator with
    | .ok s => s
    | .error st => sendStatus s m.session.toNat st m.tag)

/-- The Desk's part of a fault record (R600). -/
def deskInfo (s : State) (n pos va : Nat) (st : Status) (pa : Option Nat) : FaultInfo :=
  { ctx := (s.queue n).ctx, status := st, kind := 3, unit := 0, core := 0, slot := 0, lane := none, queue := n, pos := pos,
    pc := 0, va := some va, pa := pa }

/-- The fault record's view of the central translation unit, for what a port reads or writes (R41, R600). -/
def centralInfo (ctx va : Nat) (st : Status) (pa : Option Nat) : FaultInfo :=
  { ctx := ctx, status := st, kind := 4, unit := 0, core := 0, slot := 0, lane := none, queue := 0, pos := 0, pc := 0,
    va := some va, pa := pa }

/-- A walk for a port met a poisoned table entry: the context that owns the table faults (R41). -/
def walkFault (s : State) (ctx : Nat) (f : VFail) : State :=
  match f with
  | .xlat (.poison pa) va => raiseFault s (centralInfo ctx va Code.poisonConsumed (some pa))
  | _ => s

/-- Place packets in the ring of queue `n` from WRITE_POS on; the state after a failed write, with its status. -/
def writeRing (s : State) (n : Nat) (bs : List Byte) : Except (Status × State) State :=
  let q := s.queue n
  (List.range (bs.length / 64)).foldl (fun acc i => match acc with
    | .error e => .error e
    | .ok s =>
      let slot := (q.writePos.toNat + i) % 2 ^ q.log2
      match virtWrite s .desk q.ctx (q.ring + 64 * slot) (sub bs (64 * i) 64) deskMayUse with
      | .ok s => .ok s
      | .error (f, s) => .error (Code.contextLost, walkFault s q.ctx f)) (.ok s)

/-- Write packets into queue `n` and ring its doorbell: what COMMAND and SEND do (R412, R420). A refused one writes nothing. -/
def submit (s : State) (n : Nat) (bs : List Byte) (tenant : Nat) (operator : Bool) :
    Except (Status × State) State :=
  let w := (s.queue n).writePos + BitVec.ofNat 32 (bs.length / 64)
  match doorbellCheck s n w tenant operator with
  | .error st => .error (st, s)
  | .ok _ => match writeRing s n bs with
    | .error e => .error e
    | .ok s => match doorbell s n w tenant operator with
      | .error st => .error (st, s)
      | .ok s => .ok s

/-- COMMAND: 1 to 64 packets for queue 0 (R419, R420). -/
def execCommand (m : Msg) (s : State) : Out :=
  let k := m.payload.length
  .next (smtFirmware s m (m.arg0 == 0) fun s x =>
    if k % 64 ≠ 0 ∨ k < 64 ∨ 4096 < k then sendStatus s m.session.toNat Code.formatError m.tag else
    match submit s 0 m.payload x.tenant x.operator with
    | .ok s => s
    | .error (st, s) => sendStatus s m.session.toNat st m.tag)

/-! ## Packets (R376, R379) -/

/-- Bits [lo + len - 1 : lo] of argument word `i`. -/
def arg (p : BitVec 512) (i lo len : Nat) : Nat := fld p (128 + 64 * i + lo) len

/-- Bits that a command names in an argument word, as (low bit, length). -/
def argFields (cmd i : Nat) : List (Nat × Nat) :=
  match cmd, i with
  | 0x01, 0 => [(0, 56)]
  | 0x02, 0 => [(0, 16)]
  | 0x02, 1 => [(0, 63)]
  | 0x03, 0 => [(0, 17), (32, 8)]
  | 0x03, 1 => [(0, 63)]
  | 0x04, 0 => [(0, 5)]
  | 0x04, 1 => [(0, 56)]
  | 0x04, 2 => [(0, 44)]
  | 0x40, 0 => [(0, 10), (16, 12), (32, 10)]
  | 0x41, 0 => [(0, 10)]
  | 0x42, 0 | 0x43, 0 | 0x44, 0 => [(0, 10), (16, 2)]
  | 0x42, 1 | 0x43, 1 | 0x44, 1 => [(0, 56)]
  | 0x42, 2 | 0x43, 2 | 0x44, 2 => [(0, 16)]
  | 0x42, 3 => [(0, 56)]
  | 0x44, 3 => [(3, 4)]
  | 0x45, 0 => [(0, 4), (8, 17), (32, 9)]
  | 0x45, 1 => [(0, 17)]
  | 0x46, 0 => [(0, 33), (40, 10)]
  | 0x46, 1 => [(0, 63)]
  | 0x47, 0 => [(0, 33)]
  | 0x48, 0 => [(0, 16)]
  | 0x48, 1 => [(0, 56)]
  | 0x49, 0 => [(0, 25)]
  | 0x4A, 0 => [(0, 14), (16, 10), (32, 21)]
  | 0x4A, 1 | 0x4A, 2 => [(0, 56)]
  | 0x4B, 0 => [(0, 12)]
  | 0x4C, 0 | 0x4D, 0 => [(0, 10), (16, 1)]
  | 0x4C, 1 | 0x4D, 1 => [(0, 64)]
  | 0x4C, 2 | 0x4D, 2 => [(0, 56)]
  | 0x4E, 0 => [(0, 10), (16, 7), (32, 9)]
  | 0x4E, 1 => [(0, 56)]
  | 0x4F, 0 => [(0, 14)]
  | _, _ => []

/-- The mask of the bits that a command names in an argument word. -/
def argMask (cmd i : Nat) : Nat := (argFields cmd i).foldl (fun m f => m ||| (2 ^ f.2 - 1) <<< f.1) 0

/-- Whether every reserved bit of a packet of command `cmd` is zero. -/
def packetClear (cmd : Nat) (p : BitVec 512) : Bool :=
  fld p 8 1 == 0 && fld p 12 4 == 0 && fld p 32 32 == 0 && fld p 127 1 == 0 &&
  (List.range 6).all fun i => arg p i 0 64 &&& argMask cmd i == arg p i 0 64

/-- CMD of a packet. -/
def cmdOf (p : BitVec 512) : Nat := fld p 0 8

/-- The commands of R379. -/
def cmdKnown (cmd : Nat) : Bool := decide (cmd ≤ 4) || (decide (0x40 ≤ cmd) && decide (cmd ≤ 0x4F))

/-- What the Desk's check of a packet finds: reserved bits come first (R379, R598). -/
def packetStatus (cls : QClass) (p : BitVec 512) : Status :=
  let cmd := cmdOf p
  if !cmdKnown cmd || !packetClear cmd p then Code.formatError
  else if cls ≠ .kernel ∧ (0x40 ≤ cmd ∨ (cmd = 4 ∧ arg p 0 3 1 = 1)) then Code.privileged
  else if cmd = 0x4F ∧ arg p 0 12 2 = 3 then Code.formatError
  else Code.success

/-! ## Reading through the queue's context (R380) -/

/-- What a failed access of the Desk does: the context is lost, or the Desk waits for a migration (R351, R380). -/
def deskFails (s : State) (n pos va : Nat) (f : VFail) : State :=
  match f with
  | .xlat .lost _ => s
  | .xlat (.migrate page) _ => (joinMigration s (s.queue n).ctx page (.desk n) (deskInfo s n pos va 0 none)).2
  | .xlat (.poison pa) _ | .poisoned _ pa => raiseFault s (deskInfo s n pos va Code.poisonConsumed (some pa))
  | .xlat .fault at_ =>
    if at_ < 2 ^ 56 ∧ faultWaits s (s.queue n).ctx at_ then s else raiseFault s (deskInfo s n pos va Code.translationFault none)
  | .status _ => raiseFault s (deskInfo s n pos va Code.translationFault none)

/-- Read `k` bytes for the packet at `pos`; on failure, the state after what the failure does. -/
def deskRead (s : State) (n pos va k : Nat) : Except State (List Byte × State) :=
  match virtRead s .desk (s.queue n).ctx va k deskMayUse with
  | .ok (g, s) => .ok (g.bytes, s)
  | .error e => .error (deskFails e.2 n pos va e.1)

/-- The virtual address of ring position `pos`. -/
def Queue.slotVa (q : Queue) (pos : Word) : Nat := q.ring + 64 * (pos.toNat % 2 ^ q.log2)

/-- A packet from its bytes. -/
def packetOf (bs : List Byte) : BitVec 512 := BitVec.ofNat 512 (leNat bs)

/-! ## Fetch and dispatch (R375, R377, R378) -/

/-- The fetched packet that the queue may dispatch now: BARRIER waits for every earlier command, and a serving queue for
admission (R377). -/
def readyPacket (s : State) (n : Nat) : Option Fetched :=
  let q := s.queue n
  if deskUp s && (q.state == .active || q.state == .idle) then
    q.cur.head?.filter fun f => (!bit f.packet 9 || q.opened.isEmpty) &&
      (q.cls != .serving || q.isAdmitted (BitVec.ofNat 32 f.pos))
  else none

/-- The packet leaves the fetch stage and becomes an open command. -/
def openCur (s : State) (n : Nat) (f : Fetched) : State :=
  s.modQueue n fun q => { q with cur := q.cur.drop 1, opened := q.opened ++ [⟨f.pos, f.packet⟩] }

/-- The command must wait for a migration: it is not dispatched after all. -/
def putBack (s : State) (n : Nat) (f : Fetched) : State :=
  s.modQueue n fun q => { q with cur := f :: q.cur, opened := q.opened.filter (·.pos != f.pos) }

/-- Dispatch the fetched packet of queue `n` when it carries command `cmd` and passes its check; a packet that admission
refused completes with "over budget" (R377, R393). -/
def dispatch (n cmd : Nat) (s : State) (act : State → Fetched → State) : Out :=
  match readyPacket s n with
  | none => .next s
  | some f =>
    let q := s.queue n
    if cmdOf f.packet ≠ cmd ∨ packetStatus q.cls f.packet ≠ Code.success then .next s
    else if q.overBudget.contains (BitVec.ofNat 32 f.pos) then
      .next (refill (completeCmd ((openCur s n f).modQueue n fun q => { q with overBudget := q.overBudget.erase (BitVec.ofNat 32 f.pos) })
        n f.pos f.packet Code.overBudget) n)
    else .next (refill (act (openCur s n f) f) n)

/-- Dispatch a command that completes at once with the status that `act` gives. -/
def dispatchNow (n cmd : Nat) (s : State) (act : State → BitVec 512 → Status × State) : Out :=
  dispatch n cmd s fun s f =>
    let r := act s f.packet
    completeCmd r.2 n f.pos f.packet r.1

/-- A fetched packet that fails its check completes with its refusal once it may be dispatched (R378, R379). -/
def refuseBad (s : State) (n : Nat) : State :=
  match readyPacket s n with
  | none => s
  | some f =>
    let st := packetStatus (s.queue n).cls f.packet
    if st = Code.success then s else refill (completeCmd (openCur s n f) n f.pos f.packet st) n

/-- Fetch the packet at READ_POS, from what pre-decode read or from the ring (R375, R387). -/
def fetchPacket (s : State) (n : Nat) : Except State (Fetched × State) :=
  let q := s.queue n
  let pos := q.readPos.toNat
  match (q.pre ++ q.copies).find? fun f => f.pos == pos with
  | some f => .ok (f, s)
  | none => (deskRead s n pos (q.slotVa q.readPos) 64).map fun r => (⟨pos, packetOf r.1, none⟩, r.2)

/-- One turn of the fetch loop (R375): the packet at READ_POS is fetched and checked; where READ_POS has reached the write position
observed last, the position is observed again, and the queue turns IDLE when that finds nothing more. -/
def fetchTurn (s : State) (n : Nat) : State :=
  let s := if (s.queue n).readPos = (s.queue n).observed
    then s.modQueue n fun q => { q with observed := q.writePos, pendingBit := false } else s
  if (s.queue n).readPos = (s.queue n).observed then setQState s n .idle else
  match fetchPacket s n with
  | .error s => s
  | .ok (f, s) => s.modQueue n fun q =>
      { q with readPos := q.readPos + 1, cur := q.cur ++ [f], pre := q.pre.filter (·.pos != f.pos) }

/-- QUEUE_FETCH: the oldest fetched packet is refused where it fails its check, and the fetch loop of an ACTIVE queue takes a turn
(R375, R378, R385). -/
def execQueueFetch (n : Nat) (s : State) : Out :=
  if !deskUp s then .next s else
  let s := refuseBad s n
  .next (if (s.queue n).state = .active then refuseBad (fetchTurn s n) n else s)

/-- Pre-decode one packet: the descriptor that a LAUNCH names is read with it; what cannot be read is left to dispatch. -/
def preDecodeOne (s : State) (n : Nat) (pos : Word) : State :=
  let q := s.queue n
  match virtRead s .desk q.ctx (q.slotVa pos) 64 deskMayUse with
  | .error e => e.2
  | .ok (g, s) =>
    let p := packetOf g.bytes
    let r := if cmdOf p = 1 ∧ packetStatus q.cls p = Code.success then
        match virtRead s .desk q.ctx (arg p 0 0 56) 128 deskMayUse with
        | .ok (d, s) => (some (BitVec.ofNat 1024 (leNat d.bytes)), s)
        | .error e => (none, e.2)
      else (none, s)
    r.2.modQueue n fun q => { q with pre := q.pre ++ [⟨pos.toNat, p, r.1⟩] }

/-- PRE_DECODE: the next of up to 16 packets behind an unresolved WAIT; no effect, no fault (R387). -/
def execPreDecode (n : Nat) (s : State) : Out :=
  let q := s.queue n
  let pos := q.readPos + BitVec.ofNat 32 q.pre.length
  if !deskUp s || q.state != .waiting || decide (16 ≤ q.pre.length) || pos == q.writePos then .next s
  else .next (preDecodeOne s n pos)

/-- NOP (R379). -/
def execNopCommand (n : Nat) (s : State) : Out := dispatchNow n 0x00 s fun s _ => (Code.success, s)

/-! ## LAUNCH (R381, R382) -/

/-- The descriptor's reserved bits are zero, SUBNORMAL_MODE 3 counting as one (R381, R166). -/
def descClear (d : BitVec 1024) : Bool :=
  [(56, 8), (112, 16), (139, 5), (153, 7), (169, 7), (185, 7), (202, 6), (215, 1), (225, 31), (288, 32), (383, 641)].all
    (fun f => fld d f.1 f.2 == 0) && fld d 198 2 != 3

/-- Every field of a launch lies in its range, a charge stands only in serving queues, and the grid holds at most 2^32 blocks
(R381, R382). -/
def descOk (serving : Bool) (l : Launch) : Bool :=
  let d := l.desc
  descClear d && fld d 0 56 % 8 == 0 && decide (1 ≤ l.threads) && decide (l.threads ≤ 1024) &&
  decide (8 ≤ l.regs) && decide (l.regs ≤ 256) && l.regs % 8 == 0 && l.lsKib % 64 == 0 && decide (l.lsKib ≤ 448) &&
  decide (l.lsPer ≤ 448) && decide (l.spill ≤ 56) && decide (l.devBars ≤ 64) && decide (fld d 216 9 ≤ 384) &&
  decide (fld d 376 7 ≤ 64) && fld d 320 56 % 32 == 0 && (serving || fld d 256 32 == 0) && decide (l.blocks ≤ 2 ^ 32)

/-- Whether a launch fits the device (R74, R329). -/
def launchFits (l : Launch) : Bool := l.blocksPer != 0 && (l.devBars == 0 || decide (l.blocks ≤ 384 * l.blocksPer))

/-- A launch of queue `n` from its descriptor. -/
def launchOf (s : State) (n : Nat) (f : Fetched) (d : BitVec 1024) : Launch :=
  { queue := n, pos := f.pos, packet := f.packet, ctx := (s.queue n).ctx, serving := (s.queue n).cls == .serving, desc := d,
    uniforms := [], cores := [], next := 0, retired := 0, channels := [], started := false, steep := s.desk.steepNumber, ended := false }

/-- The 4-byte words of a byte string. -/
def wordsOf (bs : List Byte) : List Word := (List.range (bs.length / 4)).map fun i => BitVec.ofNat 32 (leNat (sub bs (4 * i) 4))

/-- Begin a launch, or complete the command with its refusal. -/
def beginLaunch (s : State) (n : Nat) (f : Fetched) (d : BitVec 1024) : State :=
  let l := launchOf s n f d
  if !descOk l.serving l then completeCmd s n f.pos f.packet Code.formatError
  else if !launchFits l then completeCmd s n f.pos f.packet Code.launchNoFit
  else
    let k := 4 * fld d 376 7
    match deskRead s n f.pos (fld d 320 56) k with
    | .error s => putBack s n { f with desc := some d }
    | .ok (bs, s) =>
      let id := s.desk.nextLaunch
      let s := s.setLaunch id (some { l with uniforms := wordsOf bs })
      grantCores { s with desk := { s.desk with nextLaunch := id + 1 } }

/-- What is known of the descriptor of a fetched LAUNCH: the copy that pre-decode or admission read (R374, R382). -/
def descCopy (s : State) (n : Nat) (f : Fetched) : Option (BitVec 1024) :=
  f.desc.or (((s.queue n).copies.find? fun g => g.pos == f.pos).bind (·.desc))

/-- LAUNCH (R379, R382): the descriptor is the copy that pre-decode or admission read, or is read now (R374). -/
def execLaunch (n : Nat) (s : State) : Out :=
  dispatch n 0x01 s fun s f =>
    let va := arg f.packet 0 0 56
    if va % 128 ≠ 0 then completeCmd s n f.pos f.packet Code.formatError else
    match descCopy s n f with
    | some d => beginLaunch s n f d
    | none => match deskRead s n f.pos va 128 with
      | .error s => putBack s n f
      | .ok (bs, s) => beginLaunch s n f (BitVec.ofNat 1024 (leNat bs))

/-! ## WAIT (R386) -/

/-- The evaluation of a wait on a tally: failed, met, or neither (R134, R386). -/
def waitEval (s : State) (n tally target : Nat) : Except Status Bool :=
  let t := s.tally tally
  if !t.allows (tenantOf s (s.queue n).ctx) then .error Code.tallyTenant
  else if t.abandoned then .error Code.tallyAbandoned
  else .ok (decide (target ≤ t.value))

/-- The WAIT of queue `n` is met, and dispatch goes on; or it fails, and the queue becomes HALTED (R385, R386). One that has overrun
is left to the boundary (R397). -/
def endWait (s : State) (n pos : Nat) (p : BitVec 512) (st : Status) : State :=
  if stampedLate s n then s else
  let s := completeCmd s n pos p st
  if st = Code.success then (if (s.queue n).state = .waiting then setQState s n .active else s)
  else setQState (s.modQueue n fun q => { q with pre := [] }) n .halted

/-- WAIT. -/
def execWait (n : Nat) (s : State) : Out :=
  dispatch n 0x02 s fun s f =>
    let tally := arg f.packet 0 0 16
    let target := arg f.packet 1 0 63
    match waitEval s n tally target with
    | .error st => endWait s n f.pos f.packet st
    | .ok true => endWait s n f.pos f.packet Code.success
    | .ok false =>
      let ctx := (s.queue n).ctx
      let r := match registerWatch s { kind := .queue n, tally := tally, target := target, tenant := tenantOf s ctx, ctx := ctx } with
        | some s => (false, s)
        | none => (true, countWatchFull s)
      let s := r.2.modQueue n fun q =>
        { q with opened := q.opened.filter (·.pos != f.pos), wait := some ⟨f.pos, f.packet, r.1⟩ }
      setQState s n .waiting

/-- QUEUE_WAIT_POLL: a WAIT that found no watch entry evaluates its tally (R386). -/
def execQueueWaitPoll (n : Nat) (s : State) : Out :=
  match (s.queue n).wait with
  | none => .next s
  | some w =>
    if !deskUp s || (s.queue n).state != .waiting || !w.polls then .next s else
    match waitEval s n (arg w.packet 0 0 16) (arg w.packet 1 0 63) with
    | .error st => .next (endWait s n w.pos w.packet st)
    | .ok true => .next (endWait s n w.pos w.packet Code.success)
    | .ok false => .next s

/-- WATCH_WAKE: the first message of a tally's firings reaches its group, queue or session (R319, R321, R322, R422). -/
def execWatchWake (tally : Nat) (s : State) : Out :=
  if !bit s.power.clocks 1 then .next s else
  match s.hub.wakes.find? fun w => w.tally == tally with
  | none => .next s
  | some w =>
    let s : State := { s with hub := { s.hub with wakes := s.hub.wakes.erase w } }
    match w.kind with
    | .group c k => .next (wakeGroup s c k w)
    | .queue n => match (s.queue n).wait with
      | some x =>
        if (s.queue n).state = .waiting ∧ !x.polls then
          .next (endWait s n x.pos x.packet (if w.abandoned then Code.tallyAbandoned else Code.success))
        else .next s
      | none => .next s
    | .once n | .every n => .next (sendEvent s n 0 tally w.status (leBytes 8 w.word.toNat))

/-! ## EVENT_WATCH (R319 to R321) -/

/-- Whether a session may receive a context's events (R320). -/
def eventSession (s : State) (session ctx : Nat) : Bool :=
  (s.session session).any fun x => x.operator || x.tenant == tenantOf s ctx

/-- Register an event watch; a target that VALUE already meets fires at once. -/
def eventWatch (s : State) (kind : WatchKind) (tally target ctx : Nat) : Status × State :=
  let t := s.tally tally
  let w : Watch := { kind := kind, tally := tally, target := target, tenant := tenantOf s ctx, ctx := ctx }
  match registerWatch s w with
  | none => (Code.watchTableFull, countWatchFull s)
  | some s' =>
    if t.value < target then (Code.success, s') else
    let s := if w.everyKind then s' else s
    (Code.success, { s with hub := { s.hub with wakes := s.hub.wakes ++ [⟨kind, tally, t.word, t.lastStatus, false⟩] } })

/-- EVENT_WATCH. -/
def execEventWatch (n : Nat) (s : State) : Out :=
  dispatchNow n 0x03 s fun s p =>
    let ctx := (s.queue n).ctx
    let tally := arg p 0 0 16
    let session := arg p 0 32 8
    if !eventSession s session ctx then (Code.sessionNotAllowed, s)
    else if !(s.tally tally).allows (tenantOf s ctx) then (Code.tallyTenant, s)
    else if (s.tally tally).abandoned then (Code.tallyAbandoned, s)
    else eventWatch s (if arg p 0 16 1 = 1 then .every session else .once session) tally (arg p 1 0 63) ctx

/-! ## CACHE_MAINT (R266 to R268) -/

/-- Maintenance of some lines at their homes and, when asked, in every L1. -/
def maintLines (s : State) (op : Nat) (l1 : Bool) (ls : List Nat) : State :=
  ls.foldl (fun s line =>
    let s := if l1 then (keysOf s.cores).foldl (fun s c => l1Maint s c line op) s else s
    maintLine s line op) s

/-- The walk of a whole-cache action through the sets `lo` to `hi - 1` of every cluster cache and, when asked, of every L1 (R268). -/
def walkSpan (s : State) (op : Nat) (l1 : Bool) (lo hi : Nat) : State :=
  let in_ (set : Nat) : Bool := decide (lo ≤ set) && decide (set < hi)
  let s := (List.range 24).foldl (fun s n =>
    ((keysOf (s.cluster n).lines).filter fun k => in_ (k / 16)).foldl (fun s k => maintWay s n k op) s) s
  if !l1 || op == 1 then s else
  (keysOf s.cores).foldl (fun s c =>
    ((keysOf (s.core c).l1).filter fun k => in_ (k / 4)).foldl (fun s k => s.l1Drop c ((s.core c).l1Way k).line) s) s

/-- Sets of a cluster cache (R256). -/
def ccSets : Nat := 4096

/-- A whole-cache action starts: its walk goes on by itself (R268, LOG 106). -/
def startWalk (s : State) (op : Nat) (l1 : Bool) (owner : Option (Nat × Nat)) : State :=
  { s with power := { s.power with ccMaint := s.power.ccMaint ++ [{ op := op, l1 := l1, next := 0, owner := owner }] } }

/-- A walk goes through the sets up to `hi`; one that has gone through all leaves when the vaults have accepted its writes. -/
def stepWalk (s : State) (w : CcWalk) (hi : Nat) : State :=
  let s := walkSpan s w.op w.l1 w.next hi
  if hi < ccSets then
    { s with power := { s.power with ccMaint := replaceFirst (· == w) (fun w => { w with next := hi }) s.power.ccMaint } }
  else
    let s := (List.range 24).foldl drainAll s
    let s : State := { s with power := { s.power with ccMaint := s.power.ccMaint.erase w } }
    match w.owner with
    | some (n, pos) => match (s.queue n).opened.find? fun c => c.pos == pos with
      | some c => completeCmd s n pos c.packet Code.success
      | none => s
    | none => s

/-- Time passes for the walks: each goes on by a number of sets that is not stated (LOG 106). -/
def tickWalks (s : State) : State :=
  s.power.ccMaint.foldl (fun s w =>
    let d := s.draw
    stepWalk d.2 w (w.next + 1 + Config.free d.1 % (ccSets - w.next))) s

/-- The lines of a physical range of DRAM. -/
def physLines (pa n : Nat) : List Nat :=
  ((lineParts pa n).map (·.1)).filter fun l => decide (l < dramEnd / 128)

/-- CACHE_MAINT: over a range it acts at once; over whole caches its walk goes on by itself and then completes it (R268). -/
def execCacheMaint (n : Nat) (s : State) : Out :=
  dispatch n 0x04 s fun s f =>
    let p := f.packet
    let op := arg p 0 0 2
    let l1 := arg p 0 2 1 == 1
    let phys := arg p 0 3 1 == 1
    let whole := arg p 0 4 1 == 1
    let done (st : Status) (s : State) : State := completeCmd s n f.pos p st
    if op = 0 ∨ (whole ∧ (!phys ∨ arg p 1 0 64 ≠ 0 ∨ arg p 2 0 64 ≠ 0)) then done Code.formatError s
    else if whole then startWalk s op l1 (some (n, f.pos))
    else if phys then done Code.success (maintLines s op l1 (physLines (arg p 1 0 56) (arg p 2 0 44)))
    else match cmoRange s .desk (s.queue n).ctx op (arg p 1 0 56) (arg p 2 0 44) with
      | (.ok ls, s) => done Code.success (maintLines s op l1 ls)
      | (.error (.poison pa, va), s) => raiseFault s (deskInfo s n f.pos va Code.poisonConsumed (some pa))
      | (.error _, s) => done Code.translationFault s

end Sys2Proof.Machine
end

