-- ==== Sys2Proof/Machine/Streamers.lean ====
section
/-! DEFINITION. The tile streamers: `ts.run`, `ts.wait`, the start of descriptors, gates, prefetches, the tiles and the counters
(07_tile_streamers.md, R142, R203 to R231). -/

namespace Sys2Proof.Machine

/-- `ts.run` (R209, R210). -/
def execTsRun (r : GroupRef) (f : RFields) (s : State) : Out :=
  let i := rForm f .unused (.reg 1) .unused .unused (fld f.mod 2 10 == 0) true true
  let n := fld f.mod 0 2
  issueTo s r i (fun e => decide ((e.s.streamer e.c n).descs.length < 4)) fun e =>
    let a := (e.g.reg 0 f.srcA.toNat).toNat
    if a % 32 ≠ 0 then .error (Trap.plain Code.misaligned)
    else if e.l.lsPer * 1024 < a + 128 then .error (Trap.plain Code.localStoreRange)
    else if !localDone e then .ok e.s
    else
      let base := ((blockOf e.s e.c e.g).map (·.region)).getD 0 * e.l.lsBlk
      let d : TsDesc :=
        { raw := BitVec.ofNat 1024 (leNat (lsRead e.s e.c (base + a) 128).bytes), slot := e.k, block := e.g.block, pc := e.g.pc,
          base := base, limit := e.l.lsPer * 1024, before := e.s.nextAcc, stage := .accepted, tiles := 0, seen := 0,
          fetched := false, firstDev := none, ending := false, failed := false }
      .ok (advance e i (e.s.modStreamer e.c n fun t => { t with descs := t.descs ++ [d] }))

/-- `ts.wait` (R230, R231). -/
def execTsWait (r : GroupRef) (f : RFields) (s : State) : Out :=
  let i := rForm f (.reg 1) .unused .unused .unused (fld f.mod 2 10 == 0) true true
  let n := fld f.mod 0 2
  issue s r i fun e =>
    let t := e.s.streamer e.c n
    let mine := t.done.filter (·.slot == e.k)
    if t.descs.any (·.slot == e.k) then .ok e.s
    else if mine.any (·.failed) then .error (Trap.plain Code.remoteWriteLost)
    else
      let st := ((mine.find? fun d => d.status != Code.success).map (·.status)).getD Code.success
      let s := e.s.modStreamer e.c n fun t => { t with done := t.done.filter (·.slot != e.k) }
      .ok (advance e i (s.setGroup e.c e.k (some (e.g.setRun 0 ⟨f.dst, 1⟩ st.toNat))))

/-! ## The running descriptor -/

/-- The launch on a core, with its number, when the core runs. -/
def coreLaunch (s : State) (c : Nat) : Option (Nat × Launch) :=
  if (s.core c).stage = .running ∧ clusterUp s (c / 16) then
    (s.core c).work.launch.bind fun n => (s.launch n).map fun l => (n, l)
  else none

/-- The head descriptor of a streamer whose core runs. -/
def tsHead (s : State) (c n : Nat) : Option (TsDesc × Nat × Launch) :=
  match (s.streamer c n).descs, coreLaunch s c with
  | d :: _, some (k, l) => some (d, k, l)
  | _, _ => none

/-- Change the head descriptor. -/
def modHead (s : State) (c n : Nat) (f : TsDesc → TsDesc) : State :=
  s.modStreamer c n fun t => match t.descs with
    | d :: ds => { t with descs := f d :: ds }
    | [] => t

/-- The head descriptor ends with a status; one that its block's end has ended reports to no `ts.wait` (R212, R230). -/
def endHead (s : State) (c n : Nat) (st : Status) : State :=
  s.modStreamer c n fun t => match t.descs with
    | d :: ds => { descs := ds, done := if d.ending then t.done else t.done ++ [⟨d.slot, st, d.failed⟩] }
    | [] => t

/-- The fault record's view of a descriptor (R214, R600). -/
def tsInfo (ctx c n : Nat) (d : TsDesc) (t : Trap) : FaultInfo :=
  { ctx := ctx, status := t.status, kind := 2, unit := n, core := c, slot := 0, lane := none, queue := 0, pos := 0, pc := d.pc,
    va := t.va, pa := t.pa }

/-- What a failed data access of a tile does: a fault, once a fault record is free for it, or a wait for a migration (R208, R224,
R351). -/
def tileFails (s : State) (c n ctx : Nat) (d : TsDesc) (f : TileFail) : State :=
  let fault (st : Status) (pa : Option Nat) : State :=
    raiseFault s (tsInfo ctx c n d { status := st, lane := none, va := some f.va, pa := pa })
  match f.fail with
  | .lost => s
  | .fault => if f.va < 2 ^ 56 ∧ faultWaits s ctx f.va then s else fault Code.translationFault none
  | .poison pa => fault Code.poisonConsumed (some pa)
  | .migrate page => (joinMigration s ctx page (.tile c n) (tsInfo ctx c n d (Trap.plain 0))).2

/-! ## Start and gate (R213, R214, R221, R222) -/

/-- The reserved fields of R203 to R205 and those of unused dimensions are zero. -/
def TsDesc.reservedOk (d : TsDesc) : Bool :=
  d.f 896 128 == 0 && d.f 319 1 == 0 && d.f 208 48 == 0 && d.f 191 1 == 0 && d.f 56 8 == 0 &&
  (List.range 5).all fun k => if k < d.ndim then d.f (442 + 64 * k) 6 == 0 else d.f (384 + 64 * k) 64 == 0

/-- Whether a signed stride is a multiple of the element size. -/
def TsDesc.strideOk (d : TsDesc) (k : Nat) : Bool := d.f (400 + 64 * k) 32 % d.size == 0

/-- The checks of R213 on the descriptor alone. -/
def TsDesc.formatOk (d : TsDesc) : Bool :=
  d.reservedOk && decide (1 ≤ d.ndim) && decide (d.ndim ≤ 5) && decide (1 ≤ d.td) && decide (d.td ≤ d.ndim) &&
  decide (1 ≤ d.ring) && decide (d.ring ≤ 8) &&
  (List.range d.ndim).all (fun k => (d.mul k == 0) == (d.axis k == 0) && d.strideOk k) &&
  d.f 0 56 % d.size == 0 && d.f 64 32 % 32 == 0 && d.f 96 32 % 32 == 0 && d.slotPitch % 32 == 0 &&
  (d.f 160 16 == 0 || (d.f 160 16 % d.size == 0 && decide (d.count 0 * d.size ≤ d.f 160 16))) &&
  (d.ring == 1 || decide (d.span ≤ d.slotPitch)) && decide (d.tileCount ≤ 2 ^ 32 - 1)

/-- Every slot byte and the control block lie within the block's local store (R214). -/
def TsDesc.inRange (d : TsDesc) : Bool :=
  decide (d.f 64 32 + (d.ring - 1) * d.slotPitch + d.span ≤ d.limit) && decide (d.f 96 32 + 32 ≤ d.limit)

/-- One poll of the gate, with the effect of `tly.poll` (R221, R222). -/
def pollGate (s : State) (c n : Nat) (l : Launch) (d : TsDesc) : State :=
  let t := s.tally (d.f 192 16)
  if !t.allows (tenantOf s l.ctx) then endHead (dropBuffer s (.streamer c n)) c n Code.tallyTenant
  else
    let s := acquireL1 s c l.l1Off
    if t.abandoned then endHead (dropBuffer s (.streamer c n)) c n Code.tallyAbandoned
    else if d.f 256 63 ≤ t.value then modHead s c n fun d => { d with stage := .running }
    else modHead s c n fun d => { d with stage := .gated }

/-- TS_DESCRIPTOR_START (R211, R213, R214, R221). R213 tests the counters before R214 tests where they lie: outside the block's local
store the model reads the bytes of the core's local store at that offset (LOG 134). -/
def execTsDescriptorStart (core str : Nat) (s : State) : Out :=
  match tsHead s core str with
  | none => .next s
  | some (d, _, l) =>
    if d.stage ≠ .accepted then .next s
    else if !d.formatOk || d.counter s core 0 != 0 || d.counter s core 4 != 0 then
      .next (endHead s core str Code.streamerFormat)
    else if !d.inRange then .next (raiseFault s (tsInfo l.ctx core str d (Trap.plain Code.localStoreRange)))
    else if bit d.raw 190 then .next (pollGate s core str l d)
    else .next (modHead s core str fun d => { d with stage := .running })

/-- GATE_POLL (R221, R222). -/
def execGatePoll (core str : Nat) (s : State) : Out :=
  match tsHead s core str with
  | none => .next s
  | some (d, _, l) => .next (if d.stage = .gated then pollGate s core str l d else s)

/-! ## Counters and prefetches (R219, R223) -/

/-- The other side's counter as the streamer observes it (R219). -/
def TsDesc.observe (s : State) (c : Nat) (d : TsDesc) : Nat :=
  let v := d.counter s c (if d.isStore then 0 else 4)
  if v < d.seen ∨ (!d.isStore ∧ d.counter s c 0 < v) then d.seen else v

/-- COUNTER_OBSERVE (R219). -/
def execCounterObserve (core str : Nat) (s : State) : Out :=
  match tsHead s core str with
  | none => .next s
  | some (d, _, _) =>
    .next (if d.stage = .running then modHead s core str fun d => { d with seen := d.observe s core } else s)

/-- The heads of a tile's bursts that a prefetch may record: mapped, permitted and not host-resident (R223). -/
def prefetchable (s : State) (c n ctx : Nat) (d : TsDesc) (tile : Nat) : List Nat :=
  (d.heads tile).filter fun g => decide (g < 2 ^ 56) &&
    match translate s (.streamer c n) ctx g (if d.isStore then .write else .read) with
    | .ok _ => true
    | .error _ => false

/-- TRANSLATION_PREFETCH: the pages of a tile ahead enter the streamer's buffer; a failed prefetch records nothing (R222, R223). -/
def execTranslationPrefetch (core str tile : Nat) (s : State) : Out :=
  match tsHead s core str with
  | none => .next s
  | some (d, _, l) =>
    let ahead := if d.isStore then d.seen + 8 else d.seen + d.ring + 8
    if d.stage = .accepted ∨ d.tileCount ≤ tile ∨ ahead ≤ tile then .next s else
    .next (lookUps s (.streamer core str) l.ctx (prefetchable s core str l.ctx d tile))

/-! ## Load tiles (R216, R226, R227) -/

/-- The elements of a tile in order. -/
def TsDesc.elems (d : TsDesc) (n : Nat) : List Elem := (List.range d.rows).flatMap (d.row n)

/-- Where an element of a load goes to read, or why it cannot. -/
def elemTarget (s : State) (u : XUnit) (ctx : Nat) (e : Elem) : Except XFail Target :=
  if 2 ^ 56 ≤ e.g then .error .fault else
  match translate s u ctx e.g .read with
  | .error f => .error f
  | .ok (_, .phys pa dev) => if regionOf pa = .reserved then .error .fault else .ok (.phys pa dev)
  | .ok (_, t) => .ok t

/-- The memory type of a target. -/
def Target.dev : Target → Bool
  | .phys _ d => d
  | .remote _ _ d => d

/-- The sectors of local store that a tile covers wholly, as offsets within the block divided by 32. -/
def TsDesc.wholeSectors (d : TsDesc) (n : Nat) : List Nat :=
  let l0 := d.f 64 32 + n % d.ring * d.slotPitch
  let len := d.count 0 * d.size
  let runs := if d.rp = len then [(l0, d.rows * len)] else (List.range d.rows).map fun r => (l0 + r * d.rp, len)
  runs.flatMap fun x => (List.range (x.2 / 32 + 1)).filterMap fun j =>
    let k := cdiv x.1 32 + j
    if 32 * k + 32 ≤ x.1 + x.2 then some k else none

/-- What has been read for a tile: the sectors of DRAM fetched once each. -/
structure TileGot where
  s       : State
  sectors : SMap (Option (Sector × Bool))
  fail    : Option Status

/-- Read one element of normal type at its end point and write it to local store (R225, R227). -/
def fetchElem (c tenant : Nat) (d : TsDesc) (x : TileGot) (e : Elem) (pa : Nat) : TileGot :=
  let put (s : State) (v : List Byte) (p : Bool) : State := lsWrite s c (d.base + e.l) v fun _ => p
  match regionOf pa with
  | .dram =>
    let k := pa / 32
    let r : (Sector × Bool) × State := match oget x.sectors k with
      | some v => (v, x.s)
      | none =>
        let q := homeRead x.s (pa / 128) (setBit 0 (k % 4) true) d.noAlloc
        ((getSector q.1.1 (k % 4), bit q.1.2 (k % 4)), q.2)
    let v := (List.range d.size).map fun i => r.1.1.extractLsb' (8 * (pa % 32 + i)) 8
    { x with s := put r.2 v r.1.2, sectors := oput x.sectors k (some r.1) }
  | .window w o =>
    if windowOk x.s w o d.size tenant then
      let g := lsRead x.s w o d.size
      { x with s := put x.s g.bytes g.bad }
    else { x with fail := some Code.localStoreRange }
  | _ => { x with s := put x.s (ctlRead x.s pa d.size) false }

/-- The load of one burst, or one device-type element, from a peer or a host. -/
def remoteTileLoad (c n ctx launch : Nat) (d : TsDesc) (t : Target) (es : List Elem) : Access :=
  let a := storeAccess c n ctx launch d t (es.map fun e => (e, [], false))
  { a with kind := .load, lanes := (a.lanes.zip es).map fun (l, e) => { l with data := 0, cmp := BitVec.ofNat 128 (d.base + e.l) } }

/-- Issue the remote loads of a tile of normal type. -/
def remoteTile (s : State) (c n ctx launch : Nat) (d : TsDesc) (tile : Nat) : State :=
  (d.bursts tile).foldl (fun s b => match b with
    | [] => s
    | e :: _ => match elemTarget s (.streamer c n) ctx e with
      | .ok (.remote p a dev) => addAccess s (remoteTileLoad c n ctx launch d (.remote p a dev) b)
      | _ => s) s

/-- Issue the loads of a tile that touches a device-type page: its elements one at a time, in element order, without merging
(R226). -/
def strictTile (s : State) (c n ctx launch : Nat) (d : TsDesc) (es : List Elem) : State :=
  es.foldl (fun s e => match elemTarget s (.streamer c n) ctx e with
    | .ok t => addAccess s { remoteTileLoad c n ctx launch d t [e] with dev := true }
    | .error _ => s) s

/-- Publish the next tile (R216). -/
def publish (s : State) (c n : Nat) (d : TsDesc) : State :=
  modHead (d.setCounter s c 0 (d.tiles + 1)) c n fun d => { d with tiles := d.tiles + 1, fetched := false, firstDev := none }

/-- Lay the poison marks and the padded elements of the next tile: the sectors that it covers wholly lose their marks. -/
def openTile (s : State) (c : Nat) (d : TsDesc) (es : List Elem) : State :=
  let s := s.modWork c fun w => { w with
    lsPoison := (d.wholeSectors d.tiles).foldl (fun m k => sput (fun _ => false) m (d.base / 32 + k) false) w.lsPoison }
  (es.filter (·.pad)).foldl (fun s e => lsWrite s c (d.base + e.l) (leBytes d.size (d.f 320 64)) fun _ => false) s

/-- Fetch the next tile; it is published at once unless part of it comes from a peer or a host, or touches a device-type page. -/
def fetchTile (s : State) (c n : Nat) (d : TsDesc) (launch : Nat) (l : Launch) : State :=
  let es := d.elems d.tiles
  let live := es.filter fun e => !e.pad
  let target (e : Elem) := elemTarget s (.streamer c n) l.ctx e
  let s0 := openTile s c d es
  match live.findIdx? fun e => match target e with | .ok t => t.dev | .error _ => false with
  | some i =>
    modHead (strictTile s0 c n l.ctx launch d live) c n fun d => { d with fetched := true, firstDev := some (s0.nextAcc + i) }
  | none =>
    let x := live.foldl (fun (x : TileGot) e =>
      if x.fail.isSome then x
      else match target e with
        | .ok (.phys pa _) => fetchElem c (tenantOf x.s l.ctx) d x e pa
        | _ => x) { s := s0, sectors := [], fail := none }
    match x.fail with
    | some st => raiseFault s (tsInfo l.ctx c n d (Trap.plain st))
    | none =>
      let remote := live.any fun e => match target e with | .ok (.remote _ _ _) => true | _ => false
      if remote then modHead (remoteTile x.s c n l.ctx launch d d.tiles) c n fun d => { d with fetched := true }
      else publish x.s c n d

/-- Whether a load of the streamer's tile is still on its way. -/
def tileLoading (s : State) (c n : Nat) : Bool :=
  s.accesses.any fun a => a.engine == .streamer c n && a.kind == .load

/-- TILE_PUBLISH: the next load tile is wholly in local store (R216, R226). -/
def execTilePublish (core str : Nat) (s : State) : Out :=
  match tsHead s core str with
  | none => .next s
  | some (d, k, l) =>
    if d.stage ≠ .running ∨ d.isStore ∨ d.tileCount ≤ d.tiles ∨ d.seen + d.ring ≤ d.tiles then .next s
    else if d.fetched then .next (if tileLoading s core str then s else publish s core str d)
    else
      let u : XUnit := .streamer core str
      let s := lookUps s u l.ctx ((d.heads d.tiles).filter (· < 2 ^ 56))
      let es := (d.elems d.tiles).filter fun e => !e.pad
      match es.findSome? fun e => match elemTarget s u l.ctx e with | .error f => some (TileFail.mk f e.g) | .ok _ => none with
      | some f => .next (tileFails s core str l.ctx d f)
      | none =>
        let dev := es.any fun e => match elemTarget s u l.ctx e with | .ok t => t.dev | .error _ => false
        .next (if dev && d.seen != d.tiles then s else fetchTile s core str d k l)

/-! ## Store tiles and the end (R218, R225, R212) -/

/-- STORE_TILE_READ (R218). -/
def execStoreTileRead (core str : Nat) (s : State) : Out :=
  match tsHead s core str with
  | none => .next s
  | some (d, k, l) =>
    if d.stage ≠ .running ∨ !d.isStore ∨ d.tileCount ≤ d.tiles ∨ d.seen ≤ d.tiles then .next s else
    match issueStoreTile s core str l.ctx k d d.tiles with
    | .error (f, s) => .next (tileFails s core str l.ctx d f)
    | .ok s => .next (modHead (d.setCounter s core 4 (d.tiles + 1)) core str fun d => { d with tiles := d.tiles + 1 })

/-- Whether the head descriptor has finished: a load with its last tile published, a store with every write completed; a store
that its block's end has ended writes only the tiles produced, and does not wait at its gate for none (R225, R212). -/
def headFinished (s : State) (c n : Nat) (d : TsDesc) : Bool :=
  if d.stage ≠ .running then d.stage == .gated && d.isStore && d.ending && d.counter s c 0 == 0
  else if !d.isStore then d.tiles == d.tileCount
  else (d.tiles == d.tileCount || (d.ending && decide (d.observe s c ≤ d.tiles))) &&
    !s.accesses.any fun a => a.engine == .streamer c n && a.open

/-- TS_DESCRIPTOR_FINISH (R225). -/
def execTsDescriptorFinish (core str : Nat) (s : State) : Out :=
  match tsHead s core str with
  | none => .next s
  | some (d, _, _) => .next (if headFinished s core str d then endHead s core str Code.success else s)

/-- Whether the head's tile touches a device-type page and its first device-type access has been performed, or is on its way to a
peer: then nothing but a fault undoes the tile (R226). -/
def tileFixed (s : State) (d : TsDesc) : Bool :=
  d.firstDev.any fun id => (s.access id).all fun a => match a.stage with | .sent _ => true | _ => false

/-- Undo the unpublished tile of streamer `n` of core `c`, to be fetched again, unless it is fixed; the prefetched translations go
(R226, R228). -/
def undoTile (s : State) (c n : Nat) : State :=
  let s := dropBuffer s (.streamer c n)
  match (s.streamer c n).descs with
  | d :: _ => if tileFixed s d then s else
      modHead { s with accesses := s.accesses.filter fun a => !(a.engine == .streamer c n && a.kind == .load) } c n fun d =>
        { d with fetched := false, firstDev := none }
  | [] => s

/-- A mapping of a context changed: unpublished load tiles are fetched again and prefetched translations go (R228). -/
def dropFetched (s : State) (ctx : Nat) : State :=
  (keysOf s.cores).foldl (fun s c =>
    if ((s.core c).work.launch.bind s.launch).any fun l => l.ctx == ctx then (List.range 4).foldl (fun s n => undoTile s c n) s
    else s) s

end Sys2Proof.Machine
end

