-- ==== Sys2Proof/Machine/Kernel.lean ====
section
/-! DEFINITION. The kernel commands: contexts, mappings, migrations, carrels, tallies, page retirement and queues
(R46 to R51, R311 to R315, R336 to R363, R370, R371, R385, R388). -/

namespace Sys2Proof.Machine

/-- Complete the open command at `pos` of queue `n`, when it is still there. -/
def finishAt (s : State) (n pos : Nat) (st : Status) : State :=
  match (s.queue n).opened.find? fun c => c.pos == pos with
  | some c => completeCmd s n pos c.packet st
  | none => s

/-! ## Contexts (R358 to R361) -/

/-- Contexts created in carrel `n` and not yet freed; context 0 is not counted (R341, R370). -/
def contextsIn (s : State) (n : Nat) : Nat :=
  (s.ctxs.filter fun e => e.1 != 0 && e.2.state != .free && e.2.carrel == n).length

/-- Whether carrel `n` admits a tenant (R338, R359). -/
def carrelAdmits (s : State) (n tenant : Nat) : Bool :=
  let c := s.carrel n
  c.units != 0 && (c.tenant == 256 || c.tenant == tenant)

/-- CONTEXT_CREATE (R359, R363). -/
def createContext (s : State) (p : BitVec 512) : Status × State :=
  let n := arg p 0 0 10
  let tenant := arg p 0 16 8
  let carrel := arg p 0 24 4
  if (s.ctx n).state ≠ .free then (Code.contextBusy, s)
  else if !carrelAdmits s carrel tenant then (Code.carrelNotUsable, s)
  else match takeRun s carrel 8 n (.node 0 0) with
    | none => (Code.tableSpaceFull, s)
    | some s =>
      (Code.success, s.modCtx n fun _ =>
        { Ctx.fresh with
            state := .live, tenant := tenant, carrel := carrel, migSession := arg p 0 32 8,
            dirtyTrack := arg p 0 40 1 == 1, loaned := arg p 0 41 1 == 1 })

/-- CONTEXT_CREATE. -/
def execContextCreate (n : Nat) (s : State) : Out := dispatchNow n 0x40 s createContext

/-- Whether a Folio command that names the context waits or runs (R361). -/
def folioNames (s : State) (ctx : Nat) : Bool :=
  s.folio.waiting.any (·.ctx == ctx) || s.folio.thaws.any (·.ctx == ctx) || s.folio.run.any fun r => r.cmd.ctx == ctx

/-- Why CONTEXT_TEARDOWN is refused (R361, R370). -/
def teardownRefusal (s : State) (ctx : Nat) : Option Status :=
  if ctx = 0 then some Code.contextBusy
  else match (s.ctx ctx).state with
    | .free => some Code.contextLost
    | .teardown | .frozen => some Code.contextBusy
    | _ => if folioNames s ctx then some Code.contextBusy else none

/-- CONTEXT_TEARDOWN: the context enters TEARDOWN, its queues stop and its plans fail (R361, R385, R389, R457). -/
def execContextTeardown (n : Nat) (s : State) : Out :=
  dispatch n 0x41 s fun s f =>
    let ctx := arg f.packet 0 0 10
    match teardownRefusal s ctx with
    | some st => completeCmd s n f.pos f.packet st
    | none =>
      let s := s.modCtx ctx fun c => { c with state := .teardown }
      let s := grantCores (failPlansOf (stopQueues s ctx) ctx)
      { s with desk := { s.desk with
          teardowns := s.desk.teardowns ++ [⟨n, f.pos, ctx, (launchesOf s ctx).isEmpty⟩] } }

/-- Whether nothing of a context in teardown remains in flight (R361 step 3). -/
def teardownReady (s : State) (t : Teardown) : Bool :=
  t.stopped && (launchesOf s t.ctx).isEmpty && !s.accesses.any fun a => a.ctx == t.ctx && a.open

/-- Free every migration record of a context (R361). -/
def freeRecordsOf (s : State) (ctx : Nat) : State :=
  { s with xlat := { s.xlat with records := sfilter (fun _ r => r.any fun m => m.ctx != ctx) s.xlat.records } }

/-- Remove every mapping of a context, its dirty map and its table runs, and every cached entry of its number (R350, R358, R361). -/
def clearMappings (s : State) (ctx : Nat) : State :=
  let s := (leavesOf s ctx).foldl (fun s l => countLeaf s l (· - 1)) s
  let s := rewriteLeaves s ctx fun _ => none
  let n := (s.ctx ctx).carrel
  let s := setRuns s n ((runsOf s n).filter fun r => r.ctx != ctx)
  setDirty (dropWalks (dropCached s fun e => e.ctx == ctx) fun w => w.ctx == ctx) ctx []

/-- A queue becomes DISABLED and its slot unbound (R371, R385). -/
def disableQueue (s : State) (n : Nat) : State :=
  let q := s.queue n
  let s := dropWakes (removeWatches s fun w => w.kind == .queue n) fun k => k == .queue n
  let s := if q.cls = .serving then s.modSlot q.slot fun x => { x with queue := 0xFFFF } else s
  let s := setQState s n .disabled
  s.modQueue n fun _ => Queue.disabled

/-- The last steps of a teardown or a Recall: tallies abandoned, watches removed, queues DISABLED, the context FREE
(R324, R325, R361, R481). What a core ran last in it belongs to no later context of the same number (R240, R270). -/
def freeContext (s : State) (ctx : Nat) : State :=
  let s := clearMappings (freeRecordsOf s ctx) ctx
  let s := removeWatches (abandonOwned s ctx) fun w => w.ctx == ctx
  let s := (queuesOf s ctx).foldl disableQueue s
  let s := (keysOf s.cores).foldl (fun s c => s.modCore c fun k => { k with prevCtx := k.prevCtx.filter (· != ctx) }) s
  s.modCtx ctx fun c => { c with state := .free }

/-- CONTEXT_TEARDOWN_COMPLETE (R361). -/
def execContextTeardownComplete (ctx : Nat) (s : State) : Out :=
  match s.desk.teardowns.find? fun t => t.ctx == ctx with
  | none => .next s
  | some t =>
    if !deskUp s || !teardownReady s t then .next s else
    let s := freeContext s ctx
    let s : State := { s with desk := { s.desk with teardowns := s.desk.teardowns.filter (·.ctx != ctx) } }
    .next (finishAt s t.queue t.pos Code.success)

/-! ## Leaves (R342 to R344) -/

/-- Whether a leaf image of a size keeps the rules of R342 and R343. -/
def leafFormOk (w : DWord) (size : Nat) : Bool :=
  let k := leafKind w
  bit w 0 && k != 0 && !bit w 7 && fld w 56 8 == 0 && fld w 8 8 == 0 && (k == 2 || leafPeer w == 0) &&
  leafAddr w % pageBytes size == 0 && (k != 3 || size == 0) && (!bit w 5 || (bit w 3 && k != 2)) &&
  (!bit w 6 || k != 3) && (!bit w 4 || bit w 3)

/-- Whether R344 allows a leaf's page to a context. -/
def leafPlaceOk (s : State) (ctx : Nat) (l : Leaf) : Bool :=
  let n := (s.ctx ctx).carrel
  let pa := leafAddr l.word
  let inCarrel := (List.range (pageBytes l.size / 65536)).all fun j =>
    match (s.carrel n).index (pa / 65536 + j) with
    | some i => !inTableArea s.dram (s.carrel n) i
    | none => false
  match leafKind l.word with
  | 2 => true
  | 3 => inCarrel
  | _ => match regionOf pa with
    | .dram => inCarrel
    | .window _ _ => l.size == 0 && !bit l.word 6 && !bit l.word 5
    | .control => ctx == 0 && l.size == 0 && bit l.word 6 && !bit l.word 5
    | .reserved => false

/-- CONTEXT, SIZE, VA and COUNT of a mapping command, as (context, size, first address, pages). -/
def mapArgs (p : BitVec 512) : Nat × Nat × Nat × Nat := (arg p 0 0 10, arg p 0 16 2, arg p 1 0 56, arg p 2 0 16 + 1)

/-- Whether SIZE is one of the three and the range is aligned and ends below 2^56 (R348). -/
def mapRangeOk (size va count : Nat) : Bool :=
  size != 3 && va % pageBytes size == 0 && decide (va + count * pageBytes size ≤ 2 ^ 56)

/-- The first case of `cs` that holds. -/
def firstCase (cs : List (Bool × Status)) : Option Status := (cs.find? (·.1)).map (·.2)

/-- What a change of a mapping of the context does to its streamers and to pre-decode (R228, R387). -/
def mappingChanged (s : State) (ctx : Nat) : State :=
  (queuesOf s ctx).foldl (fun s n => s.modQueue n fun q => { q with pre := [] }) (dropFetched s ctx)

/-- The leaves that a MAP adds: page j receives the image with ADDR increased by j pages. -/
def mapLeaves (p : BitVec 512) : List Leaf :=
  let (_, size, va, count) := mapArgs p
  (List.range count).map fun j =>
    { va := va + j * pageBytes size, size := size, word := BitVec.ofNat 64 (arg p 3 0 64 + j * pageBytes size) }

/-- Whether two pages overlap. -/
def leafOverlaps (a b : Leaf) : Bool := decide (a.va < b.va + pageBytes b.size) && decide (b.va < a.va + pageBytes a.size)

/-- Add leaves one by one; none when the table area has no room. -/
def addLeaves (s : State) (ctx : Nat) (ls : List Leaf) : Option State :=
  ls.foldl (fun o l => o.bind fun s => addLeaf s ctx l) (some s)

/-- Whether a page that a leaf names lies in a reserved range (R27, R28): its first or its last 64 KiB does. -/
def leafReserved (l : Leaf) : Bool :=
  regionOf (leafAddr l.word) == .reserved || regionOf (leafAddr l.word + pageBytes l.size - 65536) == .reserved

/-- MAP (R28, R342 to R344, R348, R349). -/
def mapPages (s : State) (p : BitVec 512) : Status × State :=
  let (ctx, size, va, count) := mapArgs p
  let image := BitVec.ofNat 64 (arg p 3 0 64)
  if !mapRangeOk size va count || !leafFormOk image size || decide (2 ^ 44 < leafAddr image + count * pageBytes size) then
    (Code.formatError, s)
  else
    let ls := mapLeaves p
    let pages := ls.flatMap leafPages
    match firstCase [
      (ls.any fun l => (leavesOf s ctx).any (leafOverlaps l), Code.alreadyMapped),
      (ls.any fun l => !leafPlaceOk s ctx l, Code.outsideCarrel),
      (ls.any leafReserved, Code.reservedAddress),
      (pages.any s.dram.retired, Code.pageRetired),
      (pages.any fun q => decide (65535 ≤ mapCount s q), Code.alreadyMapped)] with
    | some st => (st, s)
    | none => match addLeaves s ctx ls with
      | none => (Code.tableSpaceFull, s)
      | some t => if (s.ctx ctx).state ≠ .live then (Code.contextLost, s) else (Code.success, mappingChanged t ctx)

/-- Whether the queue may dispatch a mapping command: its earlier ones have been performed (R350). -/
def mappingFree (s : State) (n : Nat) : Bool := !s.xlat.changes.any (·.queue == n)

/-- MAP. -/
def execMapPages (n : Nat) (s : State) : Out := if mappingFree s n then dispatchNow n 0x42 s mapPages else .next s

/-- The leaf of exactly this address and size. -/
def exactLeaf (s : State) (ctx va size : Nat) : Option Leaf := (leavesOf s ctx).find? fun l => l.va == va && l.size == size

/-- The addresses that an UNMAP or PROTECT names. -/
def rangeVas (p : BitVec 512) : List Nat :=
  let (_, size, va, count) := mapArgs p
  (List.range count).map fun j => va + j * pageBytes size

/-- Whether a leaf is one of the two mappings that context 0 is given: those at the virtual addresses of its ring and its record
(R370). -/
def ownLeaf (ctx : Nat) (l : Leaf) : Bool := ctx == 0 && (l.va == ctlRing || l.va == ctlRecord)

/-- The cases of R348 that UNMAP and PROTECT share; `place` says which leaves would break R344. -/
def changeRefusal (s : State) (p : BitVec 512) (place : Leaf → Bool) : Option Status :=
  let (ctx, size, _, _) := mapArgs p
  let found := (rangeVas p).map fun va => exactLeaf s ctx va size
  let ls := found.filterMap id
  firstCase [
    (found.any (·.isNone), Code.pageSizeMismatch),
    (ls.any fun l => bit l.word 7, Code.pageMigrating),
    (ls.any place, Code.outsideCarrel),
    (ls.any (ownLeaf ctx), Code.contextBusy),
    (!(s.ctx ctx).state == .live, Code.contextLost)]

/-- A change of mapping is in force and completes when the accesses translated before it have ended (R350). -/
def startChange (s : State) (n pos ctx : Nat) : State :=
  let s := mappingChanged s ctx
  { s with xlat := { s.xlat with changes := s.xlat.changes ++ [⟨n, pos, ctx, s.nextAcc, Code.success⟩] } }

/-- Remove the leaves at some addresses with their map counts, dirty bits and table runs (R349, R357, R605). -/
def unmapLeaves (s : State) (ctx size : Nat) (vas : List Nat) : State :=
  let gone (l : Leaf) : Bool := l.size == size && vas.contains l.va
  let s := ((leavesOf s ctx).filter gone).foldl (fun s l => countLeaf s l (· - 1)) s
  let inside (q : Nat) : Bool := vas.any fun va => decide (va ≤ q * 65536) && decide (q * 65536 < va + pageBytes size)
  let cleared := (dirtyOf s ctx).filter inside
  let s := cleared.foldl (fun s q => putDirty s ctx q) (setDirty s ctx ((dirtyOf s ctx).filter fun q => !inside q))
  let s := rewriteLeaves s ctx fun l => if gone l then none else some l
  pruneRuns s (s.ctx ctx).carrel ctx

/-- UNMAP (R348, R350). -/
def execUnmapPages (n : Nat) (s : State) : Out :=
  if !mappingFree s n then .next s else
  dispatch n 0x43 s fun s f =>
    let (ctx, size, va, count) := mapArgs f.packet
    if !mapRangeOk size va count then completeCmd s n f.pos f.packet Code.formatError else
    match changeRefusal s f.packet fun _ => false with
    | some st => completeCmd s n f.pos f.packet st
    | none => startChange (unmapLeaves s ctx size (rangeVas f.packet)) n f.pos ctx

/-- A leaf with the permissions of a PROTECT. -/
def protectLeaf (p : BitVec 512) (l : Leaf) : Leaf := { l with word := setFld l.word 3 4 (arg p 3 3 4) }

/-- PROTECT (R343, R344, R348, R350). -/
def execProtect (n : Nat) (s : State) : Out :=
  if !mappingFree s n then .next s else
  dispatch n 0x44 s fun s f =>
    let p := f.packet
    let (ctx, size, va, count) := mapArgs p
    let new := ((rangeVas p).filterMap fun va => exactLeaf s ctx va size).map (protectLeaf p)
    if !mapRangeOk size va count || new.any (fun l => !leafFormOk (setBit l.word 7 false) l.size) then
      completeCmd s n f.pos p Code.formatError
    else match changeRefusal s p fun l => leafKind l.word == 1 && !leafPlaceOk s ctx (protectLeaf p l) with
    | some st => completeCmd s n f.pos p st
    | none =>
      let vas := rangeVas p
      startChange (rewriteLeaves s ctx fun l => some (if l.size == size && vas.contains l.va then protectLeaf p l else l)) n f.pos ctx

/-- Whether an access was translated before a change of mapping and has not ended. -/
def translatedBefore (c : MapChange) (a : Access) : Bool :=
  a.ctx == c.ctx && decide (a.id < c.before) && match a.stage with | .issued | .filling | .done _ _ | .sent _ => true | _ => false

/-- MAPPING_CHANGE_COMPLETE (R350). -/
def execMappingChangeComplete (n : Nat) (s : State) : Out :=
  match s.xlat.changes.find? fun c => c.queue == n with
  | none => .next s
  | some c =>
    if !deskUp s || s.accesses.any (translatedBefore c) then .next s else
    .next (finishAt { s with xlat := { s.xlat with changes := s.xlat.changes.erase c } } n c.pos c.status)

/-! ## Migration from the host (R351 to R354, R423) -/

/-- The record that a MIGRATE_SUPPLY or MIGRATE_REFUSE applies to (R423). -/
def answeredRecord (s : State) (m : Msg) : Option Nat :=
  let r := fld m.arg0 40 8
  match oget s.xlat.records r with
  | none => none
  | some x =>
    if x.ctx = fld m.arg0 48 10 ∧ x.page = fld m.arg0 0 40 ∧ (s.ctx x.ctx).migSession = m.session.toNat ∧ x.stage = .awaiting
    then some r else none

/-- MIGRATE_SUPPLY: the unit reads the page with one RDMA READ; a supply that names a connection of another session counts as a
refusal (R353, R423). -/
def execMigrateSupply (m : Msg) (s : State) : Out :=
  let conn := leNat (sub m.payload 12 2)
  .next (smtFirmware s m (fld m.arg0 58 6 == 0 && m.payload.length == 16 && leNat (sub m.payload 14 2) == 0) fun s _ =>
    match answeredRecord s m with
    | none => s
    | some r =>
      match oget s.xlat.records r with
      | none => s
      | some x =>
        if !(s.conn conn).any fun c => c.session == m.session.toNat && !c.error then migrationFail s r
        else roceIssue (setRecord s r { x with stage := .reading conn }) conn false (leNat (sub m.payload 0 8))
          (BitVec.ofNat 32 (leNat (sub m.payload 8 4))) 65536 [] (.migration r))

/-- MIGRATE_REFUSE (R354). -/
def execMigrateRefuse (m : Msg) (s : State) : Out :=
  .next (smtFirmware s m (fld m.arg0 58 6 == 0 && m.payload == []) fun s _ =>
    match answeredRecord s m with
    | none => s
    | some r => migrationFail s r)

/-- The leaf of a migrated page becomes KIND 1 with MIGRATING 0, its dirty bit set (R353). -/
def arrivePage (s : State) (ctx page : Nat) (bytes : List Byte) : State :=
  match findLeaf s ctx (page * 65536) with
  | none => s
  | some l =>
    let s := dramWrite s (leafAddr l.word) bytes (fun _ => false) false
    let new : Leaf := { l with word := setBit (setFld l.word 1 2 1) 7 false }
    let s := rewriteLeaves s ctx fun x => some (if x = l then new else x)
    noteDirty ((takePiece s (s.ctx ctx).carrel ctx new).getD s) ctx page

/-- MIGRATION_COMPLETE (R353). -/
def execMigrationComplete (rec : Nat) (s : State) : Out :=
  match oget s.xlat.records rec with
  | none => .next s
  | some x => match x.stage with
    | .arrived bytes =>
      if !bit s.power.clocks 1 then .next s else
      let s := arrivePage s x.ctx x.page bytes
      let s := s.modCtx x.ctx fun c => { c with migrations := satAdd 64 c.migrations 1 }
      .next (resumeQueue (freeRecord (mappingChanged s x.ctx) rec) x)
    | _ => .next s

/-! ## Carrels (R336 to R341, R605) -/

/-- Why a write of carrel `n` is refused (R338). -/
def carrelRefusal (s : State) (n : Nat) (c : Carrel) : Option Status :=
  let overlaps := c.units != 0 && (List.range 16).any fun k =>
    let d := s.carrel k
    k != n && d.units != 0 && decide (c.start < d.start + d.units) && decide (d.start < c.start + c.units)
  firstCase [
    (decide (256 < c.tenant), Code.valueOutOfRange),
    (decide (256 < c.start + c.units), Code.carrelOverlap),
    (overlaps, Code.carrelOverlap),
    (n == 0 && (c.units == 0 || (c.tenant != 0 && c.tenant != 256)), Code.carrelInUse),
    (contextsIn s n != 0, Code.carrelInUse),
    (n == 0 && (leavesOf s 0).any fun l => !ownLeaf 0 l, Code.carrelInUse),
    (c.units != 0 && (decide (c.tablePages < 256) || decide (65536 < c.tablePages) || decide (c.raw ≤ c.tablePages) ||
      decide (c.tablePages < 3 * c.units + 1)), Code.carrelInUse)]

/-- Build the root, nodes and mappings of context 0 again in carrel 0's table area (R338, R370). -/
def rebuildZero (s : State) : State :=
  let s := dropWalks (dropCached (setRuns s 0 []) fun e => e.ctx == 0) fun w => w.ctx == 0
  let s := (takeRun s 0 8 0 (.node 0 0)).getD s
  (leavesOf s 0).foldl (fun s l => putEntry ((takeNodes s 0 0 l).getD s) 0 (4 - l.size) l.va l.word) s

/-- The map counts of a defined carrel are zero: its map-count pages are cleared (R349, R605). -/
def clearCounts (s : State) (n : Nat) : State :=
  (List.range (3 * (s.carrel n).units)).foldl (fun s k => clearDram s ((s.carrel n).page (mapPage s n k) * 65536) 65536) s

/-- Put a carrel's definition in force (R338, R605). -/
def applyCarrel (s : State) (n : Nat) (c : Carrel) : State :=
  let s : State := { s with xlat := { s.xlat with
    carrels := sput Carrel.default s.xlat.carrels n c, moved := s.xlat.moved.filter (·.1 != n) } }
  let s := clearCounts (setRuns s n []) n
  if n = 0 then rebuildZero s else s

/-- The carrel that a CARREL_SET names. -/
def carrelArgs (p : BitVec 512) : Nat × Carrel :=
  (arg p 0 0 4, { start := arg p 0 8 8, units := arg p 0 16 9, tenant := arg p 0 32 9, tablePages := arg p 1 0 17 })

/-! ## Tallies (R314, R315, R379) -/

/-- TALLY_ASSIGN (R314). -/
def assignTallies (s : State) (p : BitVec 512) : Status × State :=
  let first := arg p 0 0 16
  let count := arg p 0 16 17
  let ctx := arg p 0 40 10
  if count = 0 ∨ 65536 < count then (Code.formatError, s)
  else if (s.ctx ctx).state ≠ .live then (Code.contextLost, s)
  else if 65536 < first + count ∨ (s.hub.tallies.any fun e => decide (first ≤ e.1) && decide (e.1 < first + count) && e.2.assigned)
  then (Code.tallyBusy, s)
  else
    let t : Tally := { assigned := true, tenant := tenantOf s ctx, owner := ctx, lastStatus := Code.success, abandoned := false,
                       value := arg p 1 0 63 }
    (Code.success, { s with hub := { s.hub with tallies := sfill (fun _ => Tally.free) s.hub.tallies first count fun _ => t } })

/-- TALLY_ASSIGN. -/
def execTallyAssign (n : Nat) (s : State) : Out := dispatchNow n 0x46 s assignTallies

/-- Release one assigned tally: its watches fire with "tally abandoned" unless it was abandoned before (R315). -/
def releaseTally (s : State) (n : Nat) : State :=
  let t := s.tally n
  if !t.assigned then s else
  (if t.abandoned then s else abandonTally s n).modTally n fun _ => Tally.free

/-- TALLY_RELEASE (R315). -/
def releaseTallies (s : State) (p : BitVec 512) : Status × State :=
  let first := arg p 0 0 16
  let count := arg p 0 16 17
  if count = 0 ∨ 65536 < count ∨ 65536 < first + count then (Code.formatError, s)
  else (Code.success, ((keysOf s.hub.tallies).filter fun n => decide (first ≤ n) && decide (n < first + count)).foldl releaseTally s)

/-- TALLY_RELEASE. -/
def execTallyRelease (n : Nat) (s : State) : Out := dispatchNow n 0x47 s releaseTallies

/-- TALLY_READ: the 16 bytes of R311 go to an address in context 0; one that cannot be written completes the command with
"translation fault". -/
def execTallyRead (n : Nat) (s : State) : Out :=
  dispatch n 0x48 s fun s f =>
    let va := arg f.packet 1 0 56
    match virtWrite s .desk 0 va (leBytes 16 (s.tally (arg f.packet 0 0 16)).image.toNat) deskMayUse with
    | .ok s => completeCmd s n f.pos f.packet Code.success
    | .error (.xlat (.migrate page) _, s) =>
      putBack (joinMigration s 0 page (.desk n) (deskInfo s n f.pos va 0 none)).2 n f
    | .error (.xlat (.poison pa) _, s) => raiseFault s (deskInfo s n f.pos va Code.poisonConsumed (some pa))
    | .error (.xlat .fault at_, s) =>
      if faultWaits s 0 at_ then putBack s n f else completeCmd s n f.pos f.packet Code.translationFault
    | .error e => completeCmd e.2 n f.pos f.packet Code.translationFault

/-! ## Page retirement (R47 to R51, R340) -/

/-- Retire a DRAM page in the field. -/
def retirePage (s : State) (page : Nat) : Status × State :=
  if 8192 ≤ s.dram.fieldRetired.length then (Code.retirementTableFull, s)
  else (Code.success, { s with dram := { s.dram with fieldRetired := s.dram.fieldRetired ++ [page] } })

/-- Copy bytes of DRAM, with their poison, from one place to another at the home caches. -/
def copyDram (s : State) (src dst k : Nat) : State :=
  let r := dramRead s src k false
  dramWrite r.2 dst r.1.bytes (fun j => r.1.poison.getD (j - dst / 32) false) false

/-- Whether a cached leaf was read from DRAM page `page`. -/
def XEntry.readFrom (s : State) (page : Nat) (e : XEntry) : Bool :=
  (entryAddr s e.ctx (4 - e.size) (e.page * pageBytes e.size)).any fun pa => pa / 65536 == page

/-- Move what carrel page `i` of carrel `n` holds to carrel page `y`: the data is copied, what was read from the page leaves the
caches, and the entries above a moved node name its new place (R340). -/
def moveTable (s : State) (n i y : Nat) : State :=
  let src := (s.carrel n).page i
  let dst := (s.carrel n).page y
  let here := (runsOf s n).filter (·.page == i)
  let maps := isMapPage s n i
  let s := dropWalks (dropCached s fun e => e.readFrom s src) fun w => w.pa / 65536 == src
  let s := if maps then copyDram s (src * 65536) (dst * 65536) 65536 else
    here.foldl (fun s r => copyDram s (src * 65536 + r.first * 256) (dst * 65536 + r.first * 256) (256 * r.blocks)) s
  let runs := (runsOf s n).map fun r => if r.page = i then { r with page := y } else r
  let s := setRuns s n (runs.foldl (fun rs r => insertBy (fun x => x.page * 256 + x.first) r rs) [])
  let s := here.foldl (fun s r => linkNode s r.ctx r (some (dst * 65536 + r.first * 256))) s
  { s with xlat := { s.xlat with moved := if maps then s.xlat.moved ++ [(n, i, y)] else s.xlat.moved } }

/-- PAGE_RETIRE (R48, R49, R340). -/
def pageRetire (s : State) (p : BitVec 512) : Status × State :=
  let page := arg p 0 0 25
  if 384 ≤ page / 65536 then (Code.reservedAddress, s)
  else if s.dram.retired page then (Code.success, s)
  else if mapCount s page ≠ 0 then (Code.pageMapped, s)
  else match carrelOf s page with
    | none => retirePage s page
    | some (n, i) =>
      let c := s.carrel n
      if !inTableArea s.dram c i then retirePage s page else
      let y := nthPage s.dram c c.tablePages
      if c.raw ≤ y ∨ s.dram.retired (c.page y) then (Code.tableSpaceFull, s)
      else if mapCount s (c.page y) ≠ 0 then (Code.pageMapped, s)
      else
        if 8192 ≤ s.dram.fieldRetired.length then (Code.retirementTableFull, s) else retirePage (moveTable s n i y) page

/-- PAGE_RETIRE. -/
def execPageRetire (n : Nat) (s : State) : Out := dispatchNow n 0x49 s pageRetire

/-! ## Queues (R369 to R371, R385, R388) -/

/-- CLASS of QUEUE_CREATE. -/
def classOf (c : Nat) : Option QClass := if c = 0 then some .kernel else if c = 1 then some .serving else if c = 2 then some .loan else none

/-- Whether a class may serve a context (R369). -/
def classFits (s : State) (cls : QClass) (ctx : Nat) : Bool :=
  match cls with
  | .kernel => ctx == 0
  | .serving => !(s.ctx ctx).loaned
  | .loan => (s.ctx ctx).loaned

/-- The queue that a QUEUE_CREATE describes, in IDLE with its positions at 0. -/
def newQueue (p : BitVec 512) (cls : QClass) : Queue :=
  { Queue.disabled with
      cls := cls, ctx := arg p 0 16 10, slot := arg p 0 32 8, session := arg p 0 40 8, log2 := arg p 0 48 5,
      ring := arg p 1 0 56, record := arg p 2 0 56 }

/-- QUEUE_CREATE (R371). -/
def createQueue (s : State) (p : BitVec 512) : Status × State :=
  let n := arg p 0 0 12
  let ctx := arg p 0 16 10
  let slot := arg p 0 32 8
  let cls := (classOf (arg p 0 12 2)).filter fun c => classFits s c ctx
  match firstCase [
    ((s.queue n).state != .disabled, Code.queueBusy),
    ((s.ctx ctx).state != .live, Code.contextLost),
    (cls.isNone, Code.queueClass),
    (cls == some .serving && (s.slot slot).queue != 0xFFFF, Code.slotInUse),
    (decide (191 < slot) || decide (arg p 0 48 5 < 4) || decide (16 < arg p 0 48 5) || arg p 1 0 56 % 64 != 0 ||
      arg p 2 0 56 % 64 != 0, Code.formatError)], cls with
  | none, some c =>
    let s := s.modQueue n fun _ => newQueue p c
    let s := if c = .serving then s.modSlot slot fun x => { x with queue := n } else s
    (Code.success, setQState s n .idle)
  | some st, _ => (st, s)
  | none, none => (Code.queueClass, s)

/-- QUEUE_CREATE. -/
def execQueueCreate (n : Nat) (s : State) : Out := dispatchNow n 0x4A s createQueue

/-- QUEUE_DESTROY (R370, R371). -/
def destroyQueue (s : State) (p : BitVec 512) : Status × State :=
  let n := arg p 0 0 12
  let q := s.queue n
  let quiet := q.retiredPos == q.readPos && q.cur.isEmpty && q.opened.isEmpty && q.wait.isNone
  if n ≠ 0 ∧ (q.state = .stopped ∨ ((q.state = .idle ∨ q.state = .halted) ∧ quiet)) then (Code.success, disableQueue s n)
  else (Code.queueBusy, s)

/-- QUEUE_DESTROY. -/
def execQueueDestroy (n : Nat) (s : State) : Out := dispatchNow n 0x4B s destroyQueue

/-- QUEUE_CONTROL with one ACTION. -/
def queueControl (n action : Nat) (s : State) (act : State → Nat → Status × State) : Out :=
  match readyPacket s n with
  | none => .next s
  | some f => if arg f.packet 0 12 2 ≠ action then .next s else
    dispatchNow n 0x4F s fun s p => act s (arg p 0 0 12)

/-- QUEUE_CONTROL resume (R385, R388). -/
def execQueueResume (n : Nat) (s : State) : Out :=
  queueControl n 0 s fun s k =>
    let q := s.queue k
    if q.state ≠ .halted then (Code.queueBusy, s)
    else (Code.success, setQState s k (if q.readPos = q.writePos then .idle else .active))

/-- QUEUE_CONTROL halt: the pending watch goes without firing, and its WAIT ends without a signal (R388). -/
def execQueueHalt (n : Nat) (s : State) : Out :=
  queueControl n 1 s fun s k =>
    match (s.queue k).state with
    | .halted => (Code.success, s)
    | .idle | .active | .waiting =>
      let s := dropWakes (removeWatches s fun w => w.kind == .queue k) fun w => w == .queue k
      let s := match (s.queue k).wait with
        | some w => closeCmd s k w.pos
        | none => s
      (Code.success, refill (setQState (s.modQueue k fun q => { q with pre := [] }) k .halted) k)
    | _ => (Code.queueBusy, s)

/-- Whether ring position `pos` lies in a range that a flush skipped. -/
def skipped (r : Word × Nat) (pos : Word) : Bool := decide ((pos - r.1).toNat < r.2)

/-- Skip the packets of a queue that have not been fetched: they neither act nor signal, and admission passes over them (R388). -/
def Queue.flushed (q : Queue) : Queue :=
  let r := (q.readPos, (q.writePos - q.readPos).toNat)
  let q : Queue := { q with
                    readPos := q.writePos, observed := q.writePos, pre := [],
                    copies := q.copies.filter fun f => !skipped r (BitVec.ofNat 32 f.pos),
                    overBudget := q.overBudget.filter fun pos => !skipped r pos,
                    skips := if q.cls == QClass.serving && r.2 != 0 then q.skips ++ [r] else q.skips }
  { q with retiredPos := q.oldest }

/-- QUEUE_CONTROL flush (R388). -/
def execQueueFlush (n : Nat) (s : State) : Out :=
  queueControl n 2 s fun s k =>
    if (s.queue k).state ≠ .halted then (Code.queueBusy, s) else (Code.success, s.modQueue k Queue.flushed)

end Sys2Proof.Machine
end

