-- ==== Sys2Proof/Machine/Roce.lean ====
section
/-! DEFINITION. The RoCEv2 subset: connections, what hosts ask for, and the answers to what the device asks for
(R353, R409 to R414, R421). -/

namespace Sys2Proof.Machine

/-! ## Connections (R414, R421) -/

/-- The full sending rate of a connection. -/
def fullRate : Nat := 65536

/-- CONNECT_REPLY. -/
def connectReply (s : State) (m : Msg) (st : Status) (arg0 : Nat) : State :=
  smtSend s m.session.toNat (OutMsg.plain 0x41 st m.tag (BitVec.ofNat 64 arg0))

/-- Whether CONNECT may bind queue `q` for a session (R421). -/
def mayBind (s : State) (q : Nat) (x : Session) : Bool :=
  (s.queue q).state != .disabled && tenantOf s (s.queue q).ctx == x.tenant && ((s.queue q).cls != .kernel || x.operator)

/-- The payload of CONNECT: host QPN, host start PSN, PMTU; unnamed bytes are zero (R419). -/
def connectOk (m : Msg) : Bool :=
  decide (9 ≤ m.payload.length) && (m.payload.getD 3 0) == 0 && (m.payload.getD 7 0) == 0 &&
  decide ((m.payload.getD 8 0).toNat ≤ 2) && (m.payload.drop 9).all (· == 0)

/-- CONNECT (R410, R419, R421); the device's start PSN is a free value. -/
def execConnect (m : Msg) (s : State) : Out :=
  .next (smtFirmware s m (fld m.arg0 13 51 == 0) fun s x =>
    let q := fld m.arg0 0 12
    let bound := bit m.arg0 12
    if !connectOk m then sendStatus s m.session.toNat Code.formatError m.tag
    else if bound ∧ !mayBind s q x then connectReply s m Code.doorbellNotPermitted 0
    else match firstBelow 1024 fun n => (s.conn n).isNone with
    | none => connectReply s m Code.connectionTableFull 0
    | some n =>
      let d := s.draw
      let psn : BitVec 24 := BitVec.ofNat 24 (Config.free d.1)
      let c : Conn :=
        { session := m.session.toNat, qpn := BitVec.ofNat 24 (leNat (sub m.payload 0 3)),
          rxPsn := BitVec.ofNat 24 (leNat (sub m.payload 4 3)), txPsn := psn,
          pmtu := 1024 * 2 ^ (m.payload.getD 8 0).toNat, bound := if bound then some q else none, error := false, reqs := [],
          retries := 0, rate := fullRate, cnpAt := 0, cnpSent := none }
      connectReply (d.2.setConn n (some c)) m Code.success (n ||| (0x10000 + n) <<< 16 ||| psn.toNat <<< 40))

/-- DISCONNECT: a connection of the message's session is removed (R414). -/
def execDisconnect (m : Msg) (s : State) : Out :=
  .next (smtFirmware s m (fld m.arg0 10 54 == 0 && m.payload == []) fun s _ =>
    let n := fld m.arg0 0 10
    if (s.conn n).any (·.session == m.session.toNat) then removeConn s n else s)

/-! ## Requests of the host (R409 to R412) -/

/-- A RoCEv2 packet arrives: on a peer port, on a foreign VLAN or beyond MTU it is discarded and counted (R402, R405, R407). `ext` is
the length of its extension headers; a message of several packets fills them to the path MTU. -/
def roceArrives (s : State) (p : RocePacket) (ext : Nat) (act : State → State) : State :=
  let c := s.conn p.conn
  let ip := ((c.bind fun c => s.session c.session).map (·.ip)).getD 0
  arrive s p.port p.vlan.toNat (roceBytes ip ext (Nat.min p.payload.length ((c.map (·.pmtu)).getD 4096))) fun s =>
    if 2 ≤ p.port then dropFrame s p.port else act s

/-- The connection that a packet reaches, which then answers on it. -/
def roceHears (s : State) (p : RocePacket) : Option Conn :=
  (s.conn p.conn).filter fun c => !c.error && (s.session c.session).any fun x => x.port == p.port

/-- A packet marked Congestion Experienced: the device sends a CNP, at most one per connection every 50 µs (after R414). -/
def congested (s : State) (p : RocePacket) : State :=
  match roceHears s p with
  | none => s
  | some c =>
    if p.marked && c.cnpSent.all fun t => decide (t + 50000 ≤ s.power.now) then
      emit (s.setConn p.conn (some { c with cnpSent := some s.power.now })) (.cnp p.conn)
    else s

/-- Send a NAK, counted by the port; any but a sequence NAK puts the connection in the error state (R411). Codes as IBTA numbers
them: 0 sequence, 1 invalid request, 2 remote access, 3 remote operational. -/
def roceNakSend (s : State) (port n : Nat) (psn : BitVec 24) (code : Nat) : State :=
  let s := (emit s (.roceNak n psn code)).modPort port fun p => { p with nakSent := satAdd 64 p.nakSent 1 }
  if code = 0 then s else failConn s n

/-- A request packet: in order, repeated, or ahead of its turn (R409, R410). `again` answers a repeated one. -/
def roceRequest (s : State) (p : RocePacket) (span : Nat → Nat) (again : State → Conn → State)
    (act : State → Conn → Session → Except (Nat × State) State) : State :=
  match s.conn p.conn with
  | none => s
  | some c =>
    match s.session c.session with
    | none => s
    | some x =>
      if x.port ≠ p.port ∨ c.error then s
      else if s.power.devState = .stopping then roceNakSend s p.port p.conn p.psn 3
      else if p.psn ≠ c.rxPsn then
        if (p.psn - c.rxPsn).toNat < 2 ^ 23 then roceNakSend s p.port p.conn c.rxPsn 0 else again s c
      else match act s c x with
        | .error e => roceNakSend e.2 p.port p.conn p.psn e.1
        | .ok s => match s.conn p.conn with
          | none => s
          | some c => s.setConn p.conn (some { c with rxPsn := c.rxPsn + BitVec.ofNat 24 (span c.pmtu) })

/-- CONTEXT of an R_Key. -/
def keyCtx (k : Word) : Nat := fld k 22 10

/-- The checks of R411 on the R_Key. -/
def keyOk (s : State) (x : Session) (k : Word) : Bool :=
  (s.ctx (keyCtx k)).state == .live && tenantOf s (keyCtx k) == x.tenant && fld k 0 22 == x.keyTag.toNat

/-- Leaves that host RDMA may use: KIND 1, not device type (R411). -/
def hostMayUse (t : Target) : Bool := match t with | .phys _ dev => !dev | .remote _ _ _ => false

/-- The acknowledgement of a request whose last packet has sequence number `last`. -/
def roceDone (s : State) (n : Nat) (last : BitVec 24) : State := emit s (.roceAck n last)

/-- The last sequence number of a request. -/
def lastPsn (psn : BitVec 24) (pmtu n : Nat) : BitVec 24 := psn + BitVec.ofNat 24 (psnSpan pmtu n - 1)

/-- RDMA_WRITE (R411). A write that R244 refuses is answered with Remote Access Error, of which R411 and R245 say nothing (LOG 140);
a poisoned table entry is also a fault of the context that owns the table (R41). -/
def execRdmaWrite (p : RocePacket) (s : State) : Out :=
  let n := p.payload.length
  .next (roceArrives s p 16 fun s =>
    roceRequest (congested s p) p (fun pmtu => psnSpan pmtu n) (fun s c => roceDone s p.conn (c.rxPsn - 1)) fun s c x =>
      if p.length ≠ n then .error (1, s)
      else if !keyOk s x p.rkey then .error (2, s)
      else match virtWrite s (.port p.port) (keyCtx p.rkey) p.va.toNat p.payload hostMayUse with
        | .error e => .error (2, walkFault e.2 (keyCtx p.rkey) e.1)
        | .ok s => .ok (roceDone s p.conn (lastPsn p.psn c.pmtu n)))

/-- What an RDMA READ reads; the errors of a poisoned sector are counted though nothing is answered (R36 to R41). -/
def roceReadData (s : State) (x : Session) (p : RocePacket) : Except (Nat × State) (List Byte × State) :=
  if !keyOk s x p.rkey then .error (2, s)
  else match virtRead s (.port p.port) (keyCtx p.rkey) p.va.toNat p.length hostMayUse with
    | .ok (g, s) => .ok (g.bytes, s)
    | .error (.poisoned _ _, s) => .error (3, s)
    | .error e => .error (2, walkFault e.2 (keyCtx p.rkey) e.1)

/-- RDMA_READ (R411); a repeated request is read again. -/
def execRdmaRead (p : RocePacket) (s : State) : Out :=
  let answer (s : State) (x : Session) : Except (Nat × State) State :=
    (roceReadData s x p).map fun r => emit r.2 (.roceRead p.conn p.psn r.1)
  .next (roceArrives s p 16 fun s => roceRequest (congested s p) p (fun pmtu => psnSpan pmtu p.length)
    (fun s c => match s.session c.session with
      | some x => match answer s x with
        | .ok s => s
        | .error e => roceNakSend e.2 p.port p.conn p.psn e.1
      | none => s)
    fun s _ x => if p.payload ≠ [] then .error (1, s) else answer s x)

/-- SEND on a bound connection: packets to the ring, then a doorbell (R412). -/
def execSend (p : RocePacket) (s : State) : Out :=
  let n := p.payload.length
  .next (roceArrives s p 0 fun s =>
    roceRequest (congested s p) p (fun pmtu => psnSpan pmtu n) (fun s c => roceDone s p.conn (c.rxPsn - 1)) fun s c x =>
    match c.bound with
    | none => .error (3, s)
    | some q =>
      if n % 64 ≠ 0 ∨ n < 64 ∨ 4096 < n then .error (3, s)
      else match submit s q p.payload x.tenant x.operator with
        | .error e => .error (3, e.2)
        | .ok s => .ok (roceDone s p.conn (lastPsn p.psn c.pmtu n)))

/-! ## Answers to the device's requests (R353, R410, R413, R414) -/

/-- An RDMA request of the device has been answered. -/
def endRequest (s : State) (r : RdmaReq) (data : List Byte) : State :=
  match r.use with
  | .access id => match s.access id with
    | some a => if r.write then finishAccess s a else remoteData s a data []
    | none => s
  | .migration n => match oget s.xlat.records n with
    | some m => setRecord s n { m with stage := .arrived data }
    | none => s

/-- The writes at the head of a list of requests that an acknowledgement of `psn` covers. -/
def ackedWrites (pmtu : Nat) (psn : BitVec 24) (rs : List RdmaReq) : List RdmaReq :=
  rs.takeWhile fun r => r.sent && r.write && decide ((psn - lastPsn r.psn pmtu r.length).toNat < 2 ^ 23)

/-- Take the first `k` requests off a connection; `data` answers the last of them when it is a read. -/
def retireRequests (s : State) (n : Nat) (c : Conn) (k : Nat) (data : List Byte) : State :=
  if k = 0 then s else
  let s := s.setConn n (some { c with reqs := c.reqs.drop k, retries := 0 })
  rocePump ((c.reqs.take k).foldl (fun s r => endRequest s r data) s) n

/-- ROCE_ACK: RDMA WRITEs complete on their acknowledgement (R413). -/
def execRoceAck (p : RocePacket) (s : State) : Out :=
  .next (roceArrives s p 4 fun s =>
    let s := congested s p
    match roceHears s p with
    | none => s
    | some c => retireRequests s p.conn c (ackedWrites c.pmtu p.psn c.reqs).length [])

/-- RDMA_READ_RESPONSE: the oldest read completes on its response, and the writes before it with it (R353, R413). -/
def execRdmaReadResponse (p : RocePacket) (s : State) : Out :=
  .next (roceArrives s p 4 fun s =>
    let s := congested s p
    match roceHears s p with
    | none => s
    | some c =>
      let i := c.reqs.findIdx fun r => !r.write
      match c.reqs[i]? with
      | none => s
      | some r =>
        if r.sent ∧ r.psn = p.psn ∧ r.length = p.payload.length then retireRequests s p.conn c (i + 1) p.payload else s)

/-- Send the outstanding requests of a connection again. -/
def roceResend (s : State) (n : Nat) (c : Conn) : State :=
  (c.reqs.filter (·.sent)).foldl (fun s r => emit s (.rdma n r)) (s.setConn n (some { c with retries := c.retries + 1 }))

/-- ROCE_NAK: a sequence NAK makes the device send again; any other fails the connection (R410, R414). -/
def execRoceNak (p : RocePacket) (s : State) : Out :=
  .next (roceArrives s p 4 fun s =>
    let s := congested s p
    match roceHears s p with
    | none => s
    | some c => if p.syndrome = 0 ∧ c.retries < 7 then roceResend s p.conn c else failConn s p.conn)

/-- ROCE_RETRY_TIMER: at most 7 retries (R410). -/
def execRoceRetryTimer (conn : Nat) (s : State) : Out :=
  match s.conn conn with
  | none => .next s
  | some c =>
    .next (if bit s.power.clocks 1 && !c.error && c.reqs.any (·.sent) && decide (c.retries < 7) then roceResend s conn c else s)

/-- CONNECTION_FAILED: 7 retries without an answer (R410, R414). -/
def execConnectionFailed (conn : Nat) (s : State) : Out :=
  match s.conn conn with
  | none => .next s
  | some c =>
    .next (if bit s.power.clocks 1 && !c.error && c.reqs.any (·.sent) && decide (7 ≤ c.retries) then failConn s conn else s)

/-- The sending rate of a connection now. -/
def Conn.rateAt (c : Conn) (now : Nat) : Nat :=
  Nat.min fullRate (c.rate + (fullRate - c.rate) * (now - c.cnpAt) / 100000)

/-- CNP: the sending rate halves (R414). -/
def execCnp (conn : Nat) (s : State) : Out :=
  match s.conn conn with
  | none => .next s
  | some c =>
    .next (if (s.session c.session).any fun x => portUp s x.port then
      s.setConn conn (some { c with rate := c.rateAt s.power.now / 2, cnpAt := s.power.now }) else s)

end Sys2Proof.Machine
end

