-- ==== Sys2Proof/Machine/Net.lean ====
section
/-! DEFINITION. Frames that belong to no transport, the links, the time base and the reference clocks of the ports
(R402 to R408, R432, R526, R548, R549, R551, R555). -/

namespace Sys2Proof.Machine

/-! ## Flow control (R408) -/

/-- The time in nanoseconds that a pause of `q` quanta of 512 bits lasts at the port's speed. -/
def pauseNs (runMode q : Nat) : Nat := q * 512 / (if runMode = 3 then 400 else 800)

/-- PFC_FRAME: the named priorities pause for their times; a time of zero resumes one, and what waited for it goes. -/
def execPfcFrame (port : Nat) (mask : BitVec 8) (quanta : List Nat) (s : State) : Out :=
  if !portUp s port then .next s else
  let now := s.power.now
  .next (pump (s.modPort port fun p => { p with
    paused := (below 8 fun i => bit mask i).foldl (fun m i =>
      let t := pauseNs p.runMode (quanta.getD i 0)
      sput (fun _ => 0) m i (if t = 0 then 0 else now + t)) p.paused }))

/-- PFC_PAUSE_EXPIRY: what waited for the priority goes. -/
def execPfcPauseExpiry (port prio : Nat) (s : State) : Out :=
  let until_ := sget (fun _ => 0) (s.port port).paused prio
  if until_ = 0 then .next s else
  let s := s.modPort port fun p => { p with paused := sput (fun _ => 0) p.paused prio 0 }
  .next (pump { s with power := { s.power with now := Nat.max s.power.now until_ } })

/-- The receive buffer of a lossless priority fills or drains to `level` percent: above three quarters the port asks for a pause,
below one half it resumes (R408). -/
def bufferLevel (s : State) (port prio level : Nat) : State :=
  let s := s.modPort port fun p => { p with rxLevel := sput (fun _ => 0) p.rxLevel prio level }
  let p := s.port port
  if bit p.pfcEnable prio && decide (75 < level) && !bit p.pausing prio then
    emit (s.modPort port fun p => { p with pausing := setBit p.pausing prio true }) (.pause port prio true)
  else if decide (level < 50) && bit p.pausing prio then
    emit (s.modPort port fun p => { p with pausing := setBit p.pausing prio false }) (.pause port prio false)
  else s

/-- Frames arrive faster or slower than they are used: the level of one receive buffer of a port that is up moves by a free choice
(LOG 143). -/
def bufferTurn (s : State) : State :=
  let d := s.draw
  let v := Config.free d.1
  let t := if portUp d.2 (v % 10) then bufferLevel d.2 (v % 10) (v / 10 % 8) (v / 80 % 101) else d.2
  { s with ports := t.ports, fresh := t.fresh }

/-- A port that is up receives codewords: its FEC corrects one, fails to correct one, or finds no error, by a free choice (R433,
R434, LOG 124). -/
def codewordTurn (s : State) : State :=
  let d := s.draw
  let v := Config.free d.1
  let t := if portUp d.2 (v % 10) then d.2.modPort (v % 10) fun p =>
      match v / 10 % 3 with
      | 0 => { p with fecCorr := satAdd 64 p.fecCorr 1 }
      | 1 => { p with fecUncorr := satAdd 64 p.fecUncorr 1 }
      | _ => p
    else d.2
  { s with ports := t.ports, fresh := t.fresh }

/-! ## Addresses and echoes (R402, R403, R406, R526) -/

/-- Keep a resolved address, of 256 the newest; the frames held for it go (R406). -/
def resolve (s : State) (a : AddrMsg) : State :=
  pump (s.modPort a.port fun p =>
    { p with resolved := ((a.senderIp, a.senderMac) :: p.resolved.filter (·.1 != a.senderIp)).take 256 })

/-- A request for the port's own address is answered; a reply resolves its sender. -/
def addressMsg (a : AddrMsg) (s : State) : State :=
  arrive s a.port a.vlan.toNat 0 fun s =>
    if a.request then (if ownIp s a.port = some a.targetIp then emit s (.neighbour a.port a.senderIp a.senderMac) else s)
    else resolve s a

/-- ARP. -/
def execArp (a : AddrMsg) (s : State) : Out := .next (addressMsg a s)

/-- NEIGHBOR_DISCOVERY. -/
def execNeighborDiscovery (a : AddrMsg) (s : State) : Out := .next (addressMsg a s)

/-- ICMP_ECHO: a request to the port's own address is answered with its payload. -/
def execIcmpEcho (e : EchoMsg) (s : State) : Out :=
  .next (arrive s e.port e.vlan.toNat (ipHeader e.srcIp + 8 + e.payload.length) fun s =>
    if e.request ∧ ownIp s e.port = some e.targetIp then emit s (.echo e.port e.srcIp e.payload) else s)

/-- UNSUPPORTED_FRAME: discarded, and counted or answered as its kind asks (R402, R405, R407, R409, R415, R450). -/
def execUnsupportedFrame (u : OddFrame) (s : State) : Out :=
  if !portUp s u.port then .next s else
  match u.kind with
  | .foreign => .next (dropFrame s u.port)
  | .tooLong bytes => .next (if (s.port u.port).mtu < bytes then dropFrame s u.port else s)
  | .wrongVlan vlan => .next (if admits s u.port vlan.toNat 0 then s else dropFrame s u.port)
  | .roceOpcode n psn =>
    .next (if 2 ≤ u.port then dropFrame s u.port
      else if (s.conn n).any fun c => !c.error && (s.session c.session).any fun x => x.port == u.port then
        roceNakSend s u.port n psn 1 else s)
  | .smtUnknown session tag =>
    .next (if 2 ≤ u.port then dropFrame s u.port
      else if (s.session session.toNat).any fun x => x.port == u.port then
        sendStatus s session.toNat Code.formatError tag else s)
  | .reductionUnknown =>
    .next (if 2 ≤ u.port then { s with plans := { s.plans with discarded := satAdd 64 s.plans.discarded 1 } } else dropFrame s u.port)

/-! ## Links and reference clocks -/

/-- The mode that a link runs in: the one forced by LINK_MODE, or in auto mode the fastest that the partner shares, where bit n of
`partner` is mode n + 1 and four lanes come before eight (R404, LOG 144); 0 where they share none. -/
def linkRuns (mode : Nat) (partner : BitVec 3) : Nat :=
  if mode ≠ 0 then (if bit partner (mode - 1) then mode else 0)
  else ((below 3 fun i => bit partner i).head?.map (· + 1)).getD 0

/-- LINK_STATE_CHANGE: 0 down, 1 training, 2 up in a mode that both ends share; a link that goes down closes nothing, and frames that
waited for one that comes up go (R404). -/
def execLinkStateChange (port : Nat) (change : LinkChange) (s : State) : Out :=
  let state := change.state
  let run := linkRuns (s.port port).linkMode change.partner
  if port < 10 ∧ state ≤ 2 ∧ bit s.power.clocks (27 + port) ∧ (state ≠ 2 ∨ run ≠ 0) then
    let s := s.modPort port fun p => { p with linkState := state, runMode := if state = 2 then run else 0 }
    .next (if state = 2 then pump s else s)
  else .next s

/-- The ports of a reference clock: H0 and P0 to P3, or H1 and P4 to P7 (R547). -/
def refPorts (n : Nat) : List Nat := if n = 0 then [0, 2, 3, 4, 5] else if n = 1 then [1, 6, 7, 8, 9] else []

/-- Set the clock of port domains. -/
def portClocks (c : BitVec 64) (ports : List Nat) (on : Bool) : BitVec 64 := ports.foldl (fun c p => setBit c (27 + p) on) c

/-- ETH_REFCLK_LOSS: the clocks of the ports stop and their links are down (R548, R551). -/
def execEthRefclkLoss (n : Nat) (s : State) : Out :=
  if 2 ≤ n then .next s else
  let s : State := { s with power := { s.power with
    ethRef := setBit s.power.ethRef n false, clocks := portClocks s.power.clocks (refPorts n) false } }
  .next ((refPorts n).foldl (fun s p => s.modPort p fun x => { x with linkState := 0 }) s)

/-- ETH_REFCLK_RETURN: the ports' clocks restart where the device runs, and their links train again (R551, R555). -/
def execEthRefclkReturn (n : Nat) (s : State) : Out :=
  if 2 ≤ n ∨ bit s.power.ethRef n then .next s else
  let s : State := { s with power := { s.power with ethRef := setBit s.power.ethRef n true } }
  if !bit s.power.clocks 1 then .next s else
  let s : State := { s with power := { s.power with clocks := portClocks s.power.clocks (refPorts n) true } }
  .next ((refPorts n).foldl (fun s p => s.modPort p fun x => { x with linkState := 1 }) s)

/-! ## The time base (R432, R549) -/

/-- The master's time is `offset` ahead: mode 2 steps beyond 1 µs, otherwise the rate is slewed (R432). -/
def steer (s : State) (mode : Nat) (offset : Int) : State :=
  if mode = 2 ∧ 1000 < offset.natAbs then
    { s with power := { s.power with now := ((s.power.now : Int) + offset).toNat, slew := 0 } }
  else { s with power := { s.power with slew := offset } }

/-- The time of a Sync is known: the port asks for the delay (R403). -/
def askDelay (s : State) (port t1 t2 : Nat) : State :=
  let s : State := { s with ports := { s.ports with ptpSync := some { t1 := some t1, t2 := t2, t3 := some s.power.now } } }
  emit s (.delayReq port)

/-- What a slave does with a message of its master: the delay request-response of R403. With Sync sent at t1 and received at t2, and
the delay request sent at t3 and received at t4, the master is ahead by half of (t1 - t2) + (t4 - t3) (LOG 145). -/
def ptpAct (s : State) (port : Nat) (m : PtpMsg) : State :=
  match m.kind, s.ports.ptpSync with
  | .sync (some t1), _ => askDelay s port t1 s.power.now
  | .sync none, _ => { s with ports := { s.ports with ptpSync := some { t1 := none, t2 := s.power.now, t3 := none } } }
  | .followUp t1, some x => if x.t1 = none then askDelay s port t1 x.t2 else s
  | .delayResp t4, some { t1 := some t1, t2 := t2, t3 := some t3 } =>
    let s : State := { s with ports := { s.ports with ptpSync := none } }
    steer s (s.port port).ptpMode ((((t1 : Int) - t2) + ((t4 : Int) - t3)) / 2)
  | _, _ => s

/-- PTP_MESSAGE: the port that holds the PTP function follows its master; a peer port discards it (R402, R403, R432). -/
def execPtpMessage (port : Nat) (m : PtpMsg) (s : State) : Out :=
  .next (arrive s port m.vlan.toNat 0 fun s =>
    if 2 ≤ port then dropFrame s port
    else if s.ports.ptpPort = some port ∧ (s.port port).ptpMode ≠ 0 then ptpAct s port m else s)

/-- One nanosecond of REFCLK_CORE: the time base advances by one; while PTP slews, by a free choice of one more or one less
(R549, LOG 3). -/
def tickTime (s : State) : State :=
  if s.power.slew = 0 then { s with power := { s.power with now := s.power.now + 1 } } else
  let d := s.draw
  let turn := Config.free d.1 % 2
  let s := d.2
  if 0 < s.power.slew then { s with power := { s.power with now := s.power.now + 1 + turn, slew := s.power.slew - turn } }
  else { s with power := { s.power with now := s.power.now + 1 - turn, slew := s.power.slew + turn } }

end Sys2Proof.Machine
end

