-- ==== Sys2Proof/Machine/Ctl.lean ====
section
/-! DEFINITION. The instruction and data caches of the control cores, and the turn of everything that goes on by itself while time
passes (R263 to R265, R268, R408, LOG 3, LOG 19). -/

namespace Sys2Proof.Machine

/-! ## The caches of a control core (R263, R264) -/

/-- Ways and sets of a control core's cache: 2 x 128 for instructions, 4 x 64 for data (R263). -/
def ctlShape (data : Bool) : Nat × Nat := if data then (4, 64) else (2, 128)

/-- The way that holds `line`. -/
def CtlCache.find (c : CtlCache) (shape : Nat × Nat) (line : Nat) : Option (Nat × CtlLine) :=
  let base := shape.1 * (line % shape.2)
  (List.range shape.1).findSome? fun w => ((oget c.lines (base + w)).filter (·.line == line)).map fun x => (base + w, x)

/-- Put a line into a way. -/
def CtlCache.put (c : CtlCache) (key : Nat) (x : CtlLine) : CtlCache := { c with lines := oput c.lines key (some x) }

/-- A load of `line`: a hit sets AGE = 0, also while a miss is outstanding; a miss goes out when none is, and else waits (R249,
R263, R264). -/
def CtlCache.load (c : CtlCache) (shape : Nat × Nat) (line : Nat) : CtlCache :=
  match c.find shape line with
  | some (key, x) => c.put key { x with age := 0 }
  | none => if c.miss.isSome then c else { c with miss := some line }

/-- The outstanding miss completes with `data`: the line takes the lowest invalid way, or the lowest of the oldest after the set has
aged, with AGE = 1 (R249, R250). -/
def CtlCache.fill (c : CtlCache) (shape : Nat × Nat) (data : Line) : CtlCache :=
  match c.miss with
  | none => c
  | some line =>
    let base := shape.1 * (line % shape.2)
    let new : CtlLine := { line := line, age := 1, data := data }
    let c := { c with miss := none }
    match firstBelow shape.1 fun w => (oget c.lines (base + w)).isNone with
    | some w => c.put (base + w) new
    | none =>
      let age (w : Nat) : Nat := ((oget c.lines (base + w)).map (·.age.toNat)).getD 0
      let oldest := (List.range shape.1).foldl (fun m w => Nat.max m (age w)) 0
      let c := (List.range shape.1).foldl (fun c w => match oget c.lines (base + w) with
        | some x => c.put (base + w) { x with age := BitVec.ofNat 2 (age w + (3 - oldest)) }
        | none => c) c
      c.put (base + ((firstBelow shape.1 fun w => age w == oldest).getD 0)) new

/-- A store of `data` to `line`: it writes through, and a copy in the data cache is updated (R263). -/
def CtlCache.store (c : CtlCache) (line : Nat) (data : Line) : CtlCache :=
  match c.find (ctlShape true) line with
  | some (key, x) => c.put key { x with data := data }
  | none => c

/-- Change one cache of a control core. -/
def CtlCore.mod (k : CtlCore) (data : Bool) (f : CtlCache → CtlCache) : CtlCore :=
  if data then { k with dcache := f k.dcache } else { k with icache := f k.icache }

/-- Whether control core `n` is clocked: a cluster sequencer's by its cluster's domain, the Desk's by domain 1 (R548). -/
def ctlUp (s : State) (n : Nat) : Bool := bit s.power.clocks (if n < 24 then 3 + n else 1)

/-- The firmware goes on by itself: one control core loads, or completes its miss, or stores, which of them and where being free; the
caches hold its private image and data alone, so nothing else is touched (R265, LOG 19). -/
def firmwareTurn (s : State) : State :=
  let d := s.draw
  let e := d.2.draw
  let v := Config.free d.1
  let word : Line := BitVec.ofNat 1024 (Config.free e.1)
  let n := v % 28
  let data := v / 28 % 2 == 1
  let line := v / 224
  let act (c : CtlCache) : CtlCache :=
    match v / 56 % 4 with
    | 0 => c.fill (ctlShape data) word
    | 1 => if data then c.store line word else c.load (ctlShape data) line
    | _ => c.load (ctlShape data) line
  let t := if ctlUp s n then e.2.modCtl n fun k => k.mod data act else e.2
  { s with ctl := t.ctl, fresh := t.fresh }

/-! ## Time passes (LOG 3) -/

/-- A nanosecond passes: the time base goes on, and with it the whole-cache walks, the codewords and receive buffers of
the ports, and the firmware. -/
def tick (s : State) : State := firmwareTurn (codewordTurn (bufferTurn (tickWalks (tickTime s))))

end Sys2Proof.Machine
end

