-- ==== Sys2Proof/Machine/Blocks.lean ====
section
/-! DEFINITION. `exit`, the placement and retirement of blocks, stopping and restoring a launch on a core, and the completion of
a launch (R59 to R62, R79, R80, R95 to R97, R200, R212, R237 to R240, R270, R304, R306, R383, R384). -/

namespace Sys2Proof.Machine

/-! ## `exit` -/

/-- Clear exited lanes in a reconvergence entry (R79). -/
def StackEntry.clear (e : StackEntry) (m : Word) : StackEntry :=
  { e with pendingMask := e.pendingMask &&& ~~~m, savedMask := e.savedMask &&& ~~~m }

/-- Clear exited lanes in the spilled entries (R79, R83). -/
def clearSpilled (s : State) (c : Nat) (g : Group) (l : Launch) (m : Word) : State :=
  (List.range g.spilled).foldl (fun s i =>
    let a := spillAddr s c g l i
    let x := (StackEntry.ofImage (BitVec.ofNat 256 (leNat (lsRead s c a 32).bytes))).clear m
    lsWrite s c a (leBytes 32 x.image.toNat) fun _ => false) s

/-- Whether a group has a failed write that nothing has reported (R304, R231). -/
def unreportedFailure (s : State) (c k n : Nat) : Bool :=
  s.accesses.any (fun a => a.by c k n && a.hasFailed) ||
  (List.range 4).any fun i =>
    let t := s.streamer c i
    t.descs.any (fun d => d.slot == k && d.failed) || t.done.any fun d => d.slot == k && d.failed

/-- End the descriptors of a block on streamer `i` of core `c`: a load stops at once, with what it has on its way and what it
prefetched, a store writes what was produced (R212). -/
def endTiles (s : State) (c b i : Nat) : State :=
  let t := s.streamer c i
  let stops (d : TsDesc) : Bool := d.block == b && !d.isStore
  let s := if t.descs.head?.any stops then
      dropBuffer { s with accesses := s.accesses.filter fun a => !(a.engine == .streamer c i && a.kind == .load) } (.streamer c i)
    else s
  s.modStreamer c i fun t => { t with
    descs := (t.descs.filter fun d => !stops d).map fun d => if d.block = b then { d with ending := true } else d }

/-- End the descriptors of a block whose last group has exited (R212). -/
def endBlock (s : State) (c b : Nat) : State := (List.range 4).foldl (fun s i => endTiles s c b i) s

/-- Every group of a block has exited. -/
def blockDone (s : State) (c b : Nat) : Bool := (blockGroups s c b).all fun e => e.2.done

/-- `exit` (R79, R80, R86, R110, R304). -/
def execExit (r : GroupRef) (f : RFields) (s : State) : Out :=
  let i := bareForm f
  issue s r i fun e =>
    let m := e.g.acting f.guard
    if m = 0 then .ok (advance e i e.s) else
    let g := { e.g with active := e.g.active &&& ~~~m, exited := e.g.exited ||| m, stack := e.g.stack.map fun (x : StackEntry) => x.clear m }
    if g.done then
      if unreportedFailure e.s e.c e.k e.n then .error (Trap.plain Code.remoteWriteLost) else
      let s := (accountIssue e.s e.c e.quad e.slot i.srcs i.dsts).setGroup e.c e.k (some { g with stack := [] })
      let s := releaseBlock (reuseForget s e.c e.quad e.slot) e.c g.block e.l
      .ok (if blockDone s e.c g.block then endBlock s e.c g.block else s)
    else .ok (advance e i (clearSpilled (e.s.setGroup e.c e.k (some g)) e.c e.g e.l m))

/-! ## Placement (R61, R73, R75, R237, R240, R270, R383) -/

/-- Free group slots of a quadrant of core `c` under the launch's registers. -/
def freeSlots (s : State) (c q : Nat) (l : Launch) : Nat :=
  l.perQuad - ((olist (s.core c).work.groups).filter fun e => e.1 / 16 == q).length

/-- The quadrant with the most free slots, the lowest on a tie (R61). -/
def pickQuad (s : State) (c : Nat) (l : Launch) : Nat :=
  (List.range 4).foldl (fun b q => if freeSlots s c b l < freeSlots s c q l then q else b) 0

/-- The resident blocks of a core. -/
def residentBlocks (s : State) (c : Nat) : List (Nat × Block) := olist (s.core c).work.blocks

/-- A new group of a block: lanes beyond the block's threads start exited, uniform registers as the launch supplies them
(R59, R382). -/
def newGroup (n block index : Nat) (l : Launch) : Group :=
  let here := Nat.min 32 (l.threads - 32 * index)
  let active : Word := BitVec.ofNat 32 (2 ^ here - 1)
  { launch := n, block := block, index := index, pc := BitVec.ofNat 64 (fld l.desc 0 56), active := active, exited := ~~~active,
    v := [], u := (l.uniforms.zipIdx).foldl (fun m x => sput (fun _ => 0) m x.2 x.1) [], p := [], stack := [], spilled := 0,
    flags := 0, wait := .ready, res := [], epoch := 0 }

/-- Place group `index` of a block in the lowest free slot of its quadrant, the model's choice where R61 names only the quadrant
(LOG 137). -/
def placeGroup (s : State) (c n b index : Nat) (l : Launch) : State :=
  let q := pickQuad s c l
  let slot := (firstBelow 16 fun i => (s.group c (16 * q + i)).isNone).getD 0
  let k := 16 * q + slot
  let s := s.setGroup c k (some (newGroup n b index l))
  s.modWork c fun w => { w with blocks := oput w.blocks b ((oget w.blocks b).map fun x => { x with slots := x.slots ++ [k] }) }

/-- What a core does when the first block of a launch is placed on it: local store (R240), the L1 (R270), the matrix engine
(R200), and the start of its charge (R398). -/
def firstBlock (s : State) (c : Nat) (l : Launch) : State :=
  let k := s.core c
  let same := k.prevCtx == some l.ctx
  let draw := s.draw
  let keep (off : Nat) : Bool := same && Config.lsKept draw.1 off
  let s := if same && k.prevLsKib == l.lsKib && !bit l.desc 201 then draw.2 else draw.2.l1Clear c
  s.modCore c fun k =>
    { k with
      prevCtx := some l.ctx, prevLsKib := l.lsKib, since := some s.power.now,
      work := { k.work with
        ls := sfilter (fun o _ => keep o) k.work.ls, lsPoison := sfilter (fun o _ => keep (32 * o)) k.work.lsPoison,
        mx := MxEngine.fresh, ts := [] } }

/-- Whether an earlier launch of the core still has accesses of its own to the local store on their way: the first block of the next
launch finds the local store of R240 only after them. -/
def localPending (s : State) (c n : Nat) : Bool :=
  s.accesses.any fun a => a.open && a.engine.core == c && a.launch != n && !a.win && a.target == .localStore c

/-- Whether the next block of a launch fits on a core that the launch holds (R60, R73, R75). -/
def roomFor (s : State) (c n : Nat) (l : Launch) : Bool :=
  !l.ended && (s.core c).work.launch == some n && (s.core c).stage == .running && clusterUp s (c / 16) && !(s.core c).held &&
  !((s.core c).since.isNone && localPending s c n) &&
  decide ((residentBlocks s c).length < l.blocksPer) && decide (l.next < l.blocks)

/-- Give back the cores of a launch that hold none of its blocks once its last block is placed (R394). -/
def returnCores (s : State) (n : Nat) : State :=
  match s.launch n with
  | none => s
  | some l =>
    if l.next < l.blocks then s else
    let idle := l.cores.filter fun c => (residentBlocks s c).isEmpty && (s.core c).stage == .running
    let s := idle.foldl (fun s c => (chargeCore s c).modCore c fun k =>
      { k with work := { k.work with launch := none, groups := [], blocks := [] }, since := none }) s
    s.setLaunch n ((s.launch n).map fun (l : Launch) => { l with cores := l.cores.filter fun c => !idle.contains c })

/-- BLOCK_PLACEMENT: the next block of a launch, with all its groups (R60, R61, R237, R383). It takes the lowest free block slot of
the core, the model's choice where the spec names none (LOG 137). -/
def execBlockPlacement (launch core : Nat) (s : State) : Out :=
  match s.launch launch with
  | none => .next s
  | some l =>
    if !roomFor s core launch l then .next s else
    let s := if (residentBlocks s core).isEmpty && (s.core core).since == none then firstBlock s core l else s
    let b := (firstBelow 32 fun i => (oget (s.core core).work.blocks i).isNone).getD 0
    let region := (firstBelow 32 fun i => (residentBlocks s core).all fun e => e.2.region != i).getD 0
    let s := s.modWork core fun w =>
      { w with blocks := oput w.blocks b (some { launch := launch, number := l.next, region := region, slots := [] }) }
    let s := (List.range l.groupsPer).foldl (fun s i => placeGroup s core launch b i l) s
    let s := s.setLaunch launch (some { l with next := l.next + 1 })
    .next (if l.next + 1 = l.blocks then grantCores (returnCores s launch) else s)

/-! ## Retirement (R62, R332, R398) -/

/-- The accesses of a retired block's groups go on without them; a failed write then names the `exit` (R304). -/
def orphanAccesses (s : State) (c : Nat) (gs : List (Nat × Group)) : State :=
  { s with accesses := s.accesses.map fun a => match a.engine with
    | .group d k => match gs.find? fun e => d == c && e.1 == k && e.2.launch == a.launch with
      | some e => { a with engine := .group c (k + 64), pc := e.2.pc }
      | none => a
    | _ => a }

/-- Count a retired block in the ledgers of its context and queue (R398, R399). -/
def countBlock (s : State) (l : Launch) : State :=
  let s := noteProgress (s.modCtx l.ctx fun x => { x with blksRetired := satAdd 64 x.blksRetired 1 }) l.ctx
  s.modQueue l.queue fun q => { q with blksRetired := satAdd 64 q.blksRetired 1, lastProgress := steepNow s }

/-- BLOCK_RETIRE: its threads have exited and its descriptors have ended (R62). -/
def execBlockRetire (core block : Nat) (s : State) : Out :=
  match oget (s.core core).work.blocks block with
  | none => .next s
  | some b => match s.launch b.launch with
    | none => .next s
    | some l =>
      let busy := (List.range 4).any fun i => (s.streamer core i).descs.any (·.block == block)
      if !blockDone s core block || busy || (s.core core).stage != .running then .next s else
      let gs := blockGroups s core block
      let s := pruneGranules (orphanAccesses s core gs)
      let s := s.modWork core fun w => { w with
        blocks := oput w.blocks block none,
        groups := gs.foldl (fun m e => oput m e.1 none) w.groups,
        mx := { w.mx with queue := w.mx.queue.map fun x => if gs.any fun e => e.1 == x.slot then { x with slot := x.slot + 64 } else x },
        ts := smap (fun _ => Streamer.idle) (fun _ (t : Streamer) =>
          { t with done := t.done.filter fun d => !gs.any fun e => e.1 == d.slot }) w.ts }
      let s := pruneGranules (countBlock s l)
      let s := s.setLaunch b.launch (some { l with retired := l.retired + 1 })
      let s := if l.retired + 1 = l.blocks then unbindChannels s b.launch else s
      .next (grantCores (returnCores s b.launch))

/-! ## Completion (R384) -/

/-- LAUNCH_COMPLETE: every block has retired and every access of the launch has completed. -/
def execLaunchComplete (launch : Nat) (s : State) : Out :=
  match s.launch launch with
  | none => .next s
  | some l =>
    if l.ended ∨ l.retired < l.blocks ∨ s.accesses.any (·.launch == launch) then .next s else
    .next (grantCores (completeCmd (s.setLaunch launch none) l.queue l.pos l.packet Code.success))

/-! ## Stop and restore (R95 to R97, R201, R229, R306, R324) -/

/-- Whether an engine of core `c` waits on a migration record (R355). -/
def coreWaits (s : State) (c : Nat) : Bool :=
  (olist s.xlat.records).any fun e => e.2.queue.any fun w => match w with
    | .fetch d _ => d == c
    | .tile d _ => d == c
    | _ => false

/-- Whether nothing of a stopping core is in flight: its accesses, with its fetches and tiles that wait on a migration, its started
matrix instructions and its wakes (R201, R306, R324, R355). -/
def drained (s : State) (c n : Nat) : Bool :=
  !s.accesses.any (fun a => a.engine.core == c && a.launch == n && !a.hasFailed) && !coreWaits s c &&
  !(s.core c).work.mx.queue.any (·.started) &&
  !s.hub.wakes.any fun w => match w.kind with | .group d _ => d == c | _ => false

/-- Whether everything that core `c` issued for an ended launch has completed or failed, also in its matrix engine (R91, R305). -/
def halted (s : State) (c n : Nat) : Bool :=
  !s.accesses.any (fun a => a.engine.core == c && a.launch == n && !a.hasFailed) && (s.core c).work.mx.queue.isEmpty

/-- A group as it is saved: a `tly.wait` is issued again, and its reservations are gone (R124, R324). -/
def savedGroup (g : Group) : Group :=
  { g with res := [], wait := match g.wait with | .tally _ _ => .ready | w => w }

/-- What a core saves of its launch (R95, R201, R229): an unpublished tile is fetched again, but one of a device-type page has
been read (R226). R95 gives the save no addresses in the core's vault: it stands beside the core in `Core.saved`, and no DRAM byte
shows it (LOG 138). -/
def savedWork (w : CoreWork) : CoreWork :=
  { w with
    groups := smap (fun _ => none) (fun _ (o : Option Group) => o.map savedGroup) w.groups,
    ts := smap (fun _ => Streamer.idle) (fun _ (t : Streamer) =>
      { t with descs := t.descs.map fun d => if d.firstDev.isSome then d else { d with fetched := false } }) w.ts }

/-- The first group of a core with a failed write that nothing has reported (R304). -/
def failedGroup (s : State) (c n : Nat) : Option (Nat × Group) :=
  (olist (s.core c).work.groups).find? fun e => unreportedFailure s c e.1 n

/-- The end of a stop with a save: the core is free and its launch resumes here (R95, R97). -/
def saveCore (s : State) (core n : Nat) : State :=
  let s := removeWatches (chargeCore s core) fun w => match w.kind with | .group d _ => d == core | _ => false
  let s := (List.range 4).foldl (fun s i => dropBuffer s (.streamer core i)) s
  let s := s.modCore core fun k =>
    { k with saved := k.saved ++ [savedWork k.work], work := k.work.left, stage := .running, reuse := [], lastCost := [],
             portCost := [], since := none, takenFor := none }
  s.setLaunch n ((s.launch n).map fun (l : Launch) => { l with cores := l.cores.filter (· != core) })

/-- The end of a stop without a save: the core is free, and the launch goes with its last core (R305, R360, R397). -/
def leaveCore (s : State) (core n : Nat) : State :=
  let s : State := { s with accesses := s.accesses.filter fun a => !(a.engine.core == core && a.launch == n) }
  let s := freeCore s core
  dropEnded (s.setLaunch n ((s.launch n).map fun (l : Launch) => { l with cores := l.cores.filter (· != core) })) n

/-- The core goes to the serving launch that it was taken for, when that still wants it (R394). -/
def handOver (s : State) (core : Nat) : State :=
  let s := s.modCore core fun k => { k with takenFor := none }
  grantCores s

/-- LAUNCH_STOP_SAVE_COMPLETE: a stop ends and the core is free: with the save, after a failed write that nothing has reported
(R95, R304, R306), or without it where the launch has ended (R305, LOG 131). -/
def execLaunchStopSaveComplete (core : Nat) (s : State) : Out :=
  match (s.core core).work.launch with
  | none => .next s
  | some n => match s.launch n with
    | none => .next s
    | some l =>
      if (s.core core).stage == .faulted && halted s core n then .next (handOver (leaveCore s core n) core)
      else if (s.core core).stage != .saving || !drained s core n then .next s else
      match failedGroup s core n with
      | some (k, g) => .next (raiseFault s (groupInfo l.ctx core k g.pc (Trap.plain Code.remoteWriteLost)))
      | none => .next (grantCores (pruneGranules (saveCore s core n)))

/-- CORE_GRANT_RESTORE_DONE: the saved state is back and its groups may issue (R97, R202). Another launch's lines are dropped
from the L1 as R270 drops them (LOG 43). -/
def execCoreGrantRestoreDone (core : Nat) (s : State) : Out :=
  match (s.core core).saved.findSome? fun w => (w.launch.filter fun n => (s.core core).work.launch == some n).map fun n => (w, n) with
  | none => .next s
  | some (w, n) => match s.launch n with
    | none => .next s
    | some l =>
      if (s.core core).stage != .restoring then .next s else
      let s := if (s.core core).prevCtx == some l.ctx && (s.core core).prevLsKib == l.lsKib then s else s.l1Clear core
      .next (s.modCore core fun k =>
        { k with work := w, saved := k.saved.erase w, stage := .running, since := some s.power.now, prevCtx := some l.ctx,
                 prevLsKib := l.lsKib })

end Sys2Proof.Machine
end

