-- ==== Sys2Proof/Machine/CatTable.lean ====
section
/-! DEFINITION. The entries of the Catalogue: call numbers, names, types, access classes and defaults (R489 to R493, R512 to R517
and the entry tables R56, R274, R334, R341, R363, R398, R400, R401, R433 to R435, R460, R487, R488). -/

namespace Sys2Proof.Machine

/-- Access classes, in the codes of R493. -/
inductive CatAccess where
  | const | ro | rw | rws | rwp | wo
  deriving DecidableEq, Repr

/-- The code of R493. -/
def CatAccess.code : CatAccess → Nat
  | .const => 0 | .ro => 1 | .rw => 2 | .rws => 3 | .rwp => 4 | .wo => 5

/-- An entry: its subindex, name, type byte, access class and the default of a fixed-width value. -/
structure CatEntry where
  sub  : Nat
  name : String
  typ  : Nat
  acc  : CatAccess
  dflt : Nat
  deriving DecidableEq, Repr

/-- Whether an entry is an action (R491). -/
def CatEntry.action (e : CatEntry) : Bool := e.typ == 0x70

/-- The width in bytes of a fixed-width type (R491). -/
def typWidth (t : Nat) : Option Nat :=
  if t / 16 = 4 ∨ t / 16 = 5 ∨ t / 16 = 7 then none else some (2 ^ (t % 16))

/-- `n` entries named by a stem and a number, from subindex `lo` on. -/
def catSeries (lo n first : Nat) (stem : String) (typ : Nat) (acc : CatAccess) (dflt : Nat) : List CatEntry :=
  (List.range n).map fun i => ⟨lo + i, stem ++ toString (first + i), typ, acc, dflt⟩

/-- Index 0x1000 (R513). -/
def cat1000 : List CatEntry := [
  ⟨1, "VENDOR", 0x40, .const, 0⟩, ⟨2, "PART", 0x40, .const, 0⟩, ⟨3, "STEPPING", 0x10, .const, 0xB0⟩,
  ⟨4, "SERIAL", 0x50, .const, 0⟩, ⟨5, "FW_VERSION", 0x12, .ro, 0⟩, ⟨6, "FW_DIGEST", 0x50, .ro, 0⟩,
  ⟨7, "IDENTITY_KEY", 0x50, .ro, 0⟩, ⟨8, "CATALOGUE_VERSION", 0x11, .const, 1⟩, ⟨9, "INDEX_LIST", 0x50, .ro, 0⟩]

/-- Index 0x1100 (R514). -/
def cat1100 : List CatEntry := [
  ⟨1, "DEVICE_STATE", 0x10, .ro, 0⟩, ⟨2, "STARTUP_STEP", 0x10, .ro, 0⟩, ⟨3, "STARTUP_FAIL", 0x11, .ro, 0⟩] ++
  catSeries 4 9 1 "STEP_DONE_US_" 0x12 .ro 0 ++ [
  ⟨0x0D, "TIME_NS", 0x13, .ro, 0⟩, ⟨0x0E, "WARM_RESET", 0x70, .wo, 0⟩, ⟨0x0F, "POWER_DOWN", 0x70, .wo, 0⟩,
  ⟨0x10, "DOMAIN_RESET", 0x70, .wo, 0⟩, ⟨0x11, "TXN_DISCARDED", 0x13, .ro, 0⟩, ⟨0x12, "DOMAIN_STATE", 0x13, .ro, 0⟩,
  ⟨0x13, "CAT_REFUSED", 0x13, .ro, 0⟩]

/-- A host port, index 0x2000 + n (R433). -/
def catHost : List CatEntry := [
  ⟨1, "LINK_MODE", 0x10, .rw, 0⟩, ⟨2, "LINK_STATE", 0x10, .ro, 0⟩, ⟨3, "MAC_ADDR", 0x50, .ro, 0⟩,
  ⟨4, "IP_ADDR", 0x50, .rw, 0⟩, ⟨5, "PREFIX_LEN", 0x10, .rw, 0⟩, ⟨6, "GATEWAY", 0x50, .rw, 0⟩,
  ⟨7, "VLAN_ID", 0x11, .rw, 0⟩, ⟨8, "MGMT_VLAN", 0x11, .rw, 0⟩, ⟨9, "MTU", 0x11, .rw, 9000⟩,
  ⟨0x0A, "PFC_ENABLE", 0x10, .rw, 8⟩, ⟨0x0B, "PRIO_ROCE", 0x10, .rw, 3⟩, ⟨0x0C, "PRIO_SMT", 0x10, .rw, 4⟩,
  ⟨0x0D, "PTP_MODE", 0x10, .rw, 0⟩, ⟨0x0E, "FEC_CORRECTED", 0x13, .ro, 0⟩, ⟨0x0F, "FEC_UNCORRECTED", 0x13, .ro, 0⟩,
  ⟨0x10, "RX_DROPPED", 0x13, .ro, 0⟩, ⟨0x11, "NAK_SENT", 0x13, .ro, 0⟩, ⟨0x12, "SESSIONS_OPEN", 0x11, .ro, 0⟩]

/-- A peer port, index 0x2100 + n (R434); the table names no type for the reserved subentry. -/
def catPeer : List CatEntry := catHost.filterMap fun e =>
  if e.sub = 0x0B then some { e with name := "PRIO_PEER" }
  else if e.sub = 0x0C then some ⟨0x0C, "STAGING_HOLDER", 0x10, .ro, 0⟩
  else if e.sub = 0x0D then some ⟨0x0D, "", 0x10, .ro, 0⟩
  else if 0x10 < e.sub then none else some e

/-- Index 0x2110 (R435). -/
def cat2110 : List CatEntry := [
  ⟨1, "OWN_PEER", 0x11, .rw, 0⟩, ⟨2, "PEER_SET", 0x70, .wo, 0⟩, ⟨3, "PEER_TABLE", 0x50, .ro, 0⟩, ⟨4, "PEERS_UP", 0x11, .ro, 0⟩,
  ⟨5, "PEERS_LOST", 0x13, .ro, 0⟩]

/-- Index 0x2120 (R460). -/
def cat2120 : List CatEntry := [
  ⟨1, "PLAN_SET", 0x70, .wo, 0⟩, ⟨2, "PLAN_CLEAR", 0x70, .wo, 0⟩, ⟨3, "PLAN_TABLE", 0x50, .ro, 0⟩, ⟨4, "PLAN_STATE", 0x50, .ro, 0⟩,
  ⟨5, "STEPS_DONE", 0x13, .ro, 0⟩, ⟨6, "STEPS_FAILED", 0x13, .ro, 0⟩, ⟨7, "FRAMES_DISCARDED", 0x13, .ro, 0⟩,
  ⟨8, "STAGING_DROPS", 0x13, .ro, 0⟩, ⟨9, "ENTRIES_SENT", 0x13, .ro, 0⟩]

/-- Index 0x2800 (R435). -/
def cat2800 : List CatEntry := catSeries 1 64 0 "ALLOW_" 0x65 .rwp 0

/-- Index 0x3000 (R400). -/
def cat3000 : List CatEntry := [
  ⟨1, "STEEP_NUMBER", 0x13, .ro, 0⟩, ⟨2, "STEEP_START_NS", 0x13, .ro, 0⟩, ⟨3, "OVERRUN_COUNT", 0x13, .ro, 0⟩,
  ⟨4, "PROMOTED_CONTEXT", 0x11, .ro, 0xFFFF⟩, ⟨5, "FLOOR_CORES", 0x11, .ro, 12⟩]

/-- Index 0x3010 (R400). -/
def cat3010 : List CatEntry := [
  ⟨1, "STEEP_ALIGN", 0x10, .rws, 0⟩, ⟨2, "STEEP_PERIOD_US", 0x12, .rws, 33333⟩, ⟨3, "STEEP_PHASE_NS", 0x13, .rws, 0⟩,
  ⟨4, "FLOOR_SHARE_32NDS", 0x10, .rws, 1⟩, ⟨5, "PROMOTE_STEEPS", 0x11, .rws, 64⟩]

/-- A stream slot, index 0x3200 + n (R401). -/
def catSlot : List CatEntry := [
  ⟨1, "ENABLE", 0x10, .rws, 0⟩, ⟨2, "BUDGET_CORE_US", 0x12, .rws, 0⟩, ⟨3, "QUEUE", 0x11, .ro, 0xFFFF⟩,
  ⟨4, "FRAMES_ADMITTED", 0x13, .ro, 0⟩, ⟨5, "FRAMES_DROPPED", 0x13, .ro, 0⟩, ⟨6, "USED_CORE_US", 0x12, .ro, 0⟩]

/-- A carrel, index 0x4000 + n (R341). -/
def catCarrel (n : Nat) : List CatEntry := [
  ⟨1, "START_UNIT", 0x10, .rws, 0⟩, ⟨2, "UNITS", 0x11, .rws, if n = 0 then 256 else 0⟩, ⟨3, "TENANT", 0x11, .rws, 256⟩,
  ⟨4, "TABLE_PAGES", 0x12, .rws, 4096⟩, ⟨5, "CONTEXTS", 0x11, .ro, 0⟩,
  ⟨6, "RAW_PAGES", 0x12, .ro, if n = 0 then 25165824 else 0⟩, ⟨7, "RETIRED_PAGES", 0x12, .ro, 0⟩,
  ⟨8, "TABLE_PAGES_USED", 0x12, .ro, if n = 0 then 769 else 0⟩]

/-- A context, index 0x5000 + n (R363, R398, R488). -/
def catCtx : List CatEntry := [
  ⟨1, "STATE", 0x10, .ro, 0⟩, ⟨2, "TENANT", 0x10, .ro, 0⟩, ⟨3, "CARREL", 0x10, .ro, 0⟩, ⟨4, "MIGRATION_SESSION", 0x11, .ro, 0⟩,
  ⟨5, "DIRTY_TRACK", 0x10, .ro, 0⟩, ⟨6, "LEAF_PAGES", 0x12, .ro, 0⟩, ⟨7, "DIRTY_PAGES", 0x12, .ro, 0⟩,
  ⟨8, "MIGRATIONS", 0x13, .ro, 0⟩, ⟨9, "FAULT_STATUS", 0x11, .ro, 0⟩, ⟨0x0A, "FAULT_RECORD", 0x50, .ro, 0⟩,
  ⟨0x10, "COMMANDS_RETIRED", 0x13, .ro, 0⟩, ⟨0x11, "BLOCKS_RETIRED", 0x13, .ro, 0⟩, ⟨0x12, "CORE_CYCLES", 0x13, .ro, 0⟩,
  ⟨0x13, "LAST_PROGRESS_STEEP", 0x13, .ro, 0⟩, ⟨0x14, "STARVED_STEEPS", 0x11, .ro, 0⟩, ⟨0x15, "PROMOTED", 0x10, .ro, 0⟩,
  ⟨0x16, "FOLIO_LAST_ID", 0x13, .ro, 0⟩, ⟨0x17, "FOLIO_CHAIN_POS", 0x12, .ro, 0⟩, ⟨0x18, "FOLIO_STATE", 0x10, .ro, 0⟩,
  ⟨0x19, "LOANED", 0x10, .ro, 0⟩, ⟨0x1A, "FOLIO_LAST_STEEP", 0x13, .ro, 0⟩]

/-- Index 0x6000 (R334). -/
def cat6000 : List CatEntry := [
  ⟨1, "TALLY_COUNT", 0x12, .const, 65536⟩, ⟨2, "WATCH_COUNT", 0x11, .const, 16384⟩, ⟨3, "BARRIER_CHANNELS", 0x10, .const, 64⟩,
  ⟨4, "WATCH_TENANT_QUOTA", 0x11, .rws, 16384⟩, ⟨5, "TALLIES_ASSIGNED", 0x12, .ro, 0⟩, ⟨6, "WATCHES_IN_USE", 0x11, .ro, 0⟩,
  ⟨7, "BLOCKED_SIGNAL_COUNT", 0x13, .ro, 0⟩, ⟨8, "LAST_BLOCKED", 0x13, .ro, 0⟩, ⟨9, "IGNORED_SIGNAL_COUNT", 0x13, .ro, 0⟩,
  ⟨0x0A, "OUT_OF_RANGE_COUNT", 0x13, .ro, 0⟩, ⟨0x0B, "WATCH_FULL_COUNT", 0x13, .ro, 0⟩, ⟨0x0C, "CHANNELS_BOUND", 0x13, .ro, 0⟩,
  ⟨0x0D, "COUNTERS_CLEAR", 0x70, .wo, 0⟩]

/-- Index 0x7000 (R515). -/
def cat7000 : List CatEntry := [
  ⟨1, "ARITH_CLOCK_MHZ", 0x11, .ro, 2400⟩, ⟨2, "ARITH_CLOCK_CAP_MHZ", 0x11, .rws, 2400⟩, ⟨3, "POWER_LIMIT_W", 0x11, .rws, 350⟩,
  ⟨4, "POWER_W", 0x32, .ro, 0⟩, ⟨5, "LOGIC_TEMP_C", 0x32, .ro, 0⟩, ⟨6, "DRAM_TEMP_C", 0x32, .ro, 0⟩] ++
  catSeries 7 16 0 "LAYER_TEMP_C_" 0x32 .ro 0 ++ [
  ⟨0x17, "THROTTLE_COUNT", 0x13, .ro, 0⟩, ⟨0x18, "VDD_CORE_MV", 0x11, .ro, 0⟩, ⟨0x19, "LAST_TRIP_C", 0x32, .ro, 0⟩]

/-- Index 0x7800 (R56). -/
def cat7800 (factory : Nat) : List CatEntry := [
  ⟨1, "RAW_PAGES", 0x12, .const, 25165824⟩, ⟨2, "FACTORY_RETIRED_PAGES", 0x12, .ro, factory⟩,
  ⟨3, "FIELD_RETIRED_PAGES", 0x12, .ro, 0⟩, ⟨4, "USABLE_PAGES", 0x12, .ro, 0⟩, ⟨5, "FIELD_RETIRE_CAPACITY", 0x11, .const, 8192⟩,
  ⟨6, "CORRECTED_COUNT", 0x13, .ro, 0⟩, ⟨7, "UNCORRECTABLE_COUNT", 0x13, .ro, 0⟩, ⟨8, "POISON_READ_COUNT", 0x13, .ro, 0⟩,
  ⟨9, "LAST_ERROR_ADDR", 0x13, .ro, 0⟩, ⟨0x0A, "LAST_ERROR_KIND", 0x10, .ro, 0⟩, ⟨0x0B, "SCRUB_PERIOD_H", 0x11, .rw, 24⟩,
  ⟨0x0C, "SCRUB_PASSES", 0x12, .ro, 0⟩, ⟨0x0D, "COUNTERS_CLEAR", 0x70, .wo, 0⟩, ⟨0x0E, "UE_LOG_HEAD", 0x10, .ro, 0⟩] ++
  catSeries 0x0F 16 0 "UE_LOG_" 0x13 .ro 0 ++ catSeries 0x1F 16 0 "LAYER_CORRECTED_" 0x12 .ro 0 ++
  catSeries 0x2F 16 0 "LAYER_REFRESH_BAND_" 0x10 .ro 0

/-- Index 0x8000 (R487). -/
def cat8000 : List CatEntry := [
  ⟨1, "FOLIO_BUSY", 0x10, .ro, 0⟩, ⟨2, "FOLIO_CONTEXT", 0x11, .ro, 0xFFFF⟩, ⟨3, "FOLIO_BYTES_DONE", 0x13, .ro, 0⟩,
  ⟨4, "FOLIO_BYTES_TOTAL", 0x13, .ro, 0⟩, ⟨5, "FOLIO_QUEUED", 0x11, .ro, 0⟩, ⟨6, "FOLIOS_WRITTEN", 0x13, .ro, 0⟩,
  ⟨7, "RECALLS", 0x13, .ro, 0⟩, ⟨8, "RESTORES", 0x13, .ro, 0⟩, ⟨9, "RESTORE_FAILURES", 0x13, .ro, 0⟩,
  ⟨0x0A, "TRUST_MODE", 0x10, .rw, 0⟩] ++ catSeries 0x0B 16 0 "TRUSTED_WRITER_" 0x50 .rw 0

/-- Index 0x9000 (R516). -/
def cat9000 (revoked : Nat) : List CatEntry := [
  ⟨1, "SEAL_BROKEN", 0x10, .ro, 0⟩, ⟨2, "PRESENCE_OPEN", 0x10, .ro, 0⟩, ⟨3, "PRESENCE_LEFT_S", 0x11, .ro, 0⟩] ++
  catSeries 4 4 0 "KEY_DIGEST_" 0x50 .ro 0 ++ [
  ⟨8, "KEY_REVOKED", 0x10, .ro, revoked⟩, ⟨9, "KEY_REVOKE", 0x70, .rwp, 0⟩, ⟨0x0A, "FW_STAGE", 0x50, .rwp, 0⟩,
  ⟨0x0B, "FW_COMMIT", 0x70, .rwp, 0⟩, ⟨0x0C, "FW_COMMIT_BUSY", 0x10, .ro, 0⟩, ⟨0x0D, "ATTEST", 0x70, .wo, 0⟩]

/-- Index 0xA000 (R274, R517). -/
def catA000 : List CatEntry := [
  ⟨1, "DEBUG_ENABLE", 0x10, .rwp, 0⟩, ⟨2, "DEBUG_CONTEXT", 0x11, .rwp, 0xFFFF⟩, ⟨3, "JTAG_UNLOCK", 0x10, .rwp, 0⟩,
  ⟨4, "DEBUG_EVENTS", 0x13, .ro, 0⟩, ⟨0x20, "CC_DISABLE_MASK", 0x12, .rwp, 0⟩, ⟨0x21, "CC_MAINT", 0x70, .rwp, 0⟩,
  ⟨0x22, "CC_MAINT_BUSY", 0x10, .ro, 0⟩]

/-- The subentries 0x01 to 0xFF of an index; none where the index does not exist (R512). -/
def catIndex (i : Nat) : Option (List CatEntry) :=
  if i = 0x1000 then some cat1000 else if i = 0x1100 then some cat1100
  else if i = 0x2000 ∨ i = 0x2001 then some catHost else if 0x2100 ≤ i ∧ i ≤ 0x2107 then some catPeer
  else if i = 0x2110 then some cat2110 else if i = 0x2120 then some cat2120 else if i = 0x2800 then some cat2800
  else if i = 0x3000 then some cat3000 else if i = 0x3010 then some cat3010 else if 0x3200 ≤ i ∧ i ≤ 0x32BF then some catSlot
  else if 0x4000 ≤ i ∧ i ≤ 0x400F then some (catCarrel (i - 0x4000)) else if 0x5000 ≤ i ∧ i ≤ 0x53FF then some catCtx
  else if i = 0x6000 then some cat6000 else if i = 0x7000 then some cat7000
  else if i = 0x7800 then some (cat7800 (runPages factoryRuns)) else if i = 0x8000 then some cat8000
  else if i = 0x9000 then some (cat9000 Config.fusedRevoked.toNat) else if i = 0xA000 then some catA000 else none

/-- Whether the server serves an index: in recovery mode only three (R525). -/
def catServed (s : State) (i : Nat) : Bool :=
  s.power.devState != .recovery || i == 0x1000 || i == 0x1100 || i == 0x9000

/-- Every index that exists, ascending (R512, R513). -/
def catIndices (s : State) : List Nat :=
  (([0x1000, 0x1100, 0x2000, 0x2001] ++ (List.range 8).map (0x2100 + ·) ++ [0x2110, 0x2120, 0x2800, 0x3000, 0x3010] ++
    (List.range 192).map (0x3200 + ·) ++ (List.range 16).map (0x4000 + ·) ++ (List.range 1024).map (0x5000 + ·) ++
    [0x6000, 0x7000, 0x7800, 0x8000, 0x9000, 0xA000]).filter (catServed s))

/-- The entry of a call number; none: "no such entry". Subentry 0 is COUNT (R489). -/
def catEntry (s : State) (i sub : Nat) : Option CatEntry :=
  if !catServed s i then none else
  (catIndex i).bind fun es =>
    if sub = 0 then some ⟨0, "COUNT", 0x10, .const, es.length⟩ else es.find? (·.sub == sub)

/-- The clock domain of a port's index; every other entry lies in a domain that runs while the server does (R503, R548). -/
def catDomain (i : Nat) : Option Nat :=
  if i = 0x2000 ∨ i = 0x2001 then some (27 + (i - 0x2000)) else if 0x2100 ≤ i ∧ i ≤ 0x2107 then some (29 + (i - 0x2100)) else none

/-- Whether the domain of an index has its clock stopped. -/
def catStopped (s : State) (i : Nat) : Bool := (catDomain i).any fun d => !bit s.power.clocks d

end Sys2Proof.Machine
end

