-- ==== Sys2Proof/Machine/Crypto.lean ====
section
/-! DEFINITION. SHAKE256 (FIPS 202) and Ed448 (RFC 8032, empty context), as R232, R473, R521, R542 and R545 use them. -/

namespace Sys2Proof.Machine

/-! ## SHAKE256 -/

/-- Lane `i` of a Keccak state; lane x + 5 y stands at place x, y. -/
def lane (a : List DWord) (i : Nat) : DWord := a.getD i 0

/-- One step of the 8-bit feedback register that iota draws its bits from: x^8 + x^6 + x^5 + x^4 + 1. -/
def iotaNext (r : Nat) : Nat := if 128 ≤ r then (2 * r % 256) ^^^ 0x71 else 2 * r

/-- The register after `t` steps from 1. -/
def iotaAt : Nat → Nat
  | 0 => 1
  | t + 1 => iotaNext (iotaAt t)

/-- What iota adds to lane 0 in round `r`: bit 2^j - 1 is the register's low bit after j + 7 r steps. -/
def iotaWord (r : Nat) : DWord :=
  (List.range 7).foldl (fun w j => if iotaAt (j + 7 * r) % 2 = 1 then w ^^^ BitVec.ofNat 64 (2 ^ (2 ^ j - 1)) else w) 0

/-- The words of the 24 rounds. -/
def keccakRc : List DWord := (List.range 24).map iotaWord

/-- The walk of rho over the lanes other than 0: the place after `t` steps from (1, 0), each taking (x, y) to (y, 2 x + 3 y). -/
def rhoPlace : Nat → Nat × Nat
  | 0 => (1, 0)
  | t + 1 => ((rhoPlace t).2, (2 * (rhoPlace t).1 + 3 * (rhoPlace t).2) % 5)

/-- How far rho turns each lane: the lane met after `t` steps by the sum of 1 to t + 1. -/
def keccakRot : List Nat :=
  (List.range 25).map fun i => ((List.range 24).find? fun t => (rhoPlace t).1 + 5 * (rhoPlace t).2 == i).elim 0
    fun t => (t + 1) * (t + 2) / 2 % 64

/-- The parity of column x. -/
def keccakCol (a : List DWord) (x : Nat) : DWord := lane a x ^^^ lane a (x + 5) ^^^ lane a (x + 10) ^^^ lane a (x + 15) ^^^ lane a (x + 20)

/-- theta. -/
def keccakTheta (a : List DWord) : List DWord :=
  let c := (List.range 5).map (keccakCol a)
  let d := (List.range 5).map fun x => lane c ((x + 4) % 5) ^^^ (lane c ((x + 1) % 5)).rotateLeft 1
  (List.range 25).map fun i => lane a i ^^^ lane d (i % 5)

/-- rho and pi: the lane at X, Y comes from x = X + 3 Y, y = X. -/
def keccakRhoPi (a : List DWord) : List DWord :=
  (List.range 25).map fun i =>
    let j := (i % 5 + 3 * (i / 5)) % 5 + 5 * (i % 5)
    (lane a j).rotateLeft (keccakRot.getD j 0)

/-- chi and iota. -/
def keccakChi (a : List DWord) (rc : DWord) : List DWord :=
  (List.range 25).map fun i =>
    let row := 5 * (i / 5)
    let v := lane a i ^^^ (~~~(lane a (row + (i + 1) % 5)) &&& lane a (row + (i + 2) % 5))
    if i = 0 then v ^^^ rc else v

/-- Keccak-f[1600]. -/
def keccakF (a : List DWord) : List DWord := keccakRc.foldl (fun a rc => keccakChi (keccakRhoPi (keccakTheta a)) rc) a

/-- Absorb one block of 136 bytes. -/
def keccakAbsorb (a : List DWord) (b : List Byte) : List DWord :=
  keccakF ((List.range 25).map fun i => lane a i ^^^ (if i < 17 then BitVec.ofNat 64 (leNat (sub b (8 * i) 8)) else 0))

/-- The padded message of SHAKE256. -/
def shakePad (m : List Byte) : List Byte :=
  let k := 136 - m.length % 136
  m ++ (if k = 1 then [0x9F] else 0x1F :: List.replicate (k - 2) 0 ++ [0x80])

/-- The first `n` bytes, at most 136, of SHAKE256(m): Hn of the manual. -/
def shake (n : Nat) (m : List Byte) : List Byte :=
  let p := shakePad m
  let a := (List.range (p.length / 136)).foldl (fun a i => keccakAbsorb a (sub p (136 * i) 136)) (List.replicate 25 0)
  (a.flatMap fun l => leBytes 8 l.toNat).take n

/-! ## Arithmetic of the curve -/

/-- The field prime. -/
def edP : Nat := 2 ^ 448 - 2 ^ 224 - 1

/-- The order of the base point. -/
def edL : Nat := 2 ^ 446 - 13818066809895115352007386748515426880336692474882178609894547503885

/-- b ^ e mod m over `k` bits of e. -/
def powMod (m : Nat) : Nat → Nat → Nat → Nat
  | 0, _, _ => 1 % m
  | k + 1, b, e =>
    let r := powMod m k (b * b % m) (e / 2)
    if e % 2 = 1 then r * b % m else r

/-- The inverse in the field. -/
def edInv (x : Nat) : Nat := powMod edP 448 x (edP - 2)

/-- d of the curve, -39081. -/
def edD : Nat := edP - 39081

/-- A point in projective coordinates X, Y, Z. -/
abbrev EdPoint := Nat × Nat × Nat

/-- The base point. -/
def edBase : EdPoint :=
  (224580040295924300187604334099896036246789641632564134246125461686950415467406032909029192869357953282578032075146446173674602635247710,
   298819210078481492676017930443930673437544040154080242095928241372331506189835876003536878655418784733982303233503462500531545062832660, 1)

/-- Subtraction in the field. -/
def edSub (x y : Nat) : Nat := (x + edP - y % edP) % edP

/-- Addition of points (RFC 8032, 5.2.4). -/
def edAdd (p q : EdPoint) : EdPoint :=
  let a := p.2.2 * q.2.2 % edP
  let b := a * a % edP
  let c := p.1 * q.1 % edP
  let d := p.2.1 * q.2.1 % edP
  let e := edD * c % edP * d % edP
  let f := edSub b e
  let g := (b + e) % edP
  let h := (p.1 + p.2.1) * (q.1 + q.2.1) % edP
  (a * f % edP * edSub (edSub h c) d % edP, a * g % edP * edSub d c % edP, f * g % edP)

/-- k times a point over `n` bits of k. -/
def edMulBits : Nat → Nat → EdPoint → EdPoint
  | 0, _, _ => (0, 1, 1)
  | n + 1, k, p =>
    let r := edMulBits n (k / 2) (edAdd p p)
    if k % 2 = 1 then edAdd r p else r

/-- k times a point. -/
def edMul (k : Nat) (p : EdPoint) : EdPoint := edMulBits 456 k p

/-- Whether two points are equal. -/
def edEq (p q : EdPoint) : Bool := p.1 * q.2.2 % edP == q.1 * p.2.2 % edP && p.2.1 * q.2.2 % edP == q.2.1 * p.2.2 % edP

/-- The 57 bytes of a point: y and the low bit of x. -/
def edEncode (p : EdPoint) : List Byte :=
  let i := edInv p.2.2
  leBytes 57 (p.2.1 * i % edP + (p.1 * i % edP % 2) * 2 ^ 455)

/-- The point of 57 bytes, when they are a point's encoding. -/
def edDecode (bs : List Byte) : Option EdPoint :=
  let v := leNat bs
  let y := v % 2 ^ 455
  let x0 := v / 2 ^ 455
  if bs.length ≠ 57 ∨ edP ≤ y then none else
  let u := edSub (y * y) 1
  let w := edSub (edD * (y * y % edP)) 1
  let u3 := u * u % edP * u % edP
  let r := u3 * w % edP * powMod edP 448 (u3 * u % edP * u % edP * w % edP * w % edP * w % edP) ((edP - 3) / 4) % edP
  if w * r % edP * r % edP ≠ u then none
  else if r = 0 ∧ x0 = 1 then none
  else some (if r % 2 = x0 then r else edP - r, y, 1)

/-! ## Keys and signatures -/

/-- dom4 with an empty context: "SigEd448", 0, 0. -/
def edDom : List Byte := [0x53, 0x69, 0x67, 0x45, 0x64, 0x34, 0x34, 0x38, 0, 0]

/-- The secret scalar of an expanded private key. -/
def edScalar (h : List Byte) : Nat :=
  let v := leNat (h.take 56) % 2 ^ 447
  v - v % 4 + 2 ^ 447

/-- The public key of a private key of 57 bytes. -/
def edPublic (key : List Byte) : List Byte := edEncode (edMul (edScalar (shake 114 key)) edBase)

/-- The 114-byte signature of a message. -/
def edSign (key m : List Byte) : List Byte :=
  let h := shake 114 key
  let a := edScalar h
  let pub := edEncode (edMul a edBase)
  let r := leNat (shake 114 (edDom ++ h.drop 57 ++ m)) % edL
  let big := edEncode (edMul r edBase)
  let k := leNat (shake 114 (edDom ++ big ++ pub ++ m)) % edL
  big ++ leBytes 57 ((r + k * a) % edL)

/-- Ed448_verify of R521. -/
def edVerify (pub m sig : List Byte) : Bool :=
  match edDecode pub, edDecode (sig.take 57) with
  | some a, some r =>
    let z := leNat (sig.drop 57)
    let k := leNat (shake 114 (edDom ++ sig.take 57 ++ pub ++ m)) % edL
    sig.length == 114 && decide (z < edL) && edEq (edMul (4 * z) edBase) (edMul 4 (edAdd r (edMul k a)))
  | _, _ => false

end Sys2Proof.Machine
end

