-- ==== Sys2Proof/Machine/Health.lean ====
section
/-! DEFINITION. Scrubbing, refresh bands, the millisecond evaluation of the sensors and the thermal trip (R44, R45, R52 to R57,
R571 to R575). -/

namespace Sys2Proof.Machine

/-! ## Scrubbing -/

/-- Whether the vault domain's clock runs (R550). -/
def vaultUp (s : State) : Bool := bit s.power.clocks 2

/-- The copy of sector `k` that its home cluster cache holds valid and unpoisoned (R45). -/
def goodCopy (s : State) (k : Nat) : Option Sector :=
  let line := k / 4
  let cl := s.cluster (homeOfLine line)
  (cl.find line).bind fun key =>
    let w := cl.way key
    if bit w.valid (k % 4) && !bit w.poison (k % 4) then some (getSector w.data (k % 4)) else none

/-- What the scrubber does with sector `k` (R45). -/
def scrubSector (s : State) (k : Nat) : State :=
  let d := s.dram
  match d.decode k with
  | .clean | .poisoned => s
  | .corrected j e => { s with dram := d.correct k j e }
  | .uncorrectable =>
    let d := d.logUncorrectable k
    { s with dram := match goodCopy s k with
      | some v => d.write k v false
      | none => d.mark k }

/-- SCRUB_READ: the next sector of the vault's pass; the last one completes the pass (R44, R45). -/
def execScrubRead (vault : Nat) (s : State) : Out :=
  match oget s.dram.scrub vault with
  | none => .next s
  | some n =>
    if !vaultUp s then .next s else
    let s := scrubSector s (vault * 2 ^ 27 + n)
    let d := s.dram
    .next { s with dram :=
      if n + 1 = 2 ^ 27 then
        { d with scrub := oput d.scrub vault none, passes := sput (fun _ => 0) d.passes vault (satAdd 32 (sget (fun _ => 0) d.passes vault) 1) }
      else { d with scrub := oput d.scrub vault (some (n + 1)) } }

/-- Start a pass in a vault that has none in progress. -/
def Dram.startPass (d : Dram) (vault : Nat) : Dram :=
  if (oget d.scrub vault).isSome then d else { d with scrub := oput d.scrub vault (some 0) }

/-- SCRUB_PASS_START (R44, R57). -/
def execScrubPassStart (vault : Nat) (s : State) : Out :=
  if vault < 384 ∧ vaultUp s ∧ s.dram.scrubPeriodH ≠ 0 then .next { s with dram := s.dram.startPass vault } else .next s

/-! ## Temperatures and refresh -/

/-- A binary32 reading compared with a constant. -/
def hotter (x c : Word) : Bool := !isNan f32 x.toNat && fCmp f32 x.toNat c.toNat == .gt

/-- 83, 85, 95 and 105 degrees Celsius in binary32. -/
def deg83 : Word := 0x42A60000
def deg85 : Word := 0x42AA0000
def deg95 : Word := 0x42BE0000
def deg105 : Word := 0x42D20000

/-- The temperature of a layer at the latest evaluation. -/
def Power.layer (p : Power) (l : Nat) : Word := sget (fun _ => 0) p.layerTemps l

/-- DRAM_TEMP_C: the hottest layer. -/
def Power.dramTemp (p : Power) : Word :=
  (List.range 16).foldl (fun m l => if hotter (p.layer l) m then p.layer l else m) (p.layer 0)

/-- The band of a layer after an evaluation: it returns to Normal at 83 °C (R52, R53). -/
def nextBand (old : Bool) (t : Word) : Bool := if hotter t deg85 then true else if hotter t deg83 then old else false

/-- TEMPERATURE_EVALUATION: the readings of the millisecond and each layer's band (R52 to R54, R515). -/
def execTemperatureEvaluation (r : Readings) (s : State) : Out :=
  if s.power.porstLow || !s.power.powered then .next s else
  let temps := (List.range 16).foldl (fun m l => sput (fun _ => 0) m l (r.layers.getD l 0)) []
  let bands := (List.range 16).foldl (fun m l =>
    sput (fun _ => false) m l (nextBand (sget (fun _ => false) m l) (r.layers.getD l 0))) s.dram.doubled
  .next { s with
    power := { s.power with layerTemps := temps, logicTemp := r.logic, powerW := r.power, vddMv := r.vdd },
    dram := { s.dram with doubled := bands } }

/-- REFRESH: the vault issues a refresh command to a layer in the layer's band (R54, LOG 14). -/
def execRefresh (vault layer : Nat) (s : State) : Out :=
  if 384 ≤ vault ∨ 16 ≤ layer ∨ !vaultUp s then .next s else
  let key := 16 * vault + layer
  .next { s with dram := { s.dram with
    refreshes := sput (fun _ => 0) s.dram.refreshes key (sget (fun _ => 0) s.dram.refreshes key + 1),
    lastRefresh := sput (fun _ => false) s.dram.lastRefresh key (sget (fun _ => false) s.dram.doubled layer) } }

/-- Whether the latest evaluation found an excess (R55, R574). -/
def overheated (p : Power) : Bool := hotter p.dramTemp deg95 || hotter p.logicTemp deg105

/-- THERMAL_TRIP: every clock but that of domain 0 stops, and no write drains (R574, R575). -/
def execThermalTrip (s : State) : Out :=
  if s.power.porstLow || !s.power.powered || s.power.tripped || !overheated s.power then .next s else
  .next { s with power := { s.power with
    thermtrip := true, tripped := true, stoppedLow := true, clocks := 1, lastTrip := s.power.dramTemp } }

end Sys2Proof.Machine
end

