-- ==== Sys2Proof/Machine/CatRead.lean ====
section
/-! DEFINITION. The value of every Catalogue entry (R489 to R492, R501, R513 to R517 and the tables of the other chapters). -/

namespace Sys2Proof.Machine

/-- ASCII bytes of a text. -/
def asciiBytes (s : String) : List Byte := s.toList.map fun c => BitVec.ofNat 8 c.toNat

/-! ## The running image and the die's key (R520, R522, R542) -/

/-- The private key of the die. -/
def identityPrivate : List Byte := shake 57 (0x05 :: Config.uds)

/-- The die's public identity key. -/
def identityKey : List Byte := edPublic identityPrivate

/-- FW_VERSION of an image. -/
def imgVersion (img : List Byte) : Nat := leNat (sub img 8 4)

/-- KEY_INDEX of an image. -/
def imgKey (img : List Byte) : Nat := leNat (sub img 5 1) % 4

/-! ## The presence window (R538) -/

/-- PRESENCE_LEFT_S: the remaining time rounded up to whole seconds. -/
def presenceLeft (s : State) : Nat :=
  match s.sec.presenceEnd with
  | some t => if presenceOpen s then cdiv (t - s.power.now) 1000000000 else 0
  | none => 0

/-! ## Values by index -/

/-- The code of DEVICE_STATE. -/
def DevState.code : DevState → Nat
  | .starting => 0 | .running => 1 | .recovery => 2 | .stopping => 3

/-- The code of a context's STATE. -/
def CtxState.code : CtxState → Nat
  | .free => 0 | .live => 1 | .lost => 2 | .teardown => 3 | .frozen => 4

/-- The code of STAGING_HOLDER. -/
def Holder.stagingCode : Holder → Nat
  | .reduction => 1 | .folio => 2 | _ => 0

/-- Entries of index 0x1000; without a running image the version and digest are free values. -/
def val1000 (s : State) (sub : Nat) : List Byte :=
  match sub with
  | 1 => asciiBytes "Tarhiros"
  | 2 => asciiBytes "SCH-D384-15T"
  | 3 => [0xB0]
  | 4 => padTo 16 Config.serial
  | 5 => leBytes 4 (if s.sec.fwImage = [] then Config.free s.fresh else imgVersion s.sec.fwImage)
  | 6 => if s.sec.fwImage = [] then leBytes 32 (Config.free s.fresh) else shake 32 s.sec.fwImage
  | 7 => identityKey
  | 8 => leBytes 2 1
  | _ => (catIndices s).flatMap (leBytes 2)

/-- Entries of index 0x1100. -/
def val1100 (s : State) (sub : Nat) : Nat :=
  let p := s.power
  match sub with
  | 1 => p.devState.code
  | 2 => p.step
  | 3 => p.startFail.toNat
  | 0x0D => p.now
  | 0x11 => s.desk.txnDiscarded
  | 0x12 => p.clocks.toNat
  | 0x13 => s.desk.catRefused
  | _ => sget (fun _ => 0) p.stepDone (sub - 3)

/-- Entries of a port; `n` is 0 and 1 for host ports, 2 to 9 for peer ports. -/
def valPort (s : State) (n sub : Nat) : List Byte :=
  let p := s.port n
  match sub with
  | 1 => leBytes 1 p.linkMode
  | 2 => leBytes 1 p.linkState
  | 3 => leBytes 6 (Config.macAddr n).toNat
  | 4 => leBytes 16 p.ip.toNat
  | 5 => leBytes 1 p.pfxLen
  | 6 => leBytes 16 p.gateway.toNat
  | 7 => leBytes 2 p.vlan
  | 8 => leBytes 2 p.mgmtVlan
  | 9 => leBytes 2 p.mtu
  | 0x0A => [p.pfcEnable]
  | 0x0B => leBytes 1 p.prioMain
  | 0x0C => leBytes 1 (if n < 2 then p.prioSmt else (sget (fun _ => Holder.none) s.ports.staging (n - 2)).stagingCode)
  | 0x0D => leBytes 1 (if n < 2 then p.ptpMode else 0)
  | 0x0E => leBytes 8 p.fecCorr
  | 0x0F => leBytes 8 p.fecUncorr
  | 0x10 => leBytes 8 p.rxDropped
  | 0x11 => leBytes 8 p.nakSent
  | _ => leBytes 2 ((olist s.ports.sessions).filter fun e => e.2.port == n).length

/-- Entries of index 0x2110. -/
def val2110 (s : State) (sub : Nat) : List Byte :=
  match sub with
  | 1 => leBytes 2 s.ports.ownPeer
  | 3 => (List.range 4096).flatMap fun n => leBytes 64 (s.peer n).entry.toNat
  | 4 => leBytes 2 (s.ports.peers.filter fun e => e.2.kind == 1 && e.2.state == 1).length
  | _ => leBytes 8 s.ports.peersLost

/-- A plan's byte of PLAN_STATE. -/
def Plan.stateByte (p : Plan) : Byte := if p.kind = 0 then 0 else if p.failed then 3 else if p.running then 2 else 1

/-- Entries of index 0x2120. -/
def val2120 (s : State) (sub : Nat) : List Byte :=
  match sub with
  | 3 => (List.range 64).flatMap fun n => leBytes 128 (s.plan n).raw.toNat
  | 4 => (List.range 64).map fun n => (s.plan n).stateByte
  | 5 => leBytes 8 s.plans.done
  | 6 => leBytes 8 s.plans.failed
  | 7 => leBytes 8 s.plans.discarded
  | 8 => leBytes 8 s.plans.drops
  | _ => leBytes 8 s.plans.entries

/-- Entries of indices 0x3000 and 0x3010. -/
def valSteep (s : State) (steep : Bool) (sub : Nat) : Nat :=
  let d := s.desk
  if steep then
    match sub with
    | 1 => d.steepNumber
    | 2 => d.steepStart
    | 3 => d.overruns
    | 4 => d.promotedCtx
    | _ => 12 * d.floorShare
  else
    match sub with
    | 1 => b2n d.align
    | 2 => d.periodUs
    | 3 => d.phaseNs
    | 4 => d.floorShare
    | _ => d.promoteSteeps

/-- Entries of a stream slot. -/
def valSlot (s : State) (n sub : Nat) : Nat :=
  let x := s.slot n
  match sub with
  | 1 => b2n x.enable
  | 2 => x.budget
  | 3 => x.queue
  | 4 => x.admitted
  | 5 => x.dropped
  | _ => x.used

/-- Retired pages of a carrel, factory and field. -/
def retiredIn (s : State) (c : Carrel) : Nat := retiredBefore s.dram c c.raw

/-- Entries of a carrel. -/
def valCarrel (s : State) (n sub : Nat) : Nat :=
  let c := s.carrel n
  match sub with
  | 1 => c.start
  | 2 => c.units
  | 3 => c.tenant
  | 4 => c.tablePages
  | 5 => contextsIn s n
  | 6 => c.raw
  | 7 => retiredIn s c
  | _ => tablePagesUsed s n

/-- Desk-clock cycles that the cores now holding launches of context `n` have not yet been charged (R398). -/
def runningCycles (s : State) (n : Nat) : Nat :=
  (s.cores.map fun e => if (e.2.work.launch.bind s.launch).any (·.ctx == n) then
    (e.2.since.map fun t => clockOf s.power.now - clockOf t).getD 0 else 0).sum

/-- Entries of a context. -/
def valCtx (s : State) (n sub : Nat) : List Byte :=
  let c := s.ctx n
  match sub with
  | 1 => leBytes 1 c.state.code
  | 2 => leBytes 1 c.tenant
  | 3 => leBytes 1 c.carrel
  | 4 => leBytes 2 c.migSession
  | 5 => leBytes 1 (b2n c.dirtyTrack)
  | 6 => leBytes 4 (((leavesOf s n).map fun l => pageBytes l.size / 65536).sum)
  | 7 => leBytes 4 (dirtyOf s n).length
  | 8 => leBytes 8 c.migrations
  | 9 => leBytes 2 c.faultStatus.toNat
  | 0x0A => leBytes 64 c.faultRecord.toNat
  | 0x10 => leBytes 8 c.cmdsRetired
  | 0x11 => leBytes 8 c.blksRetired
  | 0x12 => leBytes 8 (satAdd 64 c.coreCycles (runningCycles s n))
  | 0x13 => leBytes 8 c.lastProgress
  | 0x14 => leBytes 2 c.starved
  | 0x15 => leBytes 1 (b2n c.promoted)
  | 0x16 => leBytes 8 c.folioLastId
  | 0x17 => leBytes 4 c.folioChain
  | 0x18 => leBytes 1 c.folioState
  | 0x19 => leBytes 1 (b2n c.loaned)
  | _ => leBytes 8 c.folioSteep

/-- Entries of index 0x6000. -/
def val6000 (s : State) (sub : Nat) : Nat :=
  let h := s.hub
  match sub with
  | 1 => 65536
  | 2 => 16384
  | 3 => 64
  | 4 => h.quota
  | 5 => (h.tallies.filter fun e => e.2.assigned).length
  | 6 => h.watches.length
  | 7 => h.blocked
  | 8 => h.lastBlocked.toNat
  | 9 => h.ignored
  | 0x0A => h.outOfRange
  | 0x0B => h.watchFull
  | _ => (olist h.channels).foldl (fun m e => m ||| 2 ^ e.1) 0

/-- Entries of index 0x7000. -/
def val7000 (s : State) (sub : Nat) : Nat :=
  let p := s.power
  match sub with
  | 1 => p.arithMHz
  | 2 => p.capMHz
  | 3 => p.limitW
  | 4 => p.powerW.toNat
  | 5 => p.logicTemp.toNat
  | 6 => p.dramTemp.toNat
  | 0x17 => p.throttles
  | 0x18 => p.vddMv.toNat
  | 0x19 => p.lastTrip.toNat
  | _ => (p.layer (sub - 7)).toNat

/-- Scrub passes that every vault has completed (R56). -/
def allPasses (d : Dram) : Nat :=
  (List.range 384).foldl (fun m v => Nat.min m (sget (fun _ => 0) d.passes v)) (sget (fun _ => 0) d.passes 0)

/-- Entries of index 0x7800. -/
def val7800 (s : State) (sub : Nat) : Nat :=
  let d := s.dram
  match sub with
  | 1 => 25165824
  | 2 => d.factoryCount
  | 3 => d.fieldRetired.length
  | 4 => 25165824 - d.factoryCount - d.fieldRetired.length
  | 5 => 8192
  | 6 => d.corrected
  | 7 => d.uncorrectable
  | 8 => d.poisonReads
  | 9 => d.lastAddr
  | 0x0A => d.lastKind
  | 0x0B => d.scrubPeriodH
  | 0x0C => allPasses d
  | 0x0E => d.ueHead
  | n => if n < 0x1F then sget (fun _ => 0) d.ueLog (n - 0x0F)
    else if n < 0x2F then sget (fun _ => 0) d.layerCorrected (n - 0x1F)
    else b2n (sget (fun _ => false) d.doubled (n - 0x2F))

/-- Bytes of FOLIO_DATA that the running image's sessions have not acknowledged (R478). -/
def folioUnacked (s : State) (r : FolioRun) : Nat :=
  let used := (r.cmd.locs.filter fun l => fld l 0 2 == 3).flatMap fun l => [fld l 40 8, fld l 48 8]
  8192 * (used.eraseDups.map fun n => ((s.session n).map fun x => (x.unacked.filter (·.typ == 0x51)).length).getD 0).sum

/-- Entries of index 0x8000. -/
def val8000 (s : State) (sub : Nat) : List Byte :=
  let f := s.folio
  match sub with
  | 1 => leBytes 1 (b2n f.run.isSome)
  | 2 => leBytes 2 ((f.run.map (·.cmd.ctx)).getD 0xFFFF)
  | 3 => leBytes 8 ((f.run.map fun r => r.bytes - folioUnacked s r).getD 0)
  | 4 => leBytes 8 ((f.run.map (·.total)).getD 0)
  | 5 => leBytes 2 f.waiting.length
  | 6 => leBytes 8 f.written
  | 7 => leBytes 8 f.recalls
  | 8 => leBytes 8 f.restores
  | 9 => leBytes 8 f.restoreFails
  | 0x0A => leBytes 1 f.trustMode
  | n => leBytes 32 (sget (fun _ => (0 : BitVec 256)) f.trusted (n - 0x0B)).toNat

/-- Entries of index 0x9000. -/
def val9000 (s : State) (sub : Nat) : List Byte :=
  match sub with
  | 1 => leBytes 1 (b2n s.sec.sealBroken)
  | 2 => leBytes 1 (b2n (presenceOpen s))
  | 3 => leBytes 2 (presenceLeft s)
  | 8 => leBytes 1 s.sec.keyRevoked.toNat
  | 0x0A => s.sec.fwStage
  | 0x0C => leBytes 1 (b2n s.sec.commit.isSome)
  | n => padTo 32 (s.sec.keyDigest (n - 4))

/-- Entries of index 0xA000. -/
def valA000 (s : State) (sub : Nat) : Nat :=
  match sub with
  | 1 => s.sec.debugEnable
  | 2 => s.sec.debugCtx
  | 3 => s.sec.jtagUnlock
  | 4 => s.sec.debugEvents
  | 0x20 => s.power.ccDisableNext.toNat
  | _ => b2n (s.power.ccMaint.any (·.owner.isNone))

/-- The bytes of entry `e` at index `i`, in force now; an action has none. -/
def catValue (s : State) (i : Nat) (e : CatEntry) : List Byte :=
  let sub := e.sub
  let fix (v : Nat) : List Byte := leBytes ((typWidth e.typ).getD 0) v
  if e.action then []
  else if sub = 0 then fix e.dflt
  else if i = 0x1000 then val1000 s sub
  else if i = 0x1100 then fix (val1100 s sub)
  else if i < 0x2002 then valPort s (i - 0x2000) sub
  else if i < 0x2108 then valPort s (i - 0x2100 + 2) sub
  else if i = 0x2110 then val2110 s sub
  else if i = 0x2120 then val2120 s sub
  else if i = 0x2800 then leBytes 32 (allowRec s (sub - 1)).toNat
  else if i = 0x3000 then fix (valSteep s true sub)
  else if i = 0x3010 then fix (valSteep s false sub)
  else if i < 0x3300 then fix (valSlot s (i - 0x3200) sub)
  else if i < 0x4010 then fix (valCarrel s (i - 0x4000) sub)
  else if i < 0x5400 then valCtx s (i - 0x5000) sub
  else if i = 0x6000 then fix (val6000 s sub)
  else if i = 0x7000 then fix (val7000 s sub)
  else if i = 0x7800 then fix (val7800 s sub)
  else if i = 0x8000 then val8000 s sub
  else if i = 0x9000 then val9000 s sub
  else fix (valA000 s sub)

end Sys2Proof.Machine
end

