-- ==== Sys2Proof/Machine/Attest.lean ====
section
/-! DEFINITION. Attestation: the measurements and the signed report (R543 to R546). -/

namespace Sys2Proof.Machine

/-- The protected entries, in ascending call number (R544). -/
def protectedEntries : List (Nat × Nat) :=
  (List.range 64).map (fun k => (0x2800, k + 1)) ++ (List.range 17).map (fun k => (0x8000, k + 0x0A)) ++
  [(0x9000, 1), (0x9000, 8), (0xA000, 1), (0xA000, 2), (0xA000, 3), (0xA000, 0x20)]

/-- One entry as CATALOGUE_DIGEST measures it. -/
def measuredEntry (s : State) (k : Nat × Nat) : List Byte :=
  match catEntry s k.1 k.2 with
  | none => []
  | some e =>
    let v := catValue s k.1 e
    leBytes 2 k.1 ++ leBytes 1 k.2 ++ leBytes 1 e.typ ++ leBytes 4 v.length ++ v

/-- CATALOGUE_DIGEST. -/
def catalogueDigest (s : State) : List Byte := shake 32 (0x03 :: protectedEntries.flatMap (measuredEntry s))

/-- FW_RUNTIME: the digest engines' results for each page of the firmware store under the nonce. -/
def fwRuntime (img nonce : List Byte) : List Byte :=
  shake 32 (0x04 :: (List.range (cdiv img.length 65536)).flatMap fun p => shake 32 (nonce ++ padTo 65536 (sub img (65536 * p) 65536)))

/-- The flag bits of the report: SEAL_BROKEN, PRESENCE_OPEN, DEBUG_ENABLED, JTAG_UNLOCKED. -/
def reportFlags (s : State) : Nat :=
  b2n s.sec.sealBroken + 2 * b2n (presenceOpen s) + 4 * b2n s.sec.everDebug + 8 * b2n s.sec.everJtag

/-- Bytes 0 to 383 of the report (R545). -/
def reportBody (s : State) (nonce : List Byte) : List Byte :=
  let img := s.sec.fwImage
  leBytes 4 0x54414853 ++ [1] ++ leBytes 1 (reportFlags s) ++ leBytes 1 (imgKey img) ++ leBytes 1 s.sec.keyRevoked.toNat ++
  leBytes 4 (imgVersion img) ++ leBytes 1 nonce.length ++ [0xB0, 0, 0] ++ leBytes 8 s.power.now ++ leBytes 8 s.desk.steepNumber ++
  padTo 16 Config.serial ++ shake 32 img ++ fwRuntime img nonce ++ catalogueDigest s ++ padTo 64 nonce ++
  padTo 176 identityKey

/-- The 512-byte report. -/
def report (s : State) (nonce : List Byte) : List Byte :=
  let b := reportBody s nonce
  padTo 512 (b ++ edSign identityPrivate (shake 64 b))

/-- Why ATTEST is refused (R543). -/
def attestRefusal (s : State) (nonce : List Byte) : Option Status :=
  if nonce.length < 32 ∨ 64 < nonce.length then some Code.valueOutOfRange
  else if s.ports.digHolder = .none then none
  else some Code.resourceHeld

end Sys2Proof.Machine
end

