-- ==== Sys2Proof/Machine/PeerPort.lean ====
section
/-! DEFINITION. The Scehel Peer Transport: channels, keepalives, loss, and what peers ask for and answer
(R301, R424 to R430). -/

namespace Sys2Proof.Machine

/-! ## Channels (R427 to R429) -/

/-- Acknowledge on a channel alone: a KEEPALIVE carries the ACK (R424, LOG 141). -/
def peerAckSend (s : State) (n port : Nat) : State :=
  emit (s.modChan n port fun c => { c with owed := 0 }) (.keepalive n port)

/-- What an ACK on a channel acknowledges: the frames before it leave, and those that enter the window are sent. -/
def peerAcked (s : State) (n port ack : Nat) : State :=
  let c := s.chan n port
  let first := (c.txNext + 2 ^ 32 - c.unacked.length) % 2 ^ 32
  let k := (ack + 2 ^ 32 - first) % 2 ^ 32
  if k = 0 ∨ Nat.min 1024 c.unacked.length < k then s else
  let left := c.unacked.drop k
  let fresh := (left.take 1024).drop (Nat.min 1024 c.unacked.length - k)
  fresh.foldl (fun s f => emit s (.peer n port f)) (s.modChan n port fun c => { c with unacked := left })

/-- A frame has arrived on a channel; an idle entry is up when every channel has received one (R428). -/
def peerHeard (s : State) (n port : Nat) : State :=
  let s := s.modChan n port fun c => { c with misses := 0, seen := true, ever := true }
  if (s.peer n).state = 0 ∧ (s.peer n).portList.all (fun p => (s.chan n p).ever) then
    s.modPeer n fun e => { e with entry := setFld e.entry 2 2 1 }
  else s

/-- The header checks that every frame passes, and the sender's entry: KIND 1, not lost, at the source address, on a port of its
mask (R424, R429, R430). -/
def peerKnown (s : State) (p : PeerFrame) : Bool :=
  let e := s.peer p.src.toNat
  decide (p.port < 8) && p.version == 1 && decide (p.payload.length ≤ 4096) &&
  p.dst.toNat == s.ports.ownPeer && e.kind == 1 && decide (e.state ≤ 1) && fld e.entry 256 128 == p.srcIp.toNat &&
  e.mask.testBit p.port

/-- A Peer Transport frame arrives on its port (R402, R405, R407). -/
def frameArrives (s : State) (p : PeerFrame) (act : State → State) : State :=
  arrive s (2 + p.port) p.vlan.toNat (ownBytes p.srcIp p.payload.length) act

/-- A sequenced frame: in order it is accepted and acknowledged in time; otherwise it is discarded and acknowledged at once
(R427). A request from an entry that is not up is discarded (R430); `take` may decline the frame, which is then not acknowledged and
leaves `declined`. One with a reserved header bit set is not acted on: `refuse` reports the format status (R12, LOG 142). -/
def peerTakes (s : State) (p : PeerFrame) (needUp : Bool) (refuse : State → State) (take : State → Option State)
    (declined : State → State) : State :=
  frameArrives s p fun s =>
  if !peerKnown s p then s else
  let n := p.src.toNat
  let s := peerAcked (peerHeard s n p.port) n p.port p.ack.toNat
  if needUp && (s.peer n).state != 1 then s else
  let c := s.chan n p.port
  if p.seq.toNat ≠ c.rxNext then peerAckSend s n p.port else
  let s' := s.modChan n p.port fun c => { c with rxNext := (c.rxNext + 1) % 2 ^ 32, owed := c.owed + 1 }
  let s' := if 16 ≤ c.owed + 1 then peerAckSend s' n p.port else s'
  if p.rsv then refuse s' else (take s').getD (declined s)

/-- A sequenced frame that is taken whenever it is in order. -/
def peerSeq (s : State) (p : PeerFrame) (needUp : Bool) (refuse act : State → State) : State :=
  peerTakes s p needUp refuse (fun s => some (act s)) id

/-! ## Requests of peers (R430) -/

/-- Answer a request. -/
def peerAnswer (s : State) (p : PeerFrame) (typ : Nat) (st : Status) (bytes : List Byte) (poison : List Bool) : State :=
  peerSend s p.src.toNat p.port
    { OutFrame.plain typ p.src.toNat p.tenant.toNat p.context.toNat p.tag with
        opx := p.opx, addr := p.addr.toNat, length := bytes.length, status := st, poison := poison, payload := bytes }

/-- Whether a DRAM address range lies where the entry's peer may reach it in the carrel of the context (R430). -/
def peerMayReach (s : State) (p : PeerFrame) (pa len : Nat) : Bool :=
  let n := (s.ctx p.context.toNat).carrel
  bit (s.peer p.src.toNat).entry (48 + n) &&
  (List.range ((pa + Nat.max 1 len - 1) / 65536 - pa / 65536 + 1)).all fun j =>
    let q := pa / 65536 + j
    !s.dram.retired q && match (s.carrel n).index q with
      | some i => !inTableArea s.dram (s.carrel n) i
      | none => false

/-- The checks of R430 on a request for `len` bytes: the status on failure. -/
def peerCheck (s : State) (p : PeerFrame) (len : Nat) (atomic : Bool) : Option Status :=
  let e := s.peer p.src.toNat
  let ctx := p.context.toNat
  let pa := p.addr.toNat
  if s.power.devState = .stopping then some Code.deviceStopping
  else if p.tenant.toNat ≠ e.tenant ∨ e.tenant ≠ tenantOf s ctx ∨ (s.ctx ctx).state ≠ .live then some Code.remoteRefused
  else match regionOf pa with
    | .window c o =>
      if !windowOk s c o len e.tenant then some Code.windowUnavailable
      else if atomic then some Code.atomicNotSupported else none
    | .dram => if peerMayReach s p pa len then none else some Code.remoteRefused
    | _ => some Code.remoteRefused

/-- Note dirty every page of a context that maps DRAM page `page` by a KIND 1 leaf (R356, R430). -/
def dirtyByPage (s : State) (ctx page : Nat) : State :=
  ((leavesOf s ctx).filter fun l => leafDram l && (leafPages l).contains page).foldl (fun s l =>
    noteDirty s ctx (l.va / 65536 + (page - leafAddr l.word / 65536))) s

/-- Note dirty the pages of a physical range. -/
def dirtyByRange (s : State) (ctx pa len : Nat) : State :=
  if len = 0 ∨ regionOf pa ≠ .dram then s else
  (List.range ((pa + len - 1) / 65536 - pa / 65536 + 1)).foldl (fun s j => dirtyByPage s ctx (pa / 65536 + j)) s

/-- A request with a reserved header bit set is answered with the format status (R12). -/
def peerRefuse (p : PeerFrame) (typ : Nat) (s : State) : State := peerAnswer s p typ Code.formatError [] []

/-- Perform an incoming write, a device-type one at its vault; its poison flags name the sectors of the payload (R40, R276, R430). -/
def peerWriteAt (s : State) (p : PeerFrame) : Except Status State :=
  let pa := p.addr.toNat
  match peerCheck s p p.payload.length false with
  | some st => .error st
  | none => physWrite (dirtyByRange s p.context.toNat pa p.payload.length) pa p.payload
      (fun k => p.poison.getD (k - pa / 32) false) p.tenant.toNat (bit p.opx 0)

/-- PEER_WRITE (R430). -/
def execPeerWrite (p : PeerFrame) (s : State) : Out :=
  .next (peerSeq s p true (peerRefuse p 6) fun s => match peerWriteAt s p with
    | .error st => peerAnswer s p 6 st [] []
    | .ok s => peerAnswer s p 6 Code.success [] [])

/-- PEER_READ: LENGTH is the number of bytes asked for (R430). -/
def execPeerRead (p : PeerFrame) (s : State) : Out :=
  .next (peerSeq s p true (peerRefuse p 3) fun s =>
    match if 4096 < p.length then some Code.remoteRefused else peerCheck s p p.length false with
    | some st => peerAnswer s p 3 st [] []
    | none => match physRead s p.addr.toNat p.length p.tenant.toNat (bit p.opx 0) with
      | .error st => peerAnswer s p 3 st [] []
      | .ok (g, s) => peerAnswer s p 3 Code.success g.bytes g.poison)

/-- The operands of an ATOMIC frame's payload: lane, operand and comparand of `size` bytes; bit 7 of the lane byte is the page type
(LOG 41). -/
def atomOperands (bs : List Byte) (size : Nat) : List Operand :=
  (List.range (bs.length / (2 * size + 1))).map fun i =>
    let x := sub bs (i * (2 * size + 1)) (2 * size + 1)
    { lane := (x.getD 0 0).toNat % 32, d := leNat (sub x 1 size), c := leNat (sub x (1 + size) size) }

/-- PEER_ATOMIC: the sets are performed at the home cluster cache, on a device-type page at the vault (R292, R430); poison is
returned and nothing is written. -/
def execPeerAtomic (p : PeerFrame) (s : State) : Out :=
  let size := if bit p.opx 5 then 8 else 4
  let pa := p.addr.toNat
  let dev := bit (p.payload.getD 0 0) 7
  .next (peerSeq s p true (peerRefuse p 5) fun s =>
    match peerCheck s p size true with
    | some st => peerAnswer s p 5 st [] []
    | none =>
      let r := if dev then vaultGet s pa size else dramRead s pa size false
      let q := atomSet (opxAtom p.opx) (fld p.opx 3 2) (fld p.opx 6 2) size (leNat r.1.bytes) (atomOperands p.payload size)
      let old := q.1.flatMap fun x => leBytes size x.2
      if r.1.bad then peerAnswer r.2 p 5 Code.success old [true] else
      let s := dirtyByRange r.2 p.context.toNat pa size
      peerAnswer (if dev then vaultPut s pa (leBytes size q.2) fun _ => false else dramWrite s pa (leBytes size q.2) (fun _ => false) false)
        p 5 Code.success old [false])

/-! ## Answers of peers -/

/-- The access that waits for an answer under a tag. -/
def taggedAccess (s : State) (p : PeerFrame) : Option Access :=
  s.accesses.find? fun a => match a.stage, a.target with
    | .sent t, .remote n => tagOf t == p.tag && n == p.src.toNat
    | _, _ => false

/-- A RESHARD_WRITE has been answered: the answer echoes its TAG, OPX and ADDR (LOG 45); a failure fails the step (R457). -/
def planAnswered (s : State) (p : PeerFrame) : State :=
  let n := fld p.opx 0 6
  let x := s.plan n
  let key := p.src.toNat + 4096 * p.addr.toNat
  if !x.running || p.tag.toNat ≠ x.step || !x.tags.contains key then s
  else if p.status = Code.success then s.modPlan n fun x => { x with tags := x.tags.erase key }
  else planFail s n x.step p.status true

/-- The running Folio command after an answer under its tag (R477, R482). -/
def FolioRun.answered (r : FolioRun) (p : PeerFrame) : FolioRun :=
  match r.sinkSeqs.find? fun x => tagOf x.1 == p.tag with
  | none => r
  | some (id, off) =>
    let r := { r with sinkSeqs := r.sinkSeqs.filter (·.1 != id) }
    if p.status ≠ Code.success then { r with failure := r.failure.or (some Code.folioSinkFailed) }
    else if r.cmd.kind = .restore then
      { r with got := sput (fun _ => []) r.got off p.payload, bytes := r.bytes + p.payload.length }
    else { r with bytes := r.bytes + off }

/-- A Folio image's write or read has been answered. -/
def folioAnswered (s : State) (p : PeerFrame) : State :=
  { s with folio := { s.folio with run := s.folio.run.map fun (r : FolioRun) => r.answered p } }

/-- Complete what an answer belongs to. -/
def answered (s : State) (p : PeerFrame) (done : State → Access → State) : State :=
  match taggedAccess s p with
  | some a => if p.status = Code.success then done s a else failAccess s a p.status
  | none => folioAnswered (planAnswered s p) p

/-- A response with a reserved header bit set ends what it answers with the format status (R12). -/
def respRefuse (p : PeerFrame) (s : State) : State := answered s { p with status := Code.formatError } fun s _ => s

/-- READ_RESP (R430). -/
def execReadResp (p : PeerFrame) (s : State) : Out :=
  .next (peerSeq s p false (respRefuse p) fun s => answered s p fun s a => remoteData s a p.payload p.poison)

/-- ATOMIC_RESP (R430). -/
def execAtomicResp (p : PeerFrame) (s : State) : Out :=
  .next (peerSeq s p false (respRefuse p) fun s => answered s p fun s a => remoteAtomic s a p.payload p.poison)

/-- WRITE_ACK (R430). -/
def execWriteAck (p : PeerFrame) (s : State) : Out :=
  .next (peerSeq s p false (respRefuse p) fun s => answered s p fun s a => finishAccess s a)

/-! ## Keepalives and timers (R301, R427, R428) -/

/-- KEEPALIVE: consumes no sequence number; it carries an acknowledgement like any frame. -/
def execKeepalive (p : PeerFrame) (s : State) : Out :=
  .next (frameArrives s p fun s =>
    if peerKnown s p && !p.rsv then peerAcked (peerHeard s p.src.toNat p.port) p.src.toNat p.port p.ack.toNat else s)

/-- Whether a channel of an idle or up entry runs. -/
def chanRuns (s : State) (n port : Nat) : Bool :=
  bit s.power.clocks 1 && decide (port < 8) && (s.peer n).kind == 1 && decide ((s.peer n).state ≤ 1) && (s.peer n).mask.testBit port

/-- KEEPALIVE_TIMER. -/
def execKeepaliveTimer (peer port : Nat) (s : State) : Out :=
  .next (if chanRuns s peer port && portUp s (2 + port) then emit s (.keepalive peer port) else s)

/-- KEEPALIVE_CHECK: a silent channel's miss count rises. -/
def execKeepaliveCheck (peer port : Nat) (s : State) : Out :=
  if !chanRuns s peer port then .next s else
  .next (s.modChan peer port fun c => if c.seen then { c with seen := false } else { c with misses := c.misses + 1 })

/-- Every outstanding access to a peer completes with "peer lost" (R301). -/
def failPeerAccesses (s : State) (n : Nat) : State :=
  (s.accesses.filter fun a => match a.stage, a.target with
    | .sent _, .remote m => m == n
    | _, _ => false).foldl (fun s a => if s.accesses.any (·.id == a.id) then failAccess s a Code.peerLost else s) s

/-- The plans that send to or expect from a lost peer fail (R457). -/
def failPeerPlans (s : State) (n : Nat) : State :=
  (keysOf s.plans.plans).foldl (fun s k =>
    let p := s.plan k
    if p.running && (p.next == n || (p.kind == 1 && p.prev == n) || p.tags.any fun t => t % 4096 == n) then planFail s k p.step Code.peerLost true else s) s

/-- A running image over a lost peer fails (R482). -/
def FolioRun.lostPeer (r : FolioRun) (n : Nat) : FolioRun :=
  if r.cmd.locs.any fun l => fld l 0 2 == 2 && fld l 28 12 == n then
    { r with failure := r.failure.or (some Code.folioSinkFailed), sinkSeqs := [] }
  else r

/-- PEER_LOST: a miss count of 3 (R301, R428, R482). -/
def execPeerLost (peer : Nat) (s : State) : Out :=
  if !(List.range 8).any fun p => chanRuns s peer p && decide (3 ≤ (s.chan peer p).misses) then .next s else
  let s := s.modPeer peer fun e =>
    { e with entry := setFld e.entry 2 2 2, chans := smap (fun _ => Chan.fresh) (fun _ (c : Chan) => { c with unacked := [] }) e.chans }
  let s : State := { s with
    ports := { s.ports with peersLost := satAdd 64 s.ports.peersLost 1 },
    folio := { s.folio with run := s.folio.run.map fun (r : FolioRun) => r.lostPeer peer } }
  .next (failPeerPlans (failPeerAccesses s peer) peer)

/-- PEER_RESEND_TIMER: no progress for 4 µs. -/
def execPeerResendTimer (peer port : Nat) (s : State) : Out :=
  if !chanRuns s peer port then .next s else
  .next (((s.chan peer port).unacked.take 1024).foldl (fun s f => emit s (.peer peer port f)) s)

/-- PEER_ACK_TIMER: 1 µs after an unacknowledged frame. -/
def execPeerAckTimer (peer port : Nat) (s : State) : Out :=
  .next (if chanRuns s peer port && decide (0 < (s.chan peer port).owed) then peerAckSend s peer port else s)

end Sys2Proof.Machine
end

