-- ==== Sys2Proof/Machine/Leaf.lean ====
section
/-! DEFINITION. The Leaf formats, the Caddy block scale and Caddy fitting (05_leaf_formats_and_arithmetic.md, R143 to R156). -/

namespace Sys2Proof.Machine

/-- A Leaf format by its code of R106: 3 LF8A, 4 LF8B, 5 LF6, 6 LF4. Width of its register container (R117). -/
def leafWidth (t : Nat) : Nat := if t = 6 then 4 else 8

/-- Bits of a code. -/
def leafBits (t : Nat) : Nat := if t = 6 then 4 else if t = 5 then 6 else 8

/-- The void code: the sign bit alone (R143). -/
def leafVoid (t : Nat) : Nat := 2 ^ (leafBits t - 1)

/-- The exponent of the unit in which `leafMag` counts, negated. -/
def leafUnit (t : Nat) : Nat := if t = 3 then 8 else if t = 4 then 15 else if t = 5 then 5 else 2

/-- Magnitude of positive code `k` in units of 2^-`leafUnit` (R145 to R148). -/
def leafMag (t k : Nat) : Nat :=
  if k = 0 then 0
  else if t = 3 then (if k < 8 then k else (8 + k % 8) * 2 ^ (k / 8 - 1))
  else if t = 4 then (if k < 4 then k else (4 + k % 4) * 2 ^ (k / 4 - 1))
  else if t = 5 then (4 + k % 4) * 2 ^ (k / 4)
  else 2 ^ (k - 1)

/-- The largest positive code: MAXF. -/
def leafTop (t : Nat) : Nat := leafVoid t - 1

/-- The code of MINN, the smallest normal magnitude. -/
def leafMinNormal (t : Nat) : Nat := if t = 3 then 8 else if t = 4 then 4 else 1

/-- Whether positive code `k` is subnormal. -/
def leafSub (t k : Nat) : Bool := k != 0 && decide (k < leafMinNormal t)

/-- The code of a sign and a positive code. -/
def leafCode (t : Nat) (neg : Bool) (k : Nat) : Nat := if k = 0 then 0 else b2n neg * leafVoid t + k

/-- The greatest positive code whose magnitude is at most `num / den` units. -/
def leafFloor (t num den : Nat) : Nat :=
  ((List.range (leafTop t)).filter fun k => leafMag t (k + 1) * den ≤ num).length

/-- `leaf_encode` of the non-zero value (-1)^neg x num / den (R149). -/
def leafEncode (t mode rm : Nat) (neg : Bool) (num den : Nat) : Nat × Flags :=
  let n := num * 2 ^ leafUnit t
  if leafMag t (leafTop t) * den < n then (leafCode t neg (leafTop t), fOverflow ||| fInexact) else
  let k := leafFloor t n den
  let exact := leafMag t k * den == n
  let twice := (leafMag t k + leafMag t (k + 1)) * den
  let up : Bool := match rm with
    | 0 => decide (twice < 2 * n) || (twice == 2 * n && k % 2 == 1)
    | 1 => false
    | 2 => !neg
    | 3 => neg
    | _ => decide (twice ≤ 2 * n)
  let y := if exact then k else if up then k + 1 else k
  let fl : Flags := if exact then fNone
    else if n < leafMag t (leafMinNormal t) * den then fInexact ||| fUnderflow else fInexact
  if mode = 2 ∧ leafSub t y then (0, fl ||| fUnderflow ||| fInexact) else (leafCode t neg y, fl)

/-- The exact value of a code in units of 2^-`leafUnit`; none for void (R151). -/
def leafDecode (t mode code : Nat) : Option (Bool × Nat) :=
  let c := code % 2 ^ leafBits t
  if c = leafVoid t then none
  else
    let k := c % leafVoid t
    some (decide (leafVoid t ≤ c), if mode = 2 ∧ leafSub t k then 0 else leafMag t k)

/-- A power of two times a number, over a number: `num x 2^e / den` as a quotient of naturals. -/
def ratio (num : Nat) (e : Int) (den : Nat) : Nat × Nat :=
  if 0 ≤ e then (num * 2 ^ e.toNat, den) else (num, den * 2 ^ (-e).toNat)

/-- HALF_STEP in units of 2^-23 (R153). -/
def halfStep : Nat := 11863283

/-- `caddy_value(c)` for c in 1 to 254 as significand and exponent (R153). -/
def caddyValue (c : Nat) : Nat × Int :=
  let n : Int := (c : Int) - 127
  if n % 2 = 0 then (1, n / 2) else (halfStep, (n - 1) / 2 - 23)

/-- Encode binary32 `a` under Caddy `c` (R117). -/
def caddyEncode (t mode rm c a : Nat) : Nat × Flags :=
  if c = 0 then (0, fNone) else if c = 255 then (leafVoid t, fNone) else
  match unpack f32 (flushIn f32 mode a) with
  | .nan _ sig => (leafVoid t, if sig then fInvalid else fNone)
  | .inf neg => (leafCode t neg (leafTop t), fInvalid)
  | .fin neg m e =>
    if m = 0 then (0, fNone) else
    let v := caddyValue c
    let q := ratio m (e - v.2) v.1
    leafEncode t mode rm neg q.1 q.2

/-- Decode a code under Caddy `c` to binary32 (R117, R152, R154). -/
def caddyDecode (t mode rm c code : Nat) : Nat × Flags :=
  if c = 0 then (0, fNone) else if c = 255 then (f32.nan, fNone) else
  match leafDecode t mode code with
  | none => (f32.nan, fNone)
  | some (neg, m) =>
    if m = 0 then (0, fNone) else
    let v := caddyValue c
    let r := roundTo f32 rm neg (m * v.1) (v.2 - leafUnit t)
    (r.1, r.2 &&& fInexact)

/-- The smallest Caddy whose exact scale fits a block maximum m x 2^e, else 254 (R118). -/
def caddyFor (t m : Nat) (e : Int) : Nat :=
  let top := leafMag t (leafTop t)
  -- both sides in units of 2^-600
  let lhs := m * m * 2 ^ (2 * e + 600).toNat
  let rhs (c : Nat) := top * top * 2 ^ (c + 473 - 2 * leafUnit t)
  ((firstBelow 254 fun k => decide (lhs ≤ rhs (k + 1))).map (· + 1)).getD 254

/-- `cdy.fit` of the values of one block (R118). -/
def caddyFit (t mode : Nat) (xs : List Nat) : Nat :=
  let vs := xs.map fun x => unpack f32 (flushIn f32 mode x)
  if vs.any fun v => match v with | .nan _ _ => true | _ => false then 255
  else if vs.any fun v => match v with | .inf _ => true | _ => false then 254
  else
    let m := xs.foldl (fun a x => Nat.max a (flushIn f32 mode x % f32.signBit)) 0
    match unpack f32 m with
    | .fin _ k e => if k = 0 then 0 else caddyFor t k e
    | _ => 255

end Sys2Proof.Machine
end

