-- ==== Sys2Proof/Machine/Reduce.lean ====
section
/-! DEFINITION. The arithmetic of the peer ports: adders, block encoding and the Strainer (R444 to R449, R451, R452). -/

namespace Sys2Proof.Machine

/-- An element: its code and, for the Leaf formats, its Caddy. -/
abbrev ElemCode := Word × Nat

/-- Elements of a bucket by index within it. -/
abbrev Bucket := List (Nat × Option (Word × Nat))

/-- Bytes of an element code in FORMAT `f`. -/
def elemBytes (f : Nat) : Nat := if f = 0 then 4 else if f = 1 then 2 else 1

/-- Elements of a dense frame (R451). -/
def denseCount (f : Nat) : Nat := if f = 0 then 1024 else 2048

/-- The long format of FORMAT 0 or 1. -/
def longOf (f : Nat) : Fmt := if f = 1 then f16 else f32

/-- The Leaf format of FORMAT 2 or 3. -/
def leafOf (f : Nat) : Nat := if f = 2 then 3 else 4

/-- add of R445 for FORMAT 0 and 1: every NaN result is the default NaN. -/
def addLong (f x y : Nat) : Nat :=
  let m := longOf f
  let z := (fAdd m 0 0 x y).1
  if isNan m z then m.nan else z

/-- The exact value of a Leaf element: void, or sign, significand and exponent (R154, R445). -/
def leafExact (t : Nat) (x : ElemCode) : Option (Bool × Nat × Int) :=
  if x.2 = 0 then some (false, 0, 0)
  else if x.2 = 255 then none
  else (leafDecode t 0 x.1.toNat).map fun d =>
    let v := caddyValue x.2
    (d.1, d.2 * v.1, v.2 - leafUnit t)

/-- The exact sum of two values; a void operand makes it void. -/
def exactSum : Option (Bool × Nat × Int) → Option (Bool × Nat × Int) → Option (Bool × Nat × Int)
  | some a, some b => some (dyAdd a.1 a.2.1 a.2.2 b.1 b.2.1 b.2.2)
  | _, _ => none

/-- Whether |a| < |b| for magnitudes m x 2^e. -/
def magLt (a b : Nat × Int) : Bool :=
  let e := if a.2 ≤ b.2 then a.2 else b.2
  decide (a.1 * 2 ^ (a.2 - e).toNat < b.1 * 2 ^ (b.2 - e).toNat)

/-- encode_block of R445: the Caddy of a block of sums and each element's code. -/
def encodeBlock (t : Nat) (xs : List (Option (Bool × Nat × Int))) : List ElemCode :=
  let m := xs.foldl (fun (b : Nat × Int) x => match x with
    | some v => if magLt b v.2 then v.2 else b
    | none => b) (0, 0)
  let c := if m.1 = 0 then (if xs.any (·.isNone) then 127 else 0) else caddyFor t m.1 m.2
  xs.map fun x => match x with
    | none => (BitVec.ofNat 32 (leafVoid t), c)
    | some v =>
      if v.2.1 = 0 then (0, c) else
      let k := caddyValue c
      let q := ratio v.2.1 (v.2.2 - k.2) k.1
      (BitVec.ofNat 32 (leafEncode t 0 0 v.1 q.1 q.2).1, c)

/-- The element at an index; an absent one is +0. -/
def bucketAt (b : Bucket) (i : Nat) : ElemCode := ((oget b i : Option (Word × Nat))).getD (0, 0)

/-- A bucket from a list of all its elements. -/
def bucketFull (xs : List ElemCode) : Bucket := (xs.zipIdx).map fun (e : ElemCode × Nat) => ((e.2, some e.1) : Nat × Option (Word × Nat))

/-- A position merges an incoming bucket with its own contribution; the incoming element is the first operand (R444, R449). -/
def mergeBucket (f : Nat) (inc own : Bucket) : Bucket :=
  if f < 2 then
    own.foldl (fun m e => match e.2 with
      | none => m
      | some y => match oget inc e.1 with
        | none => oput m e.1 (some y)
        | some x => oput m e.1 (some (BitVec.ofNat 32 (addLong f x.1.toNat y.1.toNat), 0))) inc
  else
    let t := leafOf f
    bucketFull ((List.range 128).flatMap fun b => encodeBlock t ((List.range 32).map fun i =>
      exactSum (leafExact t (bucketAt inc (32 * b + i))) (leafExact t (bucketAt own (32 * b + i)))))

/-! ## The Strainer (R447, R448) -/

/-- Rank of a value: a NaN above every number, then by magnitude. -/
def strainKey (v : Nat) : Nat := if isNan f32 v then 2 ^ 32 else v % 2 ^ 31

/-- Whether element `i` is among the `k` selected: fewer than `k` elements rank above it. -/
def strained (vs : List Nat) (k i : Nat) : Bool :=
  let x := strainKey (vs.getD i 0)
  decide (((vs.zipIdx).filter fun e => decide (x < strainKey e.1) || (strainKey e.1 == x && decide (e.2 < i))).length < k)

/-- round_f32 of g + r for a gradient element of FORMAT `f`. -/
def strainValue (f g r : Nat) : Nat :=
  addLong 0 (if f = 1 then (cvtFF f16 f32 0 0 g).1 else g) r

/-- What a selected element is sent as: rounded to the format, never -0. -/
def strainSent (f v : Nat) : Nat :=
  let x := if f = 1 then (cvtFF f32 f16 0 0 v).1 else v
  if x = (longOf f).signBit then 0 else x

/-- The residual of a selected element. -/
def strainRest (f v sent : Nat) : Nat :=
  let x := if f = 1 then (cvtFF f16 f32 0 0 sent).1 else sent
  match unpack f32 x with
  | .fin _ _ _ => (fSub f32 0 0 v x).1
  | _ => 0

/-- One bucket through the Strainer: what is sent and the new residual of each element. -/
def strainBucket (f k : Nat) (gs rs : List Nat) : Bucket × List Nat :=
  let vs := (gs.zip rs).map fun e => strainValue f e.1 e.2
  let picked := (vs.zipIdx).map fun e => (e.1, e.2, strained vs k e.2)
  ((picked.filter (·.2.2)).map fun e => (e.2.1, some (BitVec.ofNat 32 (strainSent f e.1), 0)),
    picked.map fun e => if e.2.2 then strainRest f e.1 (strainSent f e.1) else e.1)

/-! ## Payloads (R451, R452) -/

/-- The payload of a dense frame: Caddy bytes first in the Leaf formats. -/
def densePayload (f : Nat) (xs : List ElemCode) : List Byte :=
  (if f < 2 then [] else (List.range (xs.length / 32)).map fun b => BitVec.ofNat 8 (xs.getD (32 * b) (0, 0)).2) ++
  xs.flatMap fun x => leBytes (elemBytes f) x.1.toNat

/-- The elements of a dense payload. -/
def denseElems (f : Nat) (bs : List Byte) : List ElemCode :=
  let cads := if f < 2 then 0 else 64
  (List.range (denseCount f)).map fun i =>
    (BitVec.ofNat 32 (leNat (sub bs (cads + elemBytes f * i) (elemBytes f))), if f < 2 then 0 else (bs.getD (i / 32) 0).toNat)

/-- Bytes of a dense frame. -/
def denseBytes (f : Nat) : Nat := (if f < 2 then 0 else 64) + elemBytes f * denseCount f

/-- The payload of a sparse frame. -/
def sparsePayload (f : Nat) (xs : List (Nat × ElemCode)) : List Byte :=
  xs.flatMap fun x => leBytes 2 x.1 ++ leBytes (elemBytes f) x.2.1.toNat

/-- The entries of a sparse payload. -/
def sparseElems (f : Nat) (bs : List Byte) : List (Nat × ElemCode) :=
  let w := 2 + elemBytes f
  (List.range (bs.length / w)).map fun i =>
    (leNat (sub bs (w * i) 2), (BitVec.ofNat 32 (leNat (sub bs (w * i + 2) (elemBytes f))), 0))

/-- Split a list into pieces of `n`, at least one piece. -/
def chunks {α : Type} (n : Nat) (xs : List α) : List (List α) :=
  (List.range (Nat.max 1 (cdiv xs.length n))).map fun i => (xs.drop (n * i)).take n

end Sys2Proof.Machine
end

