-- ==== Sys2Proof/Machine/Plans.lean ====
section
/-! DEFINITION. The plan engines: control blocks, reduce-scatter steps, re-shard steps, and their frames (R436 to R459). -/

namespace Sys2Proof.Machine

/-! ## Fields of a plan (R436) -/

/-- FORMAT. -/
def Plan.format (p : Plan) : Nat := fld p.raw 2 2

/-- N. -/
def Plan.ring (p : Plan) : Nat := fld p.raw 20 12 + 1

/-- RING_POS. -/
def Plan.ringPos (p : Plan) : Nat := fld p.raw 32 12

/-- SHARD_BUCKETS. -/
def Plan.shard (p : Plan) : Nat := fld p.raw 96 32

/-- STRAIN_K. -/
def Plan.strain (p : Plan) : Nat := fld p.raw 8 9

/-- Buckets of the gradient. -/
def Plan.buckets (p : Plan) : Nat := p.ring * p.shard

/-- Virtual address of residual buffer `i`. -/
def Plan.res (p : Plan) (i : Nat) : Nat := if i = 0 then fld p.raw 256 56 else fld p.raw 320 56

/-- The residual buffer that a step reads; it writes the other (R447). -/
def Plan.resIn (p : Plan) : Nat := (p.step + fld p.raw 4 1) % 2

/-! ## Memory of a plan -/

/-- Read through the plan's context with the poison flag of the whole (R459). -/
def planRead (s : State) (ctx va n : Nat) : Except VErr ((List Byte × List Bool) × State) :=
  (pageParts va n).foldl (fun acc p => match acc with
    | .error e => .error e
    | .ok (g, s) =>
      let s := lookUp s .central ctx p.1
      match translate s .central ctx p.1 .read with
      | .error f => .error (.xlat f p.1, s)
      | .ok (_, t) => if !planMayUse t then .error (.xlat .fault p.1, s) else
        match t with
        | .remote _ _ _ => .error (.xlat .fault p.1, s)
        | .phys pa dev => match physRead s pa p.2 (tenantOf s ctx) dev with
          | .error st => .error (.status st, s)
          | .ok (h, s) => .ok ((g.1 ++ h.bytes, g.2 ++ h.poison), s)) (.ok (([], []), s))

/-- Write through the plan's context; `poison k` marks sector `k` of the virtual range. -/
def planWrite (s : State) (ctx va : Nat) (bs : List Byte) (poison : Nat → Bool) : Except VErr State :=
  (pageParts va bs.length).foldl (fun acc p => match acc with
    | .error e => .error e
    | .ok s =>
      let s := lookUp s .central ctx p.1
      match translate s .central ctx p.1 .write with
      | .error f => .error (.xlat f p.1, s)
      | .ok (l, t) => if !planMayUse t then .error (.xlat .fault p.1, s) else
        match t with
        | .remote _ _ _ => .error (.xlat .fault p.1, s)
        | .phys pa dev =>
          match physWrite (noteWrite s ctx p.1 l) pa (sub bs (p.1 - va) p.2)
              (fun k => poison (k - pa / 32 + (p.1 / 32 - va / 32))) (tenantOf s ctx) dev with
          | .error st => .error (.status st, s)
          | .ok s => .ok s) (.ok s)

/-- What a failed access of plan `n` does: a wait for a migration or a record, with the work begun anew after it, the fault of a
poisoned table entry (R41), or else `fail` (R351, R457). -/
def planStops (n : Nat) (e : VErr) (fail : State → Status → State) : State :=
  let ctx := (e.2.plan n).ctx
  match e.1 with
  | .xlat (.migrate page) va => (joinMigration e.2 ctx page (.plan n) (centralInfo ctx va 0 none)).2
  | .xlat (.poison _) _ => walkFault e.2 ctx e.1
  | .xlat .fault va => if faultWaits e.2 ctx va then e.2 else fail e.2 Code.translationFault
  | .status st => fail e.2 st
  | _ => fail e.2 Code.translationFault

/-- A failed access fails the step (R457). -/
def planFails (n : Nat) (e : VErr) : State :=
  planStops n e fun s st => planFail s n (s.plan n).step st true

/-! ## Buckets -/

/-- This device's contribution to bucket `b`, with its poison; the Strainer writes the output residual (R447, R448, R459). -/
def contribution (s : State) (p : Plan) (b : Nat) : Except VErr ((Bucket × Bool) × State) := do
  let f := p.format
  let w := elemBytes f
  let (g, s) ← planRead s p.ctx (fld p.raw 128 56 + 4096 * w * b) (4096 * w)
  let codes := (List.range 4096).map fun i => leNat (sub g.1 (w * i) w)
  if 2 ≤ f then
    let (c, s) ← planRead s p.ctx (fld p.raw 128 56 + 4096 * p.buckets + 128 * b) 128
    .ok ((bucketFull ((codes.zipIdx).map fun e => (BitVec.ofNat 32 e.1, (c.1.getD (e.2 / 32) 0).toNat)),
      g.2.any id || c.2.any id), s)
  else if p.strain = 0 then
    .ok ((bucketFull (codes.map fun x => (BitVec.ofNat 32 x, 0)), g.2.any id), s)
  else
    let (r, s) ← planRead s p.ctx (p.res p.resIn + 16384 * b) 16384
    let bad := g.2.any id || r.2.any id
    let out := strainBucket f p.strain codes ((List.range 4096).map fun i => leNat (sub r.1 (4 * i) 4))
    let s ← planWrite s p.ctx (p.res (1 - p.resIn) + 16384 * b) (out.2.flatMap fun x => leBytes 4 x) (fun _ => bad)
    .ok ((out.1, bad), s)

/-- Send a bucket to NEXT_PEER in the form that R452 chooses. -/
def sendBucket (s : State) (n b : Nat) (x : Bucket) (bad : Bool) : State :=
  let p := s.plan n
  let f := p.format
  let e := s.peer p.next
  let frame (form addr : Nat) (bs : List Byte) : OutFrame :=
    { OutFrame.plain 0x10 p.next (tenantOf s p.ctx) f (BitVec.ofNat 32 p.step) with
        opx := BitVec.ofNat 8 (n + 64 * form), addr := addr + (b2n bad <<< 43), length := bs.length, payload := bs }
  let es := olist x
  if p.strain ≠ 0 ∧ !bad ∧ es.length * (2 + elemBytes f) < 4096 * elemBytes f then
    let parts := chunks (4096 / (2 + elemBytes f)) es
    let s := (parts.zipIdx).foldl (fun s q =>
      peerSend s p.next (e.portFor b) (frame (if q.2 + 1 = parts.length then 2 else 1) (4096 * b) (sparsePayload f q.1))) s
    { s with plans := { s.plans with entries := satAdd 64 s.plans.entries es.length } }
  else
    let parts := chunks (denseCount f) ((List.range 4096).map fun i => bucketAt x i)
    (parts.zipIdx).foldl (fun s q =>
      peerSend s p.next (e.portFor b) (frame 0 (4096 * b + denseCount f * q.2) (densePayload f q.1))) s

/-- Write a bucket of this device's shard to OUT (R444, R449, R459). -/
def writeOut (s : State) (p : Plan) (b : Nat) (x : Bucket) (bad : Bool) : Except VErr State := do
  let f := p.format
  let k := b - p.ringPos * p.shard
  let xs := (List.range 4096).map fun i => bucketAt x i
  let out := fld p.raw 192 56
  let s ← planWrite s p.ctx (out + 4096 * elemBytes f * k) (xs.flatMap fun e => leBytes (elemBytes f) e.1.toNat) (fun _ => bad)
  if f < 2 then .ok s else
  planWrite s p.ctx (out + 4096 * p.shard + 128 * k) ((List.range 128).map fun i => BitVec.ofNat 8 (xs.getD (32 * i) (0, 0)).2)
    (fun _ => bad)

/-- Do what this position does with bucket `b`: start its chain, forward it, or finish it (R444). -/
def doBucket (s : State) (n b : Nat) (inc : Option Staged) : Except VErr State := do
  let p := s.plan n
  let (own, s) ← contribution s p b
  let x := match inc with
    | some st => mergeBucket p.format st.entries own.1
    | none => own.1
  let bad := own.2 || inc.any (·.poisoned)
  let s ← if b / p.shard = p.ringPos then writeOut s p b x bad else .ok (sendBucket s n b x bad)
  .ok ((s.modPlan n fun p => { p with written := b :: p.written }))

/-- Whether step work goes on: the plan runs this step. -/
def planRuns (s : State) (n step : Nat) : Bool := (s.plan n).running && (s.plan n).step == step

/-- The chains that this position starts: its predecessor's shard (R444). -/
def startChains (s : State) (n : Nat) : State :=
  let p := s.plan n
  let j := (p.ringPos + p.ring - 1) % p.ring
  ((List.range p.shard).foldl (fun (r : State × Bool) i =>
    let b := j * p.shard + i
    if !r.2 || !planRuns r.1 n p.step || (r.1.plan n).written.contains b then r else
    match doBucket r.1 n b none with
    | .ok s => (s, true)
    | .error e => (planFails n e, false)) (s, true)).1

/-- Take the assembled buckets of the running step out of the pool and add to them (R444, R453, R457). -/
def takeStaged (s : State) (n : Nat) : State :=
  let p := s.plan n
  ((s.plans.staged.filter fun x => x.plan == n && x.step == p.step && (x.whole || x.bad)).foldl (fun (r : State × Bool) x =>
    if !r.2 || !planRuns r.1 n p.step then r else
    if x.bad then (planFail r.1 n p.step Code.planMismatch true, false) else
    match doBucket r.1 n x.bucket (some x) with
    | .ok s => ({ s with plans := { s.plans with staged := s.plans.staged.erase x } }, true)
    | .error e => (planFails n e, false)) (s, true)).1

/-! ## Re-shard (R454, R455) -/

/-- A move record. -/
abbrev Move := BitVec 256

/-- Whether a record keeps its reserved bits clear and its fields aligned (R455). -/
def moveOk (m : Move) : Bool :=
  fld m 56 8 == 0 && fld m 120 8 == 0 && fld m 144 16 == 0 && fld m 0 56 % 32 == 0 && fld m 64 56 % 32 == 0 &&
  fld m 160 32 % 32 == 0 && decide (32 ≤ fld m 160 32)

/-- Send a run of bytes to a device peer as RESHARD_WRITE frames, one for each line (R427, R455). -/
def sendReshard (s : State) (n peer addr : Nat) (bs : List Byte) (poison : List Bool) : State :=
  let p := s.plan n
  (lineParts addr bs.length).foldl (fun s q =>
    let e := s.peer peer
    let a := 128 * q.1 + q.2.1
    let f : OutFrame := { OutFrame.plain 0x18 peer (tenantOf s p.ctx) (fld e.entry 24 10) (BitVec.ofNat 32 p.step) with
      opx := BitVec.ofNat 8 n, addr := a, length := q.2.2, payload := sub bs (a - addr) q.2.2,
      poison := (List.range (q.2.2 / 32)).map fun i => poison.getD ((a - addr) / 32 + i) false }
    (peerSend s peer (e.portFor q.1) f).modPlan n fun p => { p with tags := (peer + 4096 * a) :: p.tags }) s

/-- Write one part of a row that lies in one page of the destination. -/
def moveRowPart (s : State) (n va : Nat) (bs : List Byte) (poison : List Bool) : Except VErr State :=
  let p := s.plan n
  let s := lookUp s .central p.ctx va
  match translate s .central p.ctx va .write with
  | .error f => .error (.xlat f va, s)
  | .ok (_, .phys _ _) => planWrite s p.ctx va bs fun k => poison.getD k false
  | .ok (_, .remote peer addr _) =>
    let e := s.peer peer
    if e.kind ≠ 1 ∨ e.tenant ≠ tenantOf s p.ctx then .error (.status Code.remoteRefused, s)
    else if e.state = 2 then .error (.status Code.peerLost, s)
    else .ok (sendReshard s n peer addr bs poison)

/-- Perform one row of a record. -/
def moveRow (s : State) (n : Nat) (m : Move) (row : Nat) : Except VErr State := do
  let p := s.plan n
  let src := (fld m 0 56 + row * fld m 192 32) % 2 ^ 56
  let dst := (fld m 64 56 + row * fld m 224 32) % 2 ^ 56
  let (g, s) ← planRead s p.ctx src (fld m 160 32)
  (pageParts dst (fld m 160 32)).foldlM (fun s q =>
    moveRowPart s n q.1 (sub g.1 (q.1 - dst) q.2) (g.2.drop ((q.1 - dst) / 32))) s

/-- Perform one record. -/
def moveRecord (s : State) (n : Nat) (m : Move) : Except VErr State :=
  if !moveOk m then .error (.status Code.formatError, s) else
  (List.range (fld m 128 16 + 1)).foldlM (fun s row => moveRow s n m row) s

/-- Perform every record of the move table in order (R455). -/
def doMoves (s : State) (n : Nat) : Except VErr State := do
  let p := s.plan n
  let k := fld p.raw 512 16 + 1
  let (g, s) ← planRead s p.ctx (fld p.raw 448 56) (32 * k)
  let s ← (List.range k).foldlM (fun s i => moveRecord s n (BitVec.ofNat 256 (leNat (sub g.1 (32 * i) 32)))) s
  .ok (s.modPlan n fun p => { p with moved := true })

/-! ## Steps (R441 to R443) -/

/-- Work of the running step that can be done now. -/
def planWork (s : State) (n : Nat) : State :=
  let p := s.plan n
  if !p.running then s
  else if p.kind = 1 then takeStaged (startChains s n) n
  else if p.moved then s
  else match doMoves s n with
    | .ok s => s
    | .error e => planFails n e

/-- Whether a neighbour of a plan is lost already (R428, R457). -/
def neighbourLost (s : State) (p : Plan) : Bool := (s.peer p.next).state == 2 || (p.kind == 1 && (s.peer p.prev).state == 2)

/-- Begin the step that START requests, when it is ahead of DONE (R441); it fails at once where a neighbour is lost (R457). -/
def beginStep (s : State) (n : Nat) : State :=
  let p := s.plan n
  let d := (p.start + 2 ^ 32 - p.step) % 2 ^ 32
  if p.running ∨ d = 0 ∨ 2 ^ 31 < d then s else
  let s := s.modPlan n fun p =>
    { p with running := true, written := [], received := 0, moved := false, tags := [], lostFrames := false }
  if neighbourLost s p then planFail s n p.step Code.peerLost true else s

/-- The engine cannot reach the control block: the plan fails and nothing is written (R457). -/
def planBlind (n : Nat) (e : VErr) : State :=
  planStops n e fun s _ => if (s.plan n).failed then s else planFail s n (s.plan n).step Code.translationFault false

/-- PLAN_CONTROL_POLL (R441, R443). -/
def execPlanControlPoll (plan : Nat) (s : State) : Out :=
  let p := s.plan plan
  if p.kind = 0 ∨ !bit s.power.clocks 1 then .next s else
  match planRead s p.ctx p.ctrl 8 with
  | .error e => .next (planBlind plan e)
  | .ok (g, s) =>
    let start := leNat (sub g.1 0 4)
    let s := s.modPlan plan fun p => { p with start := start }
    if p.failed then .next (if start = leNat (sub g.1 4 4) ∧ p.report = none then s else planReport s plan)
    else .next (planWork (beginStep s plan) plan)

/-- Whether every REDUCE frame of the running step has been acknowledged; one that a PEER_SET discarded never is (R442). -/
def framesAcked (s : State) (n : Nat) : Bool :=
  let p := s.plan n
  !p.lostFrames && (List.range 8).all fun c => (s.chan p.next c).unacked.all fun f =>
    !(f.typ == 0x10 && fld f.opx 0 6 == n && f.tag == BitVec.ofNat 32 p.step)

/-- The conditions of R442. -/
def stepDone (s : State) (n : Nat) : Bool :=
  let p := s.plan n
  p.running && (if p.kind = 1 then decide (p.buckets ≤ p.written.length) && framesAcked s n
    else p.moved && p.tags.isEmpty && decide (fld p.raw 576 48 ≤ p.received))

/-- PLAN_STEP_COMPLETE: DONE = s + 1 with release (R442). -/
def execPlanStepComplete (plan : Nat) (s : State) : Out :=
  if !stepDone s plan then .next s else
  let p := s.plan plan
  let next := (p.step + 1) % 2 ^ 32
  match planWrite s p.ctx (p.ctrl + 4) (leBytes 4 next) (fun _ => false) with
  | .error e => .next (planBlind plan e)
  | .ok s =>
    let s := s.modPlan plan fun p => { p with running := false, step := next, written := [], received := 0, moved := false }
    .next { s with plans := { s.plans with done := satAdd 64 s.plans.done 1 } }

/-! ## Frames (R450, R453, R456 to R458) -/

/-- Where a frame's step stands for a plan. -/
inductive StepAge where
  | past | now | later
  deriving DecidableEq, Repr

/-- The age of step `t` (R453, R456). -/
def stepAge (p : Plan) (t : Nat) : StepAge :=
  let d := (t + 2 ^ 32 - p.step) % 2 ^ 32
  if d = 0 then (if p.running then .now else .later) else if d < 2 ^ 31 then .later else .past

/-- Count a discarded frame (R460). -/
def countDiscard (s : State) : State := { s with plans := { s.plans with discarded := satAdd 64 s.plans.discarded 1 } }

/-- The elements that a REDUCE frame brings, when its shape is one of R451. -/
def reduceElems (p : PeerFrame) (f form : Nat) : Option (List (Nat × ElemCode)) :=
  let at0 := fld p.addr 0 43
  if form = 0 then
    if p.payload.length = denseBytes f ∧ at0 % denseCount f = 0 then
      some ((denseElems f p.payload).zipIdx.map fun e => (at0 % 4096 + e.2, e.1)) else none
  else if f < 2 ∧ p.payload.length % (2 + elemBytes f) = 0 ∧ at0 % 4096 = 0 then
    let es := sparseElems f p.payload
    if es.all fun e => decide (e.1 < 4096) then some es else none
  else none

/-- Bytes that a port's staging pool holds. -/
def poolUsed (s : State) (port : Nat) : Nat := ((s.plans.staged.filter (·.port == port)).map (·.bytes)).sum

/-- Add a frame to the assembly of its bucket (R453). -/
def stageFrame (s : State) (p : PeerFrame) (n : Nat) (es : Option (List (Nat × ElemCode))) : State :=
  let plan := s.plan n
  let t := p.tag.toNat
  let b := fld p.addr 0 43 / 4096
  let form := fld p.opx 6 2
  let bad := es.isNone || decide (plan.buckets ≤ b) || fld p.context 0 2 != plan.format
  let old := (s.plans.staged.find? fun x => x.plan == n && x.step == t && x.bucket == b).getD
    { plan := n, step := t, bucket := b, port := p.port, bytes := 0, entries := [], poisoned := false, whole := false, bad := false }
  let entries := (es.getD []).foldl (fun m e => oput m e.1 (some e.2)) old.entries
  let last := if form = 0 then fld p.addr 0 43 % 4096 + denseCount plan.format == 4096 else form == 2
  let new : Staged := { old with
    bytes := old.bytes + p.payload.length, entries := entries, poisoned := old.poisoned || bit p.addr 43, whole := last,
    bad := old.bad || bad }
  { s with plans := { s.plans with
      staged := (s.plans.staged.filter fun x => !(x.plan == n && x.step == t && x.bucket == b)) ++ [new] } }

/-- Whether the staging pool of a port has no room for `k` more bytes (R432, R453). -/
def poolFull (s : State) (port k : Nat) : Bool := decide (2 ^ 22 < poolUsed s port + k)

/-- REDUCE (R444, R450, R453, R457). One that a full pool cannot hold is not acknowledged and counted; one for a plan that is not yet
installed is not acknowledged (LOG 146). -/
def execReduce (p : PeerFrame) (s : State) : Out :=
  let n := fld p.opx 0 6
  let form := fld p.opx 6 2
  .next (peerTakes s p false countDiscard (fun s =>
    let plan := s.plan n
    if plan.kind = 0 then none
    else if plan.kind ≠ 1 then some (countDiscard s)
    else if plan.failed then some s
    else if p.src.toNat ≠ plan.prev ∨ p.tenant.toNat ≠ tenantOf s plan.ctx ∨ form = 3 ∨ fld p.context 2 8 ≠ 0 then
      some (countDiscard s)
    else match stepAge plan p.tag.toNat with
      | .past => some (countDiscard s)
      | _ =>
        if poolFull s p.port p.payload.length then none
        else some (planWork (stageFrame s p n (reduceElems p (fld p.context 0 2) form)) n))
    fun s => if (s.plan n).kind = 0 then s else { s with plans := { s.plans with drops := satAdd 64 s.plans.drops 1 } })

/-- RESHARD_WRITE (R454 to R456): one for a step that has not started is not acknowledged. -/
def execReshardWrite (p : PeerFrame) (s : State) : Out :=
  let n := fld p.opx 0 6
  .next (peerTakes s p true (peerRefuse p 6) (fun s =>
    let plan := s.plan n
    if plan.kind = 2 ∧ plan.failed then some s
    else if plan.kind ≠ 2 then none
    else match stepAge plan p.tag.toNat with
      | .later => none
      | .past => some (countDiscard s)
      | .now => match peerWriteAt s p with
        | .error st => some (peerAnswer s p 6 st [] [])
        | .ok s =>
          some (peerAnswer (s.modPlan n fun x => { x with received := x.received + p.payload.length }) p 6 Code.success [] []))
    id)

/-- ABORT (R457, R458). -/
def execAbort (p : PeerFrame) (s : State) : Out :=
  let n := fld p.opx 0 6
  let t := p.tag.toNat
  .next (peerSeq s p false countDiscard fun s =>
    let plan := s.plan n
    if plan.kind = 0 then countDiscard s
    else if plan.failed then (if plan.step = t then s else sendAbort s n t)
    else match stepAge plan t with
      | .past => sendAbort s n t
      | .now => planFail s n t Code.planAborted true
      | .later =>
        if plan.running then sendAbort (planFail s n plan.step Code.planAborted true) n t
        else planFail s n t Code.planAborted true)

end Sys2Proof.Machine
end

