-- ==== Sys2Proof/Machine/Firmware.lean ====
section
/-! DEFINITION. The firmware image, its verification, the presence window, the tamper loop and JTAG
(R519 to R524, R535 to R541, R593). -/

namespace Sys2Proof.Machine

/-! ## The image (R520, R521) -/

/-- MAGIC of an image. -/
def fwMagic : Nat := 0x57464853

/-- BODY_LENGTH of an image. -/
def imgBody (img : List Byte) : Nat := leNat (sub img 12 4)

/-- Whether MAGIC and VERSION are those of R520. -/
def imgMagicOk (img : List Byte) : Bool := leNat (sub img 0 4) == fwMagic && leNat (sub img 4 1) == 1

/-- Whether the header keeps its reserved bits clear and BODY_LENGTH in range. -/
def imgFormatOk (img : List Byte) : Bool :=
  let h : BitVec 2048 := BitVec.ofNat 2048 (leNat (img.take 256))
  let n := imgBody img
  imgMagicOk img && fld h 42 22 == 0 && fld h 584 440 == 0 && fld h 1936 112 == 0 &&
  n % 64 == 0 && decide (64 ≤ n) && decide (n ≤ 33554176) && img.length == 256 + n

/-- verify of R521. -/
def verifyImage (x : Sec) (img : List Byte) : Status :=
  let k := imgKey img
  let pub := sub img 16 57
  if !imgFormatOk img then Code.fwFormat
  else if bit x.keyRevoked k then Code.fwKeyRevoked
  else if (x.keyDigest k).all (· == 0) ∨ shake 32 pub ≠ x.keyDigest k then Code.fwSignature
  else if !edVerify pub (shake 64 (img.take 128 ++ img.drop 256)) (sub img 128 114) then Code.fwSignature
  else Code.success

/-- The image that the boot ROM copies from flash (R519, R523). -/
def flashImage (flash : List Byte) : List Byte := flash.take (256 + imgBody flash)

/-! ## The presence window (R537, R538) -/

/-- Whether the always-on domain runs. -/
def aonUp (s : State) : Bool := s.power.powered && !s.power.porstLow

/-- PRESENCE_WINDOW_OPEN: PRESENCE_N has been low for 2 s; the window is 300 s long, and a second hold restarts it. -/
def execPresenceWindowOpen (s : State) : Out :=
  if aonUp s && !s.sec.sealBroken then
    .next { s with sec := { s.sec with presenceEnd := some (s.power.now + 300000000000) } }
  else .next s

/-- PRESENCE_WINDOW_CLOSE: the window reaches its end. -/
def execPresenceWindowClose (s : State) : Out :=
  match s.sec.presenceEnd with
  | none => .next s
  | some t => if !aonUp s then .next s else
    .next { s with sec := { s.sec with presenceEnd := none }, power := { s.power with now := Nat.max s.power.now t } }

/-! ## The tamper loop (R535) -/

/-- SEAL_PERIOD: the next bit is driven, then its complement; `a` and `b` are the levels sampled on SEAL_B. -/
def execSealPeriod (a b : Bool) (s : State) : Out :=
  if !aonUp s then .next s else
  let next := Config.lfsrNext s.sec.lfsr
  let good := a == bit next 0 && b == !bit next 0
  .next { s with sec := { s.sec with lfsr := next, mismatches := if good then 0 else s.sec.mismatches + 1 } }

/-- SEAL_BROKEN_LATCH: three consecutive mismatches; the presence window closes (R535, R538). -/
def execSealBrokenLatch (s : State) : Out :=
  if aonUp s && decide (3 ≤ s.sec.mismatches) then .next { s with sec := { s.sec with sealBroken := true, presenceEnd := none } }
  else .next s

/-! ## JTAG (R593) -/

/-- JTAG_INSTRUCTION: a locked port takes every instruction but IDCODE as BYPASS; what an unlocked port does with another one
the spec does not say. -/
def execJtagInstruction (ir : JtagOp) (s : State) : Out :=
  let put (op : JtagOp) : Out := .next { s with sec := { s.sec with jtagIr := op } }
  match ir with
  | .bypass => put .bypass
  | .idcode => put .idcode
  | .other code => if s.sec.jtagUnlock = 1 then .refused (.jtagUnspecified code) else put .bypass

/-- What IDCODE reads. -/
def jtagIdcode : Word := 0x2D384A71

end Sys2Proof.Machine
end

