-- ==== Sys2Proof/Machine/Serving.lean ====
section
/-! DEFINITION. Serving work that has overrun its Steep (R397). -/

namespace Sys2Proof.Machine

/-- The admitted positions that the queue has not fetched. -/
def Queue.unfetched (q : Queue) : List Word :=
  if q.isAdmitted q.readPos then (List.range (q.admitPos - q.readPos).toNat).map fun i => q.readPos + BitVec.ofNat 32 i else []

/-- Whether an admitted command of the queue has not completed. -/
def Queue.overran (q : Queue) : Bool :=
  !q.opened.isEmpty || q.wait.isSome || q.cur.any (fun f => q.isAdmitted (BitVec.ofNat 32 f.pos)) || q.isAdmitted q.readPos

/-- Cancel one overrun command: it signals "serving overrun" and is not counted as retired (R397, R398). -/
def cancelOverrun (s : State) (n pos : Nat) (p : BitVec 512) : State :=
  closeCmd (signalCmd s n pos p Code.servingOverrun) n pos

/-- Stop the launch of a dispatched command on all its cores, without a save. -/
def stopOverrun (s : State) (n pos : Nat) : State :=
  match (olist s.desk.launches).find? fun e => e.2.queue == n && e.2.pos == pos with
  | some e => discardLaunch s e.1
  | none => s

/-- Cancel an admitted command that was never fetched: its packet, as admission read it or as it is now, is used for its signal
alone. -/
def cancelUnfetched (s : State) (n : Nat) (pos : Word) : State :=
  let q := s.queue n
  match (q.pre ++ q.copies).find? fun f => f.pos == pos.toNat with
  | some f => signalCmd s n f.pos f.packet Code.servingOverrun
  | none => match virtRead s .desk q.ctx (q.slotVa pos) 64 deskMayUse with
    | .ok (g, s) => signalCmd s n pos.toNat (packetOf g.bytes) Code.servingOverrun
    | .error e => e.2

/-- End everything that was admitted to queue `n` and has not completed. -/
def endAdmitted (s : State) (n : Nat) : State :=
  let q := s.queue n
  let s := q.opened.foldl (fun s c => cancelOverrun (stopOverrun s n c.pos) n c.pos c.packet) s
  let s := dropWakes (removeWatches s fun w => w.kind == .queue n) fun k => k == .queue n
  let s := match q.wait with
    | some w => cancelOverrun s n w.pos w.packet
    | none => s
  let s := (q.cur.filter fun f => q.isAdmitted (BitVec.ofNat 32 f.pos)).foldl (fun s f => cancelOverrun s n f.pos f.packet) s
  let s := q.unfetched.foldl (fun s pos => cancelUnfetched s n pos) s
  let s := s.modQueue n fun q =>
    let q := if q.isAdmitted q.readPos then { q with readPos := q.admitPos } else q
    { q with pre := [], copies := [], overBudget := [], retiredPos := q.oldest }
  if (s.queue n).state = .waiting then setQState s n .active else s

/-- Whether a command admitted to the queue of slot `n` has overrun, whatever the queue's state. -/
def slotOverran (s : State) (n : Nat) : Bool :=
  let k := (s.slot n).queue
  decide (k < 4096) && (s.queue k).cls == .serving && (s.queue k).overran

/-- The overrun rule for slot `n` (R397). -/
def endSlot (s : State) (n : Nat) : State :=
  if !slotOverran s n then s else
  let s := endAdmitted s (s.slot n).queue
  let s := s.modSlot n fun x => { x with dropped := satAdd 64 x.dropped 1 }
  { s with desk := { s.desk with overruns := satAdd 64 s.desk.overruns 1 } }

/-- End the overrun work of the Steep that closes (R393, R397). -/
def endOverruns (s : State) : State := (List.range 192).foldl endSlot s

end Sys2Proof.Machine
end

