-- ==== Sys2Proof/Machine/Reset.lean ====
section
/-! DEFINITION. Cold and warm resets, start-up, recovery mode, power-down, domain resets and the firmware commit's end
(R307 to R309, R362, R370, R510, R525 to R534, R548 to R566, R574 to R577). -/

namespace Sys2Proof.Machine

/-! ## Cold reset and loss of power (R309, R557) -/

/-- The flash after a reset: a commit that was running leaves no valid image (R533). -/
def flashKept (s : State) : List Byte := if s.sec.commit.isSome then [] else s.sec.flash

/-- Everything a cold reset sets to its default; DRAM content is lost. -/
def coldState (s : State) (lastTrip : Word) : State :=
  let n := s.power.epoch + 1
  { State.reset with
      power := Power.cold lastTrip s.power.ethRef n, sec := Sec.cold s.sec.sealBroken s.sec.keyDigests s.sec.keyRevoked (flashKept s),
      dram := Dram.lost n s.dram.factoryRetired, ports := { Ports.reset with sent := s.ports.sent, wire := s.ports.wire }, fresh := s.fresh,
      pending := s.pending }

/-- PORST_N_ASSERT. -/
def execPorstNAssert (s : State) : Out := if s.power.porstLow then .next s else .next (coldState s s.power.lastTrip)

/-- POWER_LOSS: nothing is promised of writes, caches or DRAM; VDD_IO is lost too (R309, R515). -/
def execPowerLoss (s : State) : Out :=
  let t := coldState s 0
  .next { t with power := { t.power with powered := false } }

/-- PORST_N_RELEASE: step 1 ends, and the time base reads 0; `flash` is what the flash holds then (R549, R564, R590). -/
def execPorstNRelease (flash : List Byte) (s : State) : Out :=
  if !s.power.porstLow then .next s else
  .next { s with
    power := { s.power with porstLow := false, powered := true, now := 0, step := 1, stepDone := [], releaseAt := 0 },
    sec := { s.sec with flash := flash } }

/-! ## Warm reset (R558, R559) -/

/-- The clock domains that run in normal running: 0 to 26, and the ports whose reference is present (R548, R550). -/
def runClocks (s : State) : BitVec 64 :=
  let c : BitVec 64 := BitVec.ofNat 64 (2 ^ 27 - 1)
  [0, 1].foldl (fun c n => if bit s.power.ethRef n then portClocks c (refPorts n) true else c) c

/-- A channel after a warm reset: the frames not yet acknowledged are discarded, and their numbers are used again. -/
def Chan.warm (c : Chan) : Chan :=
  { c with txNext := (c.txNext + 2 ^ 32 - c.unacked.length) % 2 ^ 32, unacked := [], owed := 0 }

/-- The ports after a warm reset: every session and connection closed without a message, the peer table kept (R559). -/
def Ports.warm (p : Ports) (now : Nat) : Ports :=
  { p with
      sessions := [], conns := [], closedAt := (olist p.sessions).foldl (fun m e => oput m e.1 (some now)) p.closedAt,
      ports := smap Port.reset (fun _ (x : Port) =>
        { x with paused := [], resolved := [], rxLevel := [], pausing := 0 }) p.ports,
      peers := smap (fun _ => Peer.unused)
        (fun _ (x : Peer) => { x with chans := smap (fun _ => Chan.fresh) (fun _ c => c.warm) x.chans }) p.peers,
      digHolder := .none, staging := [], held := [], ptpSync := none }

/-- The Desk after a warm reset: Steep numbering restarts, queues and waiting transactions are gone, and settings and counters
stay (R490, R559). -/
def Desk.warm (d : Desk) : Desk :=
  { Desk.reset with
      overruns := d.overruns, floorShare := d.floorShare, align := d.align, periodUs := d.periodUs, phaseNs := d.phaseNs,
      promoteSteeps := d.promoteSteeps, nextLaunch := d.nextLaunch, catRefused := d.catRefused,
      slots := smap (fun _ => Slot.reset) (fun _ (x : Slot) => { x with queue := 0xFFFF, usedNow := 0 }) d.slots,
      txnDiscarded := satAdd 64 d.txnDiscarded d.txns.length }

/-- A context after a warm reset (R362, R602). -/
def Ctx.warm (c : Ctx) : Ctx := { c with state := .free, promoted := false, folioState := 0 }

/-- Translation after a warm reset: carrel definitions and where their map counts lie stay (R362, R605). -/
def Xlat.warm (x : Xlat) : Xlat := { Xlat.reset with carrels := x.carrels, moved := x.moved }

/-- Power state at the start of a warm reset: domains 0 and 2 run (R558). -/
def Power.warm (p : Power) : Power :=
  { p with clocks := 5, resets := [], devState := .starting, step := 2, startFail := 0, releaseAt := p.now, warmStart := true,
           warmHeld := false, ccMaint := [] }

/-- Begin a warm reset: the cores' time is charged (R398), the caches are cleaned, the other domains stop and are reset, and start-up runs from step 3 (R307, R558,
R559). -/
def beginWarm (s : State) : State :=
  let s := cleanAll ((keysOf s.cores).foldl chargeCore s)
  { s with
      power := s.power.warm, sec := { s.sec with fwSeg := none, fwImage := [] }, clusters := [], cores := [], ctl := [], accesses := [],
      hub := { SyncHub.reset with quota := s.hub.quota }, xlat := s.xlat.warm,
      ctxs := smap (fun _ => Ctx.fresh) (fun _ (c : Ctx) => c.warm) s.ctxs, desk := s.desk.warm,
      ports := s.ports.warm s.power.now, plans := Plans.reset,
      folio := { Folio.reset with trustMode := s.folio.trustMode, trusted := s.folio.trusted } }

/-- Whether a warm reset on WARMRST_N is ignored (R560, R575, R589). -/
def warmIgnored (s : State) : Bool :=
  let p := s.power
  p.porstLow || !p.powered || p.tripped || p.testMode || decide (p.step < 2) || p.devState == .stopping

/-- WARMRST_N_RISE: a running commit holds the reset (R533, R558, R560). -/
def execWarmrstNRise (s : State) : Out :=
  if warmIgnored s then .next s
  else if s.sec.commit.isSome then .next { s with power := { s.power with warmHeld := true } }
  else .next (beginWarm s)

/-! ## Recovery mode (R524 to R529, R566) -/

/-- Enter recovery mode: the boot ROM brings up H0 alone. -/
def enterRecovery (s : State) (st : Status) : State :=
  let s : State := { s with
    power := { s.power with devState := .recovery, startFail := st, clocks := runClocks s },
    sec := { s.sec with fwImage := [] } }
  (List.range 10).foldl (fun s p => s.modPort p fun x =>
    if p = 0 ∧ x.linkState = 2 then x else { x with linkState := if p = 0 then 1 else 0, runMode := 0 }) s

/-- Repeat start-up from step 3 after a commit in recovery mode (R529): the boot ROM's sessions end without a message. -/
def repeatStartup (s : State) : State :=
  { s with
      power := { s.power with devState := .starting, step := 2, startFail := 0 },
      ports := s.ports.warm s.power.now, sec := { s.sec with fwSeg := none } }

/-! ## Start-up (R564 to R566) -/

/-- The next step: steps 4 and 5 are skipped in a warm reset when both have completed since the cold reset (R558). -/
def nextStep (p : Power) : Nat := if p.step = 3 ∧ p.memReady then 6 else p.step + 1

/-- A step has ended: STARTUP_STEP and its STEP_DONE_US entry (R565). -/
def endStep (s : State) (n : Nat) : State :=
  { s with power := { s.power with
      step := n, stepDone := sput (fun _ => 0) s.power.stepDone n ((s.power.now - s.power.releaseAt) / 1000) } }

/-- Step 2: straps, the tamper check, STOPPED_N released (R536, R586, R589). -/
def endStep2 (s : State) (e : StartEnv) : State :=
  let s := endStep s 2
  { s with
      power := { s.power with straps := e.straps, testMode := fld e.straps 0 2 != 0, stoppedLow := false },
      sec := { s.sec with sealBroken := !e.sealOk } }

/-- Step 5: every codeword is zero (R32). -/
def endStep5 (s : State) : State :=
  let s := endStep s 5
  { s with power := { s.power with memReady := true },
           dram := { s.dram with bytes := [], background := 0, checks := [], out := [] } }

/-- Step 6: the image is copied, verified and started (R521 to R524). -/
def endStep6 (s : State) (readable : Bool) : State :=
  let img := flashImage s.sec.flash
  let st := if readable then verifyImage s.sec img else Code.flashFailed
  if st ≠ Code.success then enterRecovery s st else
  let s := endStep s 6
  { s with sec := { s.sec with fwImage := img } }

/-- Step 7: each port with a reference has ended its first attempt; a link that is up stays up, and one whose partner shares a mode
comes up in it (R404, R558, R564). Bits 3 p to 3 p + 2 of `partners` are the modes of the partner on port p. -/
def endStep7 (s : State) (partners : BitVec 30) : State :=
  (List.range 10).foldl (fun s p => s.modPort p fun x =>
    let run := linkRuns x.linkMode (partners.extractLsb' (3 * p) 3)
    if !bit s.power.clocks (27 + p) then { x with linkState := 0, runMode := 0 }
    else if x.linkState = 2 then x
    else { x with linkState := if run ≠ 0 then 2 else 0, runMode := run }) (endStep s 7)

/-- The leaf of a control-space page at the virtual address equal to its physical address: KIND 1 with READ, WRITE and DEVICE
(R342, R370). -/
def controlLeaf (pa : Nat) : Leaf := { va := pa, size := 0, word := BitVec.ofNat 64 (pa + 0x5B) }

/-- Context 0, its two mappings and queue 0 (R370). After a warm reset the map counts that DRAM still holds are cleared: no leaf maps
a page any more (R349, R362). -/
def createZero (s : State) : State :=
  let s := if s.power.warmStart then (List.range 16).foldl clearCounts s else s
  let s := s.modCtx 0 fun _ => { Ctx.fresh with state := .live }
  let s := (takeRun s 0 8 0 (.node 0 0)).getD s
  let s := [ctlRing, ctlRecord].foldl (fun s pa => (addLeaf s 0 (controlLeaf pa)).getD s) s
  let s := s.modQueue 0 fun _ => { Queue.disabled with cls := .kernel, ctx := 0, log2 := 10, ring := ctlRing, record := ctlRecord }
  setQState s 0 .idle

/-- Step 9: Steep 0 opens (R364, R370); `apply` is what the boundary does with the transactions accepted since step 8. -/
def endStep9 (s : State) (apply : State → State) : State :=
  let s := endStep s 9
  let now := s.power.now
  let s : State := { s with
    power := { s.power with devState := .running },
    desk := { s.desk with steepNumber := 0, steepStart := now } }
  let s := createZero s
  apply { s with power := { s.power with warmStart := false } }

/-- STARTUP_STEP_COMPLETE on the step that runs, with the environment's part in it. -/
def startupStep (s : State) (e : StartEnv) (apply : State → State) : State :=
  match nextStep s.power with
  | 2 => if e.ok then endStep2 s e else s
  | 3 =>
    if !e.ok then enterRecovery s Code.fuseFailed else
    let s := endStep s 3
    { s with power := { s.power with clocks := runClocks s } }
  | 4 => if e.ok then endStep s 4 else enterRecovery s Code.vaultFailed
  | 5 => if e.ok then endStep5 s else enterRecovery s Code.vaultFailed
  | 6 => endStep6 s e.ok
  | 7 => endStep7 s e.partners
  | 8 => endStep s 8
  | 9 => endStep9 s apply
  | _ => s

/-- Whether a start-up step runs. -/
def startupRuns (s : State) : Bool :=
  let p := s.power
  p.devState == .starting && !p.porstLow && p.powered && !p.tripped && !p.testMode && decide (1 ≤ p.step)

/-! ## The end of a firmware commit (R531 to R534) -/

/-- FW_COMMIT_COMPLETE: programming and read-back end; a held warm reset is taken, and in recovery mode start-up repeats. -/
def execFwCommitComplete (programmed : Bool) (s : State) : Out :=
  match s.sec.commit with
  | none => .next s
  | some (session, tag) =>
    if !bit s.power.clocks 1 then .next s else
    let img := s.sec.fwStage
    let ok := programmed && verifyImage s.sec img == Code.success
    let s : State := { s with sec := { s.sec with
      commit := none, flash := if ok then img ++ s.sec.flash.drop img.length else [] } }
    let s := if (s.session session).isSome then sendStatus s session (if ok then Code.success else Code.flashFailed) tag else s
    .next (if s.power.warmHeld then beginWarm s
      else if ok && s.power.devState == .recovery then repeatStartup s
      else s)

/-! ## Orderly power-down (R308, R576, R577) -/

/-- Begin a power-down: DEVICE_STATE 3; serving work still running is stopped as an overrun. -/
def beginPowerDown (s : State) : State :=
  endOverruns { s with power := { s.power with devState := .stopping } }

/-- Whether a write of the device is still on its way, to its DRAM, a host or a peer (R308 step 2): an access, a RESHARD_WRITE without
its answer, a REDUCE frame without its acknowledgement, or a write of a running Folio. -/
def writesPending (s : State) : Bool :=
  (s.accesses.any fun a => a.open && a.writesMem) || (s.plans.plans.any fun e => !e.2.tags.isEmpty) ||
  (s.ports.peers.any fun e => e.2.chans.any fun c => c.2.unacked.any fun f => f.typ == 0x10) ||
  s.folio.run.any fun r => decide (r.cmd.kind ≠ .restore) && !r.sinkSeqs.isEmpty

/-- POWER_DOWN_COMPLETE: the caches are clean; every clock but domain 0's stops; a Folio that still runs has failed. -/
def execPowerDownComplete (s : State) : Out :=
  if s.power.devState != .stopping || s.power.clocks == 1 || writesPending s then .next s else
  let s := cleanAll s
  .next { s with
    power := { s.power with clocks := 1, stoppedLow := true },
    folio := { s.folio with run := none, waiting := [] } }

/-! ## Domain resets (R561 to R563) -/

/-- The cores of cluster domain `d`. -/
def domainCores (d : Nat) : List Nat := (List.range 16).map fun i => 16 * (d - 3) + i

/-- Begin the reset of a cluster: its cores leave placement (R561 step 1). -/
def holdCores (s : State) (d : Nat) (held : Bool) : State :=
  (domainCores d).foldl (fun s c => s.modCore c fun k => { k with held := held }) s

/-- Begin the reset of a port: its buffers and its staging pool are discarded and its clock stops (R562). -/
def stopPort (s : State) (d : Nat) : State :=
  let p := d - 27
  let s := s.modPort p fun x => { x with paused := [], linkState := 0, runMode := 0, rxLevel := [], pausing := 0 }
  { s with
      ports := { s.ports with held := s.ports.held.filter fun x => !(routeOf s x).any (·.port == p) },
      power := { s.power with clocks := setBit s.power.clocks d false },
      plans := { s.plans with staged := s.plans.staged.filter fun x => !(decide (2 ≤ p) && x.port == p - 2) } }

/-- Why DOMAIN_RESET of domain `d` is refused (R563). -/
def domainRefusal (s : State) (d : Nat) : Option Status :=
  firstCase [
    (decide (d < 3) || decide (36 < d), Code.valueOutOfRange),
    (s.power.resets.any (·.dom == d), Code.resourceHeld),
    (decide (d < 27) && s.folio.run.isSome, Code.resourceHeld),
    (decide (27 ≤ d) && (List.range 2).any fun n => (refPorts n).contains (d - 27) && !bit s.power.ethRef n, Code.domainStopped)]

/-- Begin DOMAIN_RESET for a request that is owed a reply. -/
def beginDomainReset (s : State) (d session : Nat) (tag : Word) : State :=
  let s : State := { s with power := { s.power with resets := s.power.resets ++ [⟨d, session, tag, decide (27 ≤ d)⟩] } }
  if d < 27 then holdCores s d true else stopPort s d

/-- The cores of a cluster reset hold nothing any more. -/
def domainIdle (s : State) (d : Nat) : Bool := (domainCores d).all fun c => (s.core c).work.launch.isNone

/-- The cluster restarts empty and its cores rejoin placement (R561 steps 3 to 5). -/
def restartCluster (s : State) (d : Nat) : State :=
  let s := maintCluster s (d - 3) 3
  let s := clearGranules s (s.cluster (d - 3)).granules fun _ => none
  let s := (s.modCluster (d - 3) fun _ => Cluster.empty).modCtl (d - 3) fun _ => CtlCore.empty
  let s := (domainCores d).foldl (fun s c => s.modCore c fun k => { Core.idle with saved := k.saved }) s
  grantCores s

/-- The port's clock restarts and its link trains again (R562). -/
def restartPort (s : State) (d : Nat) : State :=
  let p := d - 27
  let on := (List.range 2).any fun n => (refPorts n).contains p && bit s.power.ethRef n
  let s := s.modPort p fun x => { x with linkState := if on then 1 else 0 }
  { s with power := { s.power with clocks := setBit s.power.clocks d on } }

/-- The CAT_REPLY that a completed DOMAIN_RESET owes: ARG0 names 0x1100.10 and OP 2 (R496, R561). -/
def domainReply (r : DomReset) : OutMsg :=
  OutMsg.plain 0x21 Code.success r.tag (BitVec.ofNat 64 (0x1100 + 0x10 * 2 ^ 16 + 2 * 2 ^ 24))

/-- DOMAIN_RESET_COMPLETE: the reset interval is one step (LOG 70). -/
def execDomainResetComplete (dom : Nat) (s : State) : Out :=
  match s.power.resets.find? fun r => r.dom == dom with
  | none => .next s
  | some r =>
    if !bit s.power.clocks 1 || !r.stopped || (decide (dom < 27) && !domainIdle s dom) then .next s else
    let s : State := { s with power := { s.power with resets := s.power.resets.filter (·.dom != dom) } }
    let s := if dom < 27 then restartCluster s dom else restartPort s dom
    .next (smtSend s r.session (domainReply r))

end Sys2Proof.Machine
end

