-- ==== Sys2Proof/Machine/CatWrite.lean ====
section
/-! DEFINITION. What a write or an invocation of a Catalogue entry is checked for and does, immediately or in a transaction
(R366 to R368, R392, R404, R425, R429, R432 to R439, R492 to R495, R499, R507 to R511, R539 to R541). -/

namespace Sys2Proof.Machine

/-- When an item is checked: at once, when its transaction is accepted, or when it is applied (R539). -/
inductive CatMode where
  | now | accept | apply
  deriving DecidableEq, Repr

/-! ## Checks of a written value -/

/-- Whether a value has the length that its entry takes (R492). -/
def lengthOk (i : Nat) (e : CatEntry) (v : List Byte) : Bool :=
  match typWidth e.typ with
  | some w => v.length == w
  | none => if i = 0x8000 then v.length == 32 else v.length == 16

/-- The smallest and largest value of an entry with a range (R495). -/
def valueRange (i sub : Nat) : Option (Nat × Nat) :=
  if i = 0x2000 ∨ i = 0x2001 ∨ (0x2100 ≤ i ∧ i ≤ 0x2107) then
    match sub with
    | 1 => some (0, 3)
    | 5 => some (0, 128)
    | 7 | 8 => some (0, 4094)
    | 9 => some (1500, 9000)
    | 0x0B | 0x0C => some (0, 7)
    | 0x0D => some (0, 2)
    | _ => none
  else if i = 0x2110 then some (0, 4095)
  else if i = 0x3010 then
    match sub with
    | 1 => some (0, 1)
    | 2 => some (250, 1000000)
    | 4 => some (0, 16)
    | 5 => some (1, 65535)
    | _ => none
  else if 0x3200 ≤ i ∧ i ≤ 0x32BF ∧ sub = 1 then some (0, 1)
  else if i = 0x6000 then some (1, 16384)
  else if i = 0x7000 ∧ sub = 3 then some (150, 350)
  else if i = 0x7800 then some (0, 168)
  else if i = 0x8000 ∧ sub = 0x0A then some (0, 1)
  else if i = 0xA000 ∧ (sub = 1 ∨ sub = 3) then some (0, 1)
  else none

/-- Whether a value is one that its entry takes (R495, R517, R571). -/
def valueInRange (i sub v : Nat) : Bool :=
  ((valueRange i sub).all fun r => decide (r.1 ≤ v) && decide (v ≤ r.2)) &&
  !(i == 0x7000 && sub == 2 && !(decide (800 ≤ v) && decide (v ≤ 2400) && v % 200 == 0)) &&
  !(i == 0xA000 && sub == 2 && decide (1024 ≤ v) && v != 0xFFFF)

/-- The budget condition of R392. -/
def budgetOk (s : State) : Bool :=
  decide (((List.range 192).map fun n => if (s.slot n).enable then (s.slot n).budget else 0).sum ≤
    (384 - 12 * s.desk.floorShare) * s.desk.periodUs)

/-- Carrel `n` as it would stand after a write of one subentry (R338). -/
def carrelWith (s : State) (n sub v : Nat) : Carrel :=
  let c := s.carrel n
  if sub = 1 then { c with start := v } else if sub = 2 then { c with units := v } else if sub = 3 then { c with tenant := v }
  else { c with tablePages := v }

/-! ## What a write does -/

/-- A written LINK_MODE restarts the link at once (R404). -/
def writeLinkMode (s : State) (p v : Nat) : State := s.modPort p fun x => { x with linkMode := v, linkState := 1, runMode := 0 }

/-- A written PTP_MODE claims or releases the PTP function and the step control (R432); an exchange under way ends. -/
def writePtpMode (s : State) (p v : Nat) : State :=
  let s := s.modPort p fun x => { x with ptpMode := v }
  let mine := s.ports.stepHolder == .ptp && s.ports.stepPort == p
  let s : State := { s with ports := { s.ports with
    ptpPort := if v ≠ 0 then some p else if s.ports.ptpPort = some p then none else s.ports.ptpPort,
    stepHolder := if v = 2 then .ptp else if mine then .none else s.ports.stepHolder,
    stepPort := if v = 2 then p else s.ports.stepPort, ptpSync := none } }
  if v = 0 ∧ s.ports.ptpPort = none then { s with power := { s.power with slew := 0 } } else s

/-- A port entry takes a value. -/
def setPort (s : State) (p sub : Nat) (v : List Byte) : State :=
  let n := leNat v
  match sub with
  | 1 => writeLinkMode s p n
  | 4 => s.modPort p fun x => { x with ip := BitVec.ofNat 128 (n) }
  | 5 => s.modPort p fun x => { x with pfxLen := n }
  | 6 => s.modPort p fun x => { x with gateway := BitVec.ofNat 128 (n) }
  | 7 => s.modPort p fun x => { x with vlan := n }
  | 8 => s.modPort p fun x => { x with mgmtVlan := n }
  | 9 => s.modPort p fun x => { x with mtu := n }
  | 0x0A => s.modPort p fun x => { x with pfcEnable := BitVec.ofNat 8 n }
  | 0x0B => s.modPort p fun x => { x with prioMain := n }
  | 0x0C => s.modPort p fun x => { x with prioSmt := n }
  | 0x0D => writePtpMode s p n
  | _ => s

/-- A written port entry applies to the frames that leave from then on; a frame that waited is tried again (R404 to R408, R433). -/
def writePort (s : State) (p sub : Nat) (v : List Byte) : State := pump (setPort s p sub v)

/-- STEEP_ALIGN claims and releases the step control (R368). -/
def writeAlign (s : State) (v : Nat) : State :=
  { s with
      desk := { s.desk with align := v == 1 },
      ports := { s.ports with stepHolder :=
        if v = 1 then .align else if s.ports.stepHolder = .align then .none else s.ports.stepHolder } }

/-- An entry of index 0x3010 takes a value (R366). -/
def writeSteep (s : State) (sub v : Nat) : State :=
  match sub with
  | 1 => writeAlign s v
  | 2 => { s with desk := { s.desk with periodUs := v } }
  | 3 => { s with desk := { s.desk with phaseNs := v } }
  | 4 => { s with desk := { s.desk with floorShare := v } }
  | _ => { s with desk := { s.desk with promoteSteeps := v } }

/-- A written scrub period: a vault without a pass in progress starts one when the entry held 0 (R57). -/
def writeScrub (s : State) (v : Nat) : State :=
  let idle := s.dram.scrubPeriodH = 0
  let s : State := { s with dram := { s.dram with scrubPeriodH := v } }
  if idle ∧ v ≠ 0 then { s with dram := (List.range 384).foldl Dram.startPass s.dram } else s

/-- A debug entry of index 0xA000 takes a value (R272, R517, R545). -/
def writeDebug (s : State) (sub v : Nat) : State :=
  match sub with
  | 1 => { s with sec := { s.sec with debugEnable := v, everDebug := s.sec.everDebug || v == 1 } }
  | 2 => { s with sec := { s.sec with debugCtx := v } }
  | 3 => { s with sec := { s.sec with jtagUnlock := v, everJtag := s.sec.everJtag || v == 1 } }
  | _ => { s with power := { s.power with ccDisableNext := BitVec.ofNat 24 v } }

/-- The entry of a call number takes a value; its reserved bits are ignored and stay zero (R13). -/
def setEntry (s : State) (i sub : Nat) (v : List Byte) : State :=
  let n := leNat v
  if i < 0x2002 then writePort s (i - 0x2000) sub v
  else if i < 0x2108 then writePort s (i - 0x2100 + 2) sub v
  else if i = 0x2110 then { s with ports := { s.ports with ownPeer := n } }
  else if i = 0x2800 then
    { s with ports := { s.ports with allow := sput (fun _ => (0 : BitVec 256)) s.ports.allow (sub - 1) (BitVec.ofNat 256 (n % 2 ^ 146)) } }
  else if i = 0x3010 then writeSteep s sub n
  else if i < 0x3300 then s.modSlot (i - 0x3200) fun x => if sub = 1 then { x with enable := n == 1 } else { x with budget := n }
  else if i < 0x4010 then applyCarrel s (i - 0x4000) (carrelWith s (i - 0x4000) sub n)
  else if i = 0x6000 then { s with hub := { s.hub with quota := n } }
  else if i = 0x7000 then
    { s with power := if sub = 2 then { s.power with capMHz := n } else { s.power with limitW := n } }
  else if i = 0x7800 then writeScrub s n
  else if i = 0x8000 then
    if sub = 0x0A then { s with folio := { s.folio with trustMode := n } }
    else { s with folio := { s.folio with
      trusted := sput (fun _ => (0 : BitVec 256)) s.folio.trusted (sub - 0x0B) (BitVec.ofNat 256 n) } }
  else writeDebug s sub n

/-- Why PTP_MODE = `v` on host port `p` is refused (R432). -/
def ptpRefusal (s : State) (p v : Nat) : Option Status :=
  let other := s.ports.ptpPort.any (· != p)
  let held := s.ports.stepHolder == .align || (s.ports.stepHolder == .ptp && s.ports.stepPort != p)
  if v ≠ 0 ∧ other ∨ v = 2 ∧ held then some Code.resourceHeld else none

/-- The refusals that belong to an entry of its own (R338, R367, R368, R392, R432). -/
def ruleRefusal (s : State) (i sub : Nat) (v : List Byte) : Option Status :=
  let n := leNat v
  let budget : Option Status := if budgetOk (setEntry s i sub v) then none else some Code.budgetExceeds
  if 0x4000 ≤ i ∧ i ≤ 0x400F then carrelRefusal s (i - 0x4000) (carrelWith s (i - 0x4000) sub n)
  else if i = 0x3010 then
    match sub with
    | 1 => if n = 1 ∧ s.ports.stepHolder = .ptp then some Code.resourceHeld else none
    | 2 | 4 => budget
    | 3 => if 1000 * s.desk.periodUs ≤ n then some Code.valueOutOfRange else none
    | _ => none
  else if 0x3200 ≤ i ∧ i ≤ 0x32BF then budget
  else if (i = 0x2000 ∨ i = 0x2001) ∧ sub = 0x0D then ptpRefusal s (i - 0x2000) n
  else none

/-- Why a write of a value is refused, beside its access class; FW_STAGE is written with WRITE_SEG alone (R530). -/
def writeRefusal (s : State) (i : Nat) (e : CatEntry) (v : List Byte) : Option Status :=
  let n := leNat v
  if i = 0x9000 then some Code.formatError else
  (firstCase [
    (!lengthOk i e v, Code.formatError),
    (!valueInRange i e.sub n, Code.valueOutOfRange)]).or (ruleRefusal s i e.sub v)

/-! ## The peer table (R425, R429, R435) -/

/-- The entry of a PEER_SET argument; STATE is read-only and starts idle. -/
def peerArg (a : List Byte) : Nat × BitVec 512 := (leNat (a.take 2), setFld (BitVec.ofNat 512 (leNat (a.drop 2))) 2 2 0)

/-- Whether a PEER_SET argument has a non-zero reserved bit (R425). -/
def peerReserved (a : List Byte) : Bool :=
  let e := (peerArg a).2
  fld e 4 4 != 0 || fld e 34 14 != 0 || fld e 80 16 != 0 || fld e 384 128 != 0

/-- Why a PEER_SET is refused (R435). -/
def peerSetRefusal (s : State) (a : List Byte) : Option Status :=
  let (n, e) := peerArg a
  let noConn := fld e 0 2 == 2 && !(s.conn (fld e 64 16)).any fun c => !c.error
  firstCase [
    (a.length != 66 || peerReserved a, Code.formatError), (noConn, Code.formatError),
    (n == s.ports.ownPeer, Code.formatError), (decide (4095 < n), Code.valueOutOfRange)]

/-- Whether REDUCE frames of plan `k`'s running step wait for acknowledgement on a channel to peer `n`. -/
def reduceUnacked (s : State) (k n : Nat) : Bool :=
  let p := s.plan k
  p.running && p.kind == 1 && p.next == n && (List.range 8).any fun c => (s.chan n c).unacked.any fun f =>
    f.typ == 0x10 && fld f.opx 0 6 == k && f.tag == BitVec.ofNat 32 p.step

/-- The frames to peer `n` that no acknowledgement can reach any more: the steps that sent them do not complete (R429, R442). -/
def loseFrames (s : State) (n : Nat) : State :=
  let s := ((keysOf s.plans.plans).filter fun k => reduceUnacked s k n).foldl
    (fun s k => s.modPlan k fun p => { p with lostFrames := true }) s
  { s with ports := { s.ports with held := s.ports.held.filter fun x => match x with
    | .peer k _ _ | .keepalive k _ => k != n
    | _ => true } }

/-- PEER_SET: the channels restart at SEQ 0 in state idle; what was outstanding on the old entry completes with "peer lost". -/
def setPeer (s : State) (a : List Byte) : State :=
  let (n, e) := peerArg a
  let s := (failPeerAccesses (loseFrames s n) n).modPeer n fun _ => { entry := e, chans := [] }
  { s with folio := { s.folio with run := s.folio.run.map fun (r : FolioRun) => r.lostPeer n } }

/-! ## Plans (R436 to R439) -/

/-- The plan of a PLAN_SET argument. -/
def planArg (a : List Byte) : Nat × BitVec 1024 := (leNat (a.take 1), BitVec.ofNat 1024 (leNat (a.drop 1)))

/-- Bits that a plan of a KIND uses, as (low bit, length). -/
def planFields (kind : Nat) : List (Nat × Nat) :=
  if kind = 1 then [(0, 5), (8, 9), (20, 12), (32, 24), (64, 12), (80, 10), (96, 32), (128, 56), (192, 56), (256, 56), (320, 56), (384, 56)]
  else [(0, 2), (44, 12), (80, 10), (384, 56), (448, 56), (512, 16), (576, 48)]

/-- Whether every bit that the KIND does not use is zero. -/
def planClear (r : BitVec 1024) : Bool :=
  r.toNat &&& ((planFields (fld r 0 2)).foldl (fun m f => m ||| (2 ^ f.2 - 1) <<< f.1) 0) == r.toNat

/-- Whether a PLAN_SET argument has a non-zero reserved bit (R436, R437). -/
def planReserved (a : List Byte) : Bool := let r := (planArg a).2; (fld r 0 2 == 1 || fld r 0 2 == 2) && !planClear r

/-- Whether the fields of a plan lie in range and its addresses are aligned. -/
def planInRange (p : Plan) : Bool :=
  let r := p.raw
  let k := p.strain
  fld r 384 56 % 32 == 0 &&
  if p.kind = 1 then
    decide (2 ≤ p.ring) && decide (p.ringPos < p.ring) && decide (1 ≤ p.shard) && (k == 0 || (decide (4 ≤ k) && decide (k ≤ 256))) &&
    !(k != 0 && decide (2 ≤ p.format)) && [128, 192, 256, 320].all fun lo => fld r lo 56 % 128 == 0
  else fld r 448 56 % 32 == 0

/-- The peers that a plan names. -/
def Plan.peers (p : Plan) : List Nat := if p.kind = 1 then [p.next, p.prev] else [p.next]

/-- The ports whose staging pool a plan claims as it is installed (R438). -/
def planPools (s : State) (p : Plan) : List Nat :=
  if p.kind = 1 then below 8 fun i => p.peers.any fun n => (s.peer n).mask.testBit i else []

/-- Why a PLAN_SET is refused (R437); a KIND of 0 is no plan. -/
def planSetRefusal (s : State) (a : List Byte) : Option Status :=
  let (n, r) := planArg a
  let p : Plan := { Plan.unused with raw := r }
  firstCase [
    (a.length != 129 || p.kind == 0 || p.kind == 3 || !planClear r || !planInRange p, Code.formatError),
    (p.peers.any fun k => (s.peer k).kind != 1, Code.formatError),
    (decide (63 < n), Code.valueOutOfRange),
    ((s.plan n).kind != 0, Code.planBusy),
    ((s.ctx p.ctx).state != .live, Code.contextLost),
    (p.peers.any fun k => (s.peer k).tenant != tenantOf s p.ctx, Code.remoteRefused),
    ((planPools s p).any fun i => sget (fun _ => Holder.none) s.ports.staging i == .folio, Code.resourceHeld)]

/-- Set the holder of staging pools. -/
def holdPools (s : State) (pools : List Nat) (h : Holder) : State :=
  { s with ports := { s.ports with staging := pools.foldl (fun m i => sput (fun _ => Holder.none) m i h) s.ports.staging } }

/-- PLAN_SET. -/
def setPlan (s : State) (a : List Byte) : State :=
  let (n, r) := planArg a
  let p : Plan := { Plan.unused with raw := r, pools := planPools s { Plan.unused with raw := r } }
  holdPools (s.modPlan n fun _ => p) p.pools .reduction

/-- Why a PLAN_CLEAR is refused. -/
def planClearRefusal (a : List Byte) : Option Status :=
  firstCase [(a.length != 1, Code.formatError), (decide (63 < leNat a), Code.valueOutOfRange)]

/-- PLAN_CLEAR: a running step fails with "plan aborted", and claims that no plan needs any more end (R438, R439, R457). -/
def clearPlan (s : State) (n : Nat) : State :=
  let pools := (s.plan n).pools
  let s := if (s.plan n).running then planFail s n (s.plan n).step Code.planAborted false else s
  let s := s.modPlan n fun _ => Plan.unused
  let s : State := { s with plans := { s.plans with staged := s.plans.staged.filter (·.plan != n) } }
  holdPools s (pools.filter fun i => !(keysOf s.plans.plans).any fun k => (s.plan k).pools.contains i) .none

/-! ## Actions -/

/-- DRAM COUNTERS_CLEAR (R56). -/
def clearDramCounters (s : State) : State :=
  { s with dram := { s.dram with corrected := 0, uncorrectable := 0, poisonReads := 0, layerCorrected := [] } }

/-- Tally COUNTERS_CLEAR (R334). -/
def clearTallyCounters (s : State) : State :=
  { s with hub := { s.hub with blocked := 0, lastBlocked := 0, ignored := 0, outOfRange := 0, watchFull := 0 } }

/-- Why CC_MAINT is refused (R274, R275). Which of the two cases comes first R275 does not say: the format is looked at before
the running action (LOG 101). -/
def ccMaintRefusal (s : State) (a : List Byte) : Option Status :=
  firstCase [
    (a.length != 1 || decide (8 ≤ leNat a) || leNat a % 4 == 0, Code.formatError),
    (s.power.ccMaint.any (·.owner.isNone), Code.resourceHeld)]

/-- CC_MAINT: the walk of every cluster cache and, when asked, every L1 begins (R268, R274). -/
def startCcMaint (s : State) (op : Nat) (l1 : Bool) : State := startWalk s op l1 none

/-- Vendor key slots that are programmed and not revoked (R540). -/
def liveKeys (s : State) : List Nat := below 4 fun k => !(s.sec.keyDigest k).all (· == 0) && !bit s.sec.keyRevoked k

/-- Why KEY_REVOKE is refused (R541). -/
def keyRefusal (s : State) (a : List Byte) : Option Status :=
  let n := leNat a
  if a.length ≠ 1 then some Code.formatError
  else if 3 < n then some Code.valueOutOfRange
  else if bit s.sec.keyRevoked n then none
  else if (s.sec.fwImage ≠ [] ∧ imgKey s.sec.fwImage = n) ∨ (liveKeys s).all (· == n) then some Code.keyInUse
  else none

/-- KEY_REVOKE: the fuse is blown. -/
def revokeKey (s : State) (n : Nat) : State := { s with sec := { s.sec with keyRevoked := setBit s.sec.keyRevoked n true } }

/-- Why FW_COMMIT is refused (R531, R532). -/
def commitRefusal (s : State) (a : List Byte) : Option Status :=
  if a ≠ [] then some Code.formatError
  else if s.sec.commit.isSome then some Code.resourceHeld
  else if verifyImage s.sec s.sec.fwStage = Code.success then none
  else some (verifyImage s.sec s.sec.fwStage)

/-- FW_COMMIT starts (R531). -/
def startCommit (s : State) (session : Nat) (tag : Word) : State := { s with sec := { s.sec with commit := some (session, tag) } }

/-- Why WARM_RESET or POWER_DOWN is refused (R514, R533, R560). -/
def resetRefusal (s : State) (a : List Byte) : Option Status :=
  if a ≠ [] then some Code.formatError
  else if s.power.devState = .stopping then some Code.deviceStopping
  else if s.sec.commit.isSome then some Code.resourceHeld
  else none

/-- Why DOMAIN_RESET is refused (R514, R563). -/
def domainArgRefusal (s : State) (a : List Byte) : Option Status :=
  if a.length ≠ 1 then some Code.formatError else domainRefusal s (leNat a)

/-- Why an invocation is refused, beside its access class; ATTEST is refused in a transaction (R543). -/
def invokeRefusal (s : State) (i sub : Nat) (a : List Byte) : Option Status :=
  let bare : Option Status := if a = [] then none else some Code.formatError
  match i, sub with
  | 0x1100, 0x0E | 0x1100, 0x0F => resetRefusal s a
  | 0x1100, 0x10 => domainArgRefusal s a
  | 0x2110, 2 => peerSetRefusal s a
  | 0x2120, 1 => planSetRefusal s a
  | 0x2120, 2 => planClearRefusal a
  | 0x6000, _ | 0x7800, _ => bare
  | 0x9000, 9 => keyRefusal s a
  | 0x9000, 0x0B => commitRefusal s a
  | 0xA000, _ => ccMaintRefusal s a
  | _, _ => some Code.formatError

/-- What an invocation does, for session and TAG; in a projection (`real` false) resets do not act. The reply that a DOMAIN_RESET
owes belongs to its own request alone, not to a transaction. -/
def invokeDo (s : State) (i sub : Nat) (a : List Byte) (session : Nat) (tag : Word) (real : Bool) : State :=
  match i, sub with
  | 0x1100, 0x0E => if real then beginWarm s else s
  | 0x1100, 0x0F => if real then beginPowerDown s else { s with power := { s.power with devState := .stopping } }
  | 0x1100, 0x10 => if real then beginDomainReset s (leNat a) noSession tag else s
  | 0x2110, 2 => setPeer s a
  | 0x2120, 1 => setPlan s a
  | 0x2120, 2 => clearPlan s (leNat a)
  | 0x6000, _ => clearTallyCounters s
  | 0x7800, _ => clearDramCounters s
  | 0x9000, 9 => revokeKey s (leNat a)
  | 0x9000, 0x0B => startCommit s session tag
  | _, _ => startCcMaint s (leNat a % 4) (bit (BitVec.ofNat 8 (leNat a)) 2)

/-! ## Items -/

/-- Whether an action argument has a non-zero reserved field, which is reported before every other case (R13, R598). -/
def argReserved (i sub : Nat) (a : List Byte) : Bool :=
  match i, sub with
  | 0x2110, 2 => a.length == 66 && peerReserved a
  | 0x2120, 1 => a.length == 129 && planReserved a
  | 0xA000, 0x21 => a.length == 1 && decide (8 ≤ leNat a)
  | _, _ => false

/-- The access class's refusal (R493, R499, R511, R539). -/
def accessRefusal (s : State) (mode : CatMode) (e : CatEntry) (invoke : Bool) : Option Status :=
  let presence := if mode = .apply then !s.sec.sealBroken else presenceOpen s
  firstCase [
    (invoke != e.action, Code.formatError),
    (e.acc == .const || e.acc == .ro, Code.accessDenied),
    (e.acc == .rwp && !presence, Code.presenceRequired)]

/-- Why an item is refused in state `s`; none: it may be performed (R503, R508). -/
def itemRefusal (s : State) (mode : CatMode) (t : TxnItem) : Option Status :=
  match catEntry s t.index t.sub with
  | none => some Code.noSuchEntry
  | some e =>
    if t.invoke && argReserved t.index t.sub t.value then some Code.formatError else
    if catStopped s t.index then some Code.domainStopped else
    (accessRefusal s mode e t.invoke).or
      (if t.invoke then invokeRefusal s t.index t.sub t.value else writeRefusal s t.index e t.value)

/-- Perform an item. -/
def itemDo (s : State) (t : TxnItem) (session : Nat) (tag : Word) (real : Bool) : State :=
  if t.invoke then invokeDo s t.index t.sub t.value session tag real else setEntry s t.index t.sub t.value

/-- Check and perform items in order: the state after them, or the first refused one's number and status (R508, R509). -/
def itemsDo (s : State) (mode : CatMode) (session : Nat) (tag : Word) (real : Bool) : Nat → List TxnItem → Except (Nat × Status) State
  | _, [] => .ok s
  | k, t :: ts => match itemRefusal s mode t with
    | some st => .error (k, st)
    | none => itemsDo (itemDo s t session tag real) mode session tag real (k + 1) ts

/-- The checks of a CARREL_SET's four items, which stand as one write of the carrel (R338). -/
def carrelTxn (s : State) (t : Txn) : Except (Nat × Status) State :=
  match t.items with
  | a :: b :: c :: d :: _ =>
    let k := a.index - 0x4000
    let new : Carrel := { start := leNat a.value, units := leNat b.value, tenant := leNat c.value, tablePages := leNat d.value }
    match carrelRefusal s k new with
    | some st => .error (0, st)
    | none => .ok (applyCarrel s k new)
  | _ => .ok s

/-- Check and perform a whole transaction. -/
def txnDo (s : State) (t : Txn) (mode : CatMode) (real : Bool) : Except (Nat × Status) State :=
  if t.queue.isSome then carrelTxn s t else itemsDo s mode noSession t.tag real 0 t.items

/-- The state that will stand after every accepted transaction (R508). -/
def projected (s : State) : State :=
  s.desk.txns.foldl (fun p t => match txnDo p t .apply false with
    | .ok p => p
    | .error _ => p) s

/-- CARREL_SET: one transaction of four items, checked at dispatch against what will stand (R338, R508). -/
def execCarrelSet (n : Nat) (s : State) : Out :=
  dispatch n 0x45 s fun s f =>
    let (k, c) := carrelArgs f.packet
    match carrelRefusal (projected s) k c with
    | some st => completeCmd s n f.pos f.packet st
    | none =>
      let item (sub w v : Nat) : TxnItem := { index := 0x4000 + k, sub := sub, invoke := false, value := leBytes w v }
      let t : Txn := { stamp := s.power.now, session := 0, tag := 0, queue := some (n, f.pos),
                       items := [item 1 1 c.start, item 2 2 c.units, item 3 2 c.tenant, item 4 4 c.tablePages] }
      { s with desk := { s.desk with txns := s.desk.txns ++ [t] } }

/-- Apply or discard one accepted transaction; one met after a reset began is discarded without a word (R509, R510, R559). -/
def applyTxn (s : State) (t : Txn) : State :=
  let discard (s : State) : State := { s with desk := { s.desk with txnDiscarded := satAdd 64 s.desk.txnDiscarded 1 } }
  if s.power.devState = .starting then discard s else
  let r := match t.queue with
    | some _ => carrelTxn s t
    | none => itemsDo s .apply t.session t.tag true 0 t.items
  match r, t.queue with
  | .ok s, some (n, pos) => finishAt s n pos Code.success
  | .ok s, none => s
  | .error e, some (n, pos) => finishAt (discard s) n pos e.2
  | .error e, none => sendStatus (discard s) t.session e.2 t.tag

/-- Apply every transaction stamped before `t`, in stamp order (R509). -/
def applyTxns (s : State) (t : Nat) : State :=
  let due := s.desk.txns.filter fun x => decide (x.stamp < t)
  due.foldl applyTxn { s with desk := { s.desk with txns := s.desk.txns.filter fun x => !decide (x.stamp < t) } }

end Sys2Proof.Machine
end

