-- ==== Sys2Proof/Machine/Catalogue.lean ====
section
/-! DEFINITION. The Catalogue server: requests, replies, segments and transactions (R494 to R511, R525 to R533, R541, R543). -/

namespace Sys2Proof.Machine

/-! ## Requests and replies (R496, R497) -/

/-- OP of a request. -/
def catOp (m : Msg) : Nat := fld m.arg0 24 4

/-- INDEX of a request. -/
def catIdx (m : Msg) : Nat := fld m.arg0 0 16

/-- SUBINDEX of a request. -/
def catSub (m : Msg) : Nat := fld m.arg0 16 8

/-- OFFSET of a request. -/
def catOff (m : Msg) : Nat := fld m.arg0 32 32

/-- The rows of the table that a request can belong to: each meaning serves its own. -/
inductive CatRow where
  | read | write | describe | txn | segment | lastSegment | scrubPeriod | carrel | steepAlign | linkMode | ptpMode
  | dramClear | tallyClear | ccMaint (op : Nat) | peerSet | planSet | planClear | warmReset | powerDown | domainReset
  | keyRevoke | fwCommit | attest
  deriving DecidableEq, Repr

/-- The row of a WRITE. -/
def writeRow (i sub : Nat) : CatRow :=
  if i = 0x7800 ∧ sub = 0x0B then .scrubPeriod
  else if 0x4000 ≤ i ∧ i ≤ 0x400F ∧ 1 ≤ sub ∧ sub ≤ 4 then .carrel
  else if i = 0x3010 ∧ sub = 1 then .steepAlign
  else if (i = 0x2000 ∨ i = 0x2001 ∨ (0x2100 ≤ i ∧ i ≤ 0x2107)) ∧ sub = 1 then .linkMode
  else if (i = 0x2000 ∨ i = 0x2001) ∧ sub = 0x0D then .ptpMode
  else .write

/-- The row of an INVOKE; one that names no action is refused as a write is. -/
def invokeRow (i sub : Nat) (a : List Byte) : CatRow :=
  match i, sub with
  | 0x1100, 0x0E => .warmReset
  | 0x1100, 0x0F => .powerDown
  | 0x1100, 0x10 => .domainReset
  | 0x2110, 2 => .peerSet
  | 0x2120, 1 => .planSet
  | 0x2120, 2 => .planClear
  | 0x6000, 0x0D => .tallyClear
  | 0x7800, 0x0D => .dramClear
  | 0x9000, 9 => .keyRevoke
  | 0x9000, 0x0B => .fwCommit
  | 0x9000, 0x0D => .attest
  | 0xA000, 0x21 => .ccMaint (Nat.max 1 (leNat a % 4))
  | _, _ => .write

/-- The row of a request; an undefined OP is refused as a read is. -/
def catRowOf (m : Msg) : CatRow :=
  match catOp m with
  | 1 => writeRow (catIdx m) (catSub m)
  | 2 => invokeRow (catIdx m) (catSub m) m.payload
  | 3 => .describe
  | 4 => .txn
  | 5 => if catIdx m = 0x9000 ∧ catSub m = 0x0A ∧ !m.more then .lastSegment else .segment
  | _ => .read

/-- Send a CAT_REPLY, which echoes INDEX, SUBINDEX, OP and TAG (R496). -/
def catReply (s : State) (m : Msg) (st : Status) (off : Nat) (more : Bool) (bytes : List Byte) : State :=
  smtSend s m.session.toNat
    { OutMsg.plain 0x21 st m.tag (BitVec.ofNat 64 (fld m.arg0 0 28 + off * 2 ^ 32)) with more := more, payload := bytes }

/-- A reply without payload; READ and WRITE_SEG carry their OFFSET. -/
def catDone (s : State) (m : Msg) : State :=
  catReply s m Code.success (if catOp m = 0 ∨ catOp m = 5 then catOff m else 0) false []

/-- Refuse a request: it has no effect but its count and its reply (R499, R514). -/
def catRefuse (s : State) (m : Msg) (st : Status) : State :=
  catReply { s with desk := { s.desk with catRefused := satAdd 64 s.desk.catRefused 1 } } m st
    (if catOp m = 0 ∨ catOp m = 5 then catOff m else 0) false []

/-! ## What every request is checked for (R494, R497, R528) -/

/-- Whether a session with OPERATOR = 0 may read an entry of an index (R494). -/
def mayRead (s : State) (tenant i : Nat) : Bool :=
  i == 0x1000 || i == 0x1100 || i == 0x3000 || i == 0x3010 ||
  (decide (0x5000 ≤ i) && decide (i ≤ 0x53FF) && (s.ctx (i - 0x5000)).tenant == tenant) ||
  (decide (0x3200 ≤ i) && decide (i ≤ 0x32BF) && decide ((s.slot (i - 0x3200)).queue < 4096) &&
    tenantOf s (s.queue (s.slot (i - 0x3200)).queue).ctx == tenant)

/-- Whether the reduced server of recovery mode performs a request (R528). -/
def recoveryServes (m : Msg) : Bool :=
  match catRowOf m with
  | .read | .fwCommit | .warmReset | .powerDown | .lastSegment => true
  | .segment => catIdx m == 0x9000 && catSub m == 0x0A
  | _ => false

/-- The refusals that come before an entry's own. -/
def catGate (s : State) (x : Session) (m : Msg) : Option Status :=
  let op := catOp m
  let i := catIdx m
  firstCase [
    (op == 2 && argReserved i (catSub m) m.payload, Code.formatError),
    (decide (6 ≤ op), Code.formatError),
    ((op != 0 && op != 5 && catOff m != 0) || (op == 4 && (i != 0 || catSub m != 0)) ||
      ((op == 0 || op == 3) && m.payload != []), Code.formatError),
    (!x.operator && !(op == 0 && mayRead s x.tenant i), Code.accessDenied),
    (op != 4 && (catEntry s i (catSub m)).isNone, Code.noSuchEntry),
    (s.power.devState == .recovery && !recoveryServes m, Code.inRecovery)]

/-- A CAT_REQUEST that belongs to `row` reaches the server (R500, R501, R503); `act` runs past the common checks. -/
def catServe (row : CatRow) (m : Msg) (s : State) (act : State → Session → State) : Out :=
  if catRowOf m ≠ row then .next s else
  .next (smtSeq s m true (fld m.arg0 28 4 == 0) fun s x =>
    match catGate s x m with
    | some st => catRefuse s m st
    | none => if catOp m ≠ 4 && catStopped s (catIdx m) then catRefuse s m Code.domainStopped else act s x)

/-! ## READ and DESCRIBE (R493, R498, R504, R506) -/

/-- End the segmented write that a session has in progress. -/
def dropSegments (s : State) : State := { s with sec := { s.sec with fwSeg := none } }

/-- Whether the session has a segmented write of the request's entry in progress. -/
def ownSegments (s : State) (m : Msg) : Bool :=
  catIdx m == 0x9000 && catSub m == 0x0A && s.sec.fwSeg.any fun f => f.1 == m.session.toNat

/-- Read an entry or a segment of it; the free values of an absent image are drawn anew. -/
def readEntry (s : State) (m : Msg) (e : CatEntry) : State :=
  let v := catValue s (catIdx m) e
  let off := catOff m
  let s : State := if catIdx m = 0x1000 ∧ s.sec.fwImage = [] then { s with fresh := s.fresh + 1 } else s
  if off % 8192 ≠ 0 ∨ v.length < off then catRefuse s m Code.segmentOutOfRange
  else catReply s m Code.success off (decide (off + 8192 < v.length)) (sub v off 8192)

/-- CAT_READ. -/
def execCatRead (m : Msg) (s : State) : Out :=
  catServe .read m s fun s _ =>
    match catEntry s (catIdx m) (catSub m) with
    | none => catRefuse s m Code.noSuchEntry
    | some e =>
      if e.acc = .wo then catRefuse s m Code.accessDenied
      else if ownSegments s m then catRefuse (dropSegments s) m Code.segmentOutOfRange
      else readEntry s m e

/-- The 48 bytes of DESCRIBE (R498). -/
def describeBytes (s : State) (i : Nat) (e : CatEntry) : List Byte :=
  let dflt := match typWidth e.typ with
    | some w => if w ≤ 8 then e.dflt else 0
    | none => 0
  leBytes 1 e.typ ++ leBytes 1 e.acc.code ++ [0, 0] ++ leBytes 4 (catValue s i e).length ++ leBytes 8 dflt ++ padTo 32 (asciiBytes e.name)

/-- DESCRIBE. -/
def execDescribe (m : Msg) (s : State) : Out :=
  catServe .describe m s fun s _ =>
    match catEntry s (catIdx m) (catSub m) with
    | none => catRefuse s m Code.noSuchEntry
    | some e => catReply s m Code.success 0 false (describeBytes s (catIdx m) e)

/-! ## WRITE (R493, R502, R509) -/

/-- The single item that a WRITE or INVOKE stands for. -/
def itemOf (m : Msg) : TxnItem := { index := catIdx m, sub := catSub m, invoke := catOp m == 2, value := m.payload }

/-- Accept items for the next boundary, or refuse them with the first failed one's number (R508). -/
def acceptItems (s : State) (m : Msg) (items : List TxnItem) : Except (Nat × Status) State :=
  match itemsDo (projected s) .accept noSession m.tag false 0 items with
  | .error e => .error e
  | .ok _ => .ok { s with desk := { s.desk with txns := s.desk.txns ++
      [{ stamp := s.power.now, session := m.session.toNat, tag := m.tag, queue := none, items := items }] } }

/-- A write to an RWS entry behaves as a transaction of one item (R510). -/
def writeStamped (s : State) (m : Msg) : State :=
  match acceptItems s m [itemOf m] with
  | .error e => catRefuse s m e.2
  | .ok s => catDone s m

/-- An immediate write or invocation, its reply sent when it has been performed (R502). -/
def writeNow (s : State) (m : Msg) : State :=
  match itemRefusal s .now (itemOf m) with
  | some st => catRefuse s m st
  | none => catDone (itemDo s (itemOf m) m.session.toNat m.tag true) m

/-- Whether the request names an RWS entry. -/
def namesRws (s : State) (m : Msg) : Bool := (catEntry s (catIdx m) (catSub m)).any (·.acc == .rws)

/-- A WRITE under the entry's access class; a write of FW_STAGE ends the session's segmented write (R506). -/
def writeAny (s : State) (m : Msg) : State :=
  if ownSegments s m then catRefuse (dropSegments s) m Code.segmentOutOfRange
  else if catOp m = 1 ∧ namesRws s m then writeStamped s m
  else writeNow s m

/-- CAT_WRITE. -/
def execCatWrite (m : Msg) (s : State) : Out := catServe .write m s fun s _ => writeAny s m

/-- SCRUB_PERIOD_H_WRITE (R57). -/
def execScrubPeriodHWrite (m : Msg) (s : State) : Out := catServe .scrubPeriod m s fun s _ => writeNow s m

/-- CARREL_ENTRY_WRITE (R338). -/
def execCarrelEntryWrite (m : Msg) (s : State) : Out := catServe .carrel m s fun s _ => writeStamped s m

/-- STEEP_ALIGN_WRITE (R368). -/
def execSteepAlignWrite (m : Msg) (s : State) : Out := catServe .steepAlign m s fun s _ => writeStamped s m

/-- LINK_MODE_WRITE (R404). -/
def execLinkModeWrite (m : Msg) (s : State) : Out := catServe .linkMode m s fun s _ => writeNow s m

/-- PTP_MODE_WRITE: a STEEP_ALIGN that has been accepted holds the step control already (R368, R432). -/
def execPtpModeWrite (m : Msg) (s : State) : Out :=
  catServe .ptpMode m s fun s _ =>
    match itemRefusal s .now (itemOf m), ptpRefusal (projected s) (catIdx m - 0x2000) (leNat m.payload) with
    | none, some st => catRefuse s m st
    | _, _ => writeNow s m

/-! ## WRITE_SEG (R505, R506, R530, R532) -/

/-- The bytes received before a segment, when it comes next in order from its session. -/
def segmentHead (s : State) (m : Msg) : Except Status (List Byte) :=
  match s.sec.fwSeg with
  | none => if catOff m = 0 then .ok [] else .error Code.segmentOutOfRange
  | some (k, bs) =>
    if k ≠ m.session.toNat then .error Code.entryBusy
    else if catOff m = bs.length then .ok bs else .error Code.segmentOutOfRange

/-- Refuse a segment; one of the owning session ends the write. -/
def refuseSegment (s : State) (m : Msg) (st : Status) : State :=
  catRefuse (if st = Code.entryBusy then s else dropSegments s) m st

/-- WRITE_SEG: a segment that is not the last, or one that names an entry that takes none. -/
def execWriteSeg (m : Msg) (s : State) : Out :=
  catServe .segment m s fun s _ =>
    if !(catIdx m == 0x9000 && catSub m == 0x0A) then catRefuse s m Code.formatError
    else if s.sec.commit.isSome then catRefuse s m Code.entryBusy
    else match segmentHead s m with
    | .error st => refuseSegment s m st
    | .ok bs =>
      if m.payload.length ≠ 8192 then refuseSegment s m Code.segmentOutOfRange
      else if 2 ^ 25 < bs.length + 8192 then refuseSegment s m Code.formatError
      else catDone { s with sec := { s.sec with fwSeg := some (m.session.toNat, bs ++ m.payload) } } m

/-- The checks of a whole staged image (R530). -/
def stageRefusal (s : State) (img : List Byte) : Option Status :=
  firstCase [
    (decide (2 ^ 25 < img.length), Code.formatError),
    (!presenceOpen s, Code.presenceRequired),
    (!imgMagicOk img || img.length != 256 + imgBody img, Code.fwFormat)]

/-- FW_STAGE_WRITE: the last segment; the entry takes the whole value or none of it. -/
def execFwStageWrite (m : Msg) (s : State) : Out :=
  catServe .lastSegment m s fun s _ =>
    if s.sec.commit.isSome then catRefuse s m Code.entryBusy
    else match segmentHead s m with
    | .error st => refuseSegment s m st
    | .ok bs =>
      if m.payload = [] then refuseSegment s m Code.segmentOutOfRange else
      let img := bs ++ m.payload
      match stageRefusal s img with
      | some st => refuseSegment s m st
      | none => catDone { s with sec := { s.sec with fwSeg := none, fwStage := img } } m

/-! ## TXN (R507 to R511) -/

/-- The items of a TXN, and whether they are well formed; `fuel` bounds their number. -/
def parseItems : Nat → List Byte → List TxnItem × Bool
  | _, [] => ([], true)
  | 0, _ => ([], false)
  | fuel + 1, bs =>
    let h : BitVec 64 := BitVec.ofNat 64 (leNat (bs.take 8))
    let n := fld h 32 16
    let k := 8 + 8 * cdiv n 8
    let op := fld h 24 8
    if bs.length < k ∨ fld h 48 16 ≠ 0 ∨ (op ≠ 1 ∧ op ≠ 2) ∨ (sub bs (8 + n) (k - 8 - n)).any (· != 0) then ([], false) else
    let r := parseItems fuel (bs.drop k)
    ({ index := fld h 0 16, sub := fld h 16 8, invoke := op == 2, value := sub bs 8 n } :: r.1, r.2)

/-- The Steep that the next boundary opens. -/
def nextSteep (s : State) : Nat := if s.power.devState = .starting then 0 else s.desk.steepNumber + 1

/-- Refuse a TXN: OFFSET names the first failed item. -/
def txnRefuse (s : State) (m : Msg) (e : Nat × Status) : State :=
  catReply { s with desk := { s.desk with catRefused := satAdd 64 s.desk.catRefused 1 } } m e.2 e.1 false []

/-- TXN. -/
def execTxn (m : Msg) (s : State) : Out :=
  catServe .txn m s fun s _ =>
    let p := parseItems 64 m.payload
    match acceptItems s m p.1 with
    | .error e => txnRefuse s m e
    | .ok t =>
      if !p.2 || p.1 == [] then txnRefuse s m (p.1.length, Code.formatError)
      else catReply t m Code.success 0 false (leBytes 8 (nextSteep s))

/-! ## Actions -/

/-- DRAM_COUNTERS_CLEAR (R56). -/
def execDramCountersClear (m : Msg) (s : State) : Out := catServe .dramClear m s fun s _ => writeNow s m

/-- TALLY_COUNTERS_CLEAR (R334). -/
def execTallyCountersClear (m : Msg) (s : State) : Out := catServe .tallyClear m s fun s _ => writeNow s m

/-- CC_MAINT_CLEAN (R268, R274); an OP of 0 is refused here. -/
def execCcMaintClean (m : Msg) (s : State) : Out := catServe (.ccMaint 1) m s fun s _ => writeNow s m

/-- CC_MAINT_INVALIDATE (R268, R274). -/
def execCcMaintInvalidate (m : Msg) (s : State) : Out := catServe (.ccMaint 2) m s fun s _ => writeNow s m

/-- CC_MAINT_CLEAN_INVALIDATE (R268, R274). -/
def execCcMaintCleanInvalidate (m : Msg) (s : State) : Out := catServe (.ccMaint 3) m s fun s _ => writeNow s m

/-- CC_MAINT_COMPLETE: the walk of the CC_MAINT in progress ends and the vaults have accepted its writes (R268). -/
def execCcMaintComplete (s : State) : Out :=
  match s.power.ccMaint.find? fun w => w.owner.isNone with
  | some w => if bit s.power.clocks 1 then .next (stepWalk s w ccSets) else .next s
  | none => .next s

/-- PEER_SET (R425, R429, R435). -/
def execPeerSet (m : Msg) (s : State) : Out := catServe .peerSet m s fun s _ => writeNow s m

/-- PLAN_SET (R437, R438). -/
def execPlanSet (m : Msg) (s : State) : Out := catServe .planSet m s fun s _ => writeNow s m

/-- PLAN_CLEAR (R439). -/
def execPlanClear (m : Msg) (s : State) : Out := catServe .planClear m s fun s _ => writeNow s m

/-- An action whose reply goes out before it acts (R514, R576). -/
def replyThenDo (s : State) (m : Msg) : State :=
  match itemRefusal s .now (itemOf m) with
  | some st => catRefuse s m st
  | none => itemDo (catDone s m) (itemOf m) m.session.toNat m.tag true

/-- WARM_RESET (R514, R558). -/
def execWarmReset (m : Msg) (s : State) : Out := catServe .warmReset m s fun s _ => replyThenDo s m

/-- POWER_DOWN (R576). -/
def execPowerDown (m : Msg) (s : State) : Out := catServe .powerDown m s fun s _ => replyThenDo s m

/-- DOMAIN_RESET: the reply comes when the domain runs again (R561, R562). -/
def execDomainReset (m : Msg) (s : State) : Out :=
  catServe .domainReset m s fun s _ =>
    match itemRefusal s .now (itemOf m) with
    | some st => catRefuse s m st
    | none => beginDomainReset s (leNat m.payload) m.session.toNat m.tag

/-- KEY_REVOKE (R541). -/
def execKeyRevoke (m : Msg) (s : State) : Out := catServe .keyRevoke m s fun s _ => writeNow s m

/-- FW_COMMIT (R531): the reply goes out when the commit has started. -/
def execFwCommit (m : Msg) (s : State) : Out := catServe .fwCommit m s fun s _ => replyThenDo s m

/-- ATTEST (R543, R545). -/
def execAttest (m : Msg) (s : State) : Out :=
  catServe .attest m s fun s _ =>
    match attestRefusal s m.payload with
    | some st => catRefuse s m st
    | none => catReply s m Code.success 0 false (report s m.payload)

/-! ## Start-up -/

/-- STARTUP_STEP_COMPLETE (R564 to R566); the boundary that opens Steep 0 applies what was accepted before it (R509). -/
def execStartupStepComplete (e : StartEnv) (s : State) : Out :=
  .next (if startupRuns s then startupStep s e fun s => applyTxns s s.power.now else s)

end Sys2Proof.Machine
end

