-- ==== Sys2Proof/Machine/Control.lean ====
section
/-! DEFINITION. Control instructions, opcode row 0x0 (R108 to R114); `exit` stands with the blocks. -/

namespace Sys2Proof.Machine

/-- The form of a B-format instruction: no register fields; bit [63] is reserved. -/
def bForm (f : BFields) (dsts : List Use) (legal uniform : Bool) : Form :=
  { guard := f.guard, dsts := dsts, srcs := [], legal := legal && !f.rsv, uniform := uniform }

/-- pc + 8 x a signed offset in instructions (R108). -/
def pcPlus (pc : DWord) (off : BitVec 25) : DWord := pc + 8 * off.signExtend 64

/-- `nop` (R110). -/
def execNop (r : GroupRef) (f : RFields) (s : State) : Out :=
  let i := rForm f .unused .unused .unused .unused (f.mod == 0) false false
  issue s r i fun e => .ok (advance e i e.s)

/-- The form of `bra`: without a guard RECONV must be 0 (R108). -/
def braForm (f : BFields) : Form := bForm f [] (f.guard.en || f.reconv == 0) false

/-- A divergent branch: push the waiting path, run the path whose start address is lower (R77, R82). -/
def diverge (e : Env) (i : Form) (taken other : Word) (target reconv : DWord) : Except Trap State :=
  let fall := e.g.pc + 8
  let first := decide (target.toNat ≤ fall.toNat)
  let entry : StackEntry :=
    { rpc := reconv, pendingPc := if first then fall else target, pendingMask := if first then other else taken,
      savedMask := e.g.active }
  match pushStack e.s e.c e.k e.g e.l entry with
  | none => .error (Trap.plain Code.stackOverflow)
  | some s =>
    .ok (goTo e i (s.modGroup e.c e.k fun g => { g with active := if first then taken else other })
      (if first then target else fall))

/-- `bra` (R108, R76 to R78). -/
def execBra (r : GroupRef) (f : BFields) (s : State) : Out :=
  let i := braForm f
  issue s r i fun e =>
    let taken := e.g.acting f.guard
    let target := pcPlus e.g.pc f.target
    if taken = e.g.active then .ok (goTo e i e.s target)
    else if taken = 0 then .ok (advance e i e.s)
    else diverge e i taken (e.g.active &&& ~~~taken) target (pcPlus e.g.pc f.reconv)

/-- `call` (R109). -/
def execCall (r : GroupRef) (f : BFields) (s : State) : Out :=
  let i := bForm f [⟨0x13E, 2⟩] (f.reconv == 0 && !f.guard.en) true
  issue s r i fun e =>
    .ok (goTo e i (e.s.setGroup e.c e.k (some (e.g.setRun 0 ⟨0x13E, 2⟩ (e.g.pc + 8).toNat))) (pcPlus e.g.pc f.target))

/-- `jmp.r` (R109): the address comes from an s pair. -/
def execJmpR (r : GroupRef) (f : RFields) (s : State) : Out :=
  let i := rForm f .unused (.reg 2) .unused .unused (f.mod == 0) true true
  issue s r i fun e => .ok (goTo e i e.s (BitVec.ofNat 64 (e.g.run 0 ⟨f.srcA, 2⟩)))

/-- Whether debug is enabled for a context (R517). -/
def debugOn (s : State) (ctx : Nat) : Bool :=
  s.sec.debugEnable == 1 && (s.sec.debugCtx == 0xFFFF || s.sec.debugCtx == ctx)

/-- An exception in a context clears the reservations of its threads (R124). -/
def clearReservations (s : State) (ctx : Nat) : State :=
  pruneGranules ((keysOf s.cores).foldl (fun s c =>
    if ((s.core c).work.launch.bind s.launch).any fun l => l.ctx == ctx then
      s.modWork c fun w => { w with groups := smap (fun _ => none) (fun _ (o : Option Group) => o.map fun (g : Group) => { g with res := [] }) w.groups }
    else s) s)

/-- `brk` (R110, R517): the group stops at the instruction for the debugger, or the illegal-instruction fault is raised. -/
def execBrk (r : GroupRef) (f : RFields) (s : State) : Out :=
  let i := rForm f .unused .unused .unused .unused (f.mod == 0) false false
  issue s r i fun e =>
    if e.acts i = [] then .ok (advance e i e.s)
    else if debugOn s e.l.ctx then
      let s := reuseForget (accountIssue e.s e.c e.quad e.slot i.srcs i.dsts) e.c e.quad e.slot
      let s := clearReservations (s.modGroup e.c e.k fun g => { g with wait := .debugger }) e.l.ctx
      .ok { s with sec := { s.sec with debugEvents := satAdd 64 s.sec.debugEvents 1 } }
    else .error (Trap.plain Code.illegalInstruction)

/-- Registers that a special value needs (R111). -/
def svRegs (sel : Nat) : Nat := if sel = 9 ∨ sel = 10 then 2 else 1

/-- Grid width and height of a launch. -/
def Launch.gridX (l : Launch) : Nat := fld l.desc 64 16 + 1

/-- Grid height. -/
def Launch.gridY (l : Launch) : Nat := fld l.desc 80 16 + 1

/-- Special value `sel` in a lane (R111). -/
def special (e : Env) (sel lane : Nat) : Nat :=
  let b := ((blockOf e.s e.c e.g).map (·.number)).getD 0
  match sel with
  | 0 => lane
  | 1 => e.g.index
  | 2 => b
  | 3 => b % e.l.gridX
  | 4 => b / e.l.gridX % e.l.gridY
  | 5 => b / (e.l.gridX * e.l.gridY)
  | 6 => e.c
  | 7 => e.quad
  | 8 => e.g.active.toNat
  | 9 => e.s.power.now
  | 10 => e.s.desk.steepNumber
  | _ => 0

/-- The form of `rd.sv`. -/
def rdSvForm (f : RFields) : Form :=
  let sel := f.srcA.toNat
  rForm f (.reg (svRegs sel)) .raw .unused .unused
    (f.mod == 0 && decide (sel ≤ 10) && !(sel == 0 && isS f.dst)) (isS f.dst) false

/-- `rd.sv` (R111). -/
def execRdSv (r : GroupRef) (f : RFields) (s : State) : Out :=
  let i := rdSvForm f
  issue s r i fun e => laneEffect i ⟨f.dst, svRegs f.srcA.toNat⟩ (fun l _ => (special e f.srcA.toNat l, 0)) e

/-- `flg.rd` (R112). -/
def execFlgRd (r : GroupRef) (f : RFields) (s : State) : Out :=
  let i := rForm f (.reg 1) .unused .unused .unused (f.mod == 0) true false
  issue s r i fun e => laneEffect i ⟨f.dst, 1⟩ (fun _ g => (g.flags.toNat, 0)) e

/-- `flg.clr` (R112). -/
def execFlgClr (r : GroupRef) (f : RFields) (s : State) : Out :=
  let i := rForm f .unused (.reg 1) .unused .unused (f.mod == 0) true false
  issue s r i fun e =>
    if e.acts i = [] then .ok (advance e i e.s)
    else .ok (withGroup e i { e.g with flags := e.g.flags &&& ~~~((e.g.reg 0 f.srcA.toNat).setWidth 5) })

/-- The form of `vote`: OPX 0 and 1 write a predicate, OPX 2 a register (R113). -/
def voteForm (f : RFields) : Form :=
  rForm f (if rOpx f = 2 then .reg 1 else .pred) .pred .unused .unused (modStd f [0] false false 3) false false

/-- `vote` (R113). -/
def execVote (r : GroupRef) (f : RFields) (s : State) : Out :=
  let i := voteForm f
  issue s r i fun e =>
    let ls := e.acts i
    let ones := ls.filter fun l => e.g.pred l f.srcA.toNat
    if rOpx f = 2 then
      laneEffect { i with uniform := isS f.dst } ⟨f.dst, 1⟩ (fun _ _ => ((maskOf ones).toNat, 0)) e
    else
      let b := if rOpx f = 0 then decide (ones ≠ []) else decide (ones = ls)
      predEffect i f.dst.toNat (fun _ _ => (b, 0)) e

/-- The source lane of `shfl` for lane `l` (R114); b counts as an unsigned 32-bit value, the model's choice (LOG 139). -/
def shflLane (opx l b : Nat) : Int :=
  match opx with
  | 0 => (b % 32 : Nat)
  | 1 => (l : Int) - b
  | 2 => (l + b : Nat)
  | _ => (l ^^^ (b % 32) : Nat)

/-- `shfl` (R114). -/
def execShfl (r : GroupRef) (f : RFields) (s : State) : Out :=
  let i := rForm f (.reg 1) (.reg 1) (.reg 1) .unused (modStd f [0] false false 4 && isV f.dst) false false
  issue s r i fun e =>
    laneEffect i ⟨f.dst, 1⟩ (fun l g =>
      let m := shflLane (rOpx f) l (g.reg l f.srcB.toNat).toNat
      let from_ := if 0 ≤ m ∧ (e.acts i).contains m.toNat then m.toNat else l
      ((g.reg from_ f.srcA.toNat).toNat, 0)) e

/-- UNDEFINED_OPCODE (R107): the illegal-instruction fault, after the fetch check. -/
def execUndefinedOpcode (r : GroupRef) (_w : BitVec 64) (s : State) : Out :=
  let i : Form := { guard := ⟨false, false, 0⟩, dsts := [], srcs := [], legal := false, uniform := false }
  issue s r i fun e => .ok e.s

end Sys2Proof.Machine
end

