-- ==== Sys2Proof/Machine/Integer.lean ====
section
/-! DEFINITION. Integer, logic, predicate and immediate operations, opcode rows 0x1 to 0x3 (R115). -/

namespace Sys2Proof.Machine

/-- Type codes of R106. -/
def tS32 : Nat := 0xA

/-- U32. -/
def tU32 : Nat := 0xB

/-- S64. -/
def tS64 : Nat := 0xC

/-- U64. -/
def tU64 : Nat := 0xD

/-- Width in bits of an integer type. -/
def tWidth (t : Nat) : Nat := if t = tS64 ∨ t = tU64 then 64 else 32

/-- Registers of an integer type. -/
def tRegs (t : Nat) : Nat := tWidth t / 32

/-- Whether an integer type is signed. -/
def tSigned (t : Nat) : Bool := t == tS32 || t == tS64

/-- An operand of a type as an integer. -/
def tVal (t x : Nat) : Int := if tSigned t then sgn (tWidth t) x else (x : Int)

/-- A result narrowed to a type: wrapped, or clamped when saturating. -/
def tFit (t : Nat) (sat : Bool) (x : Int) : Nat :=
  if sat then (clampI (tSigned t) (tWidth t) x).1 else wrapI (tWidth t) x

/-- Registers that a role reads or writes. -/
def Role.size : Role → Nat
  | .reg n | .wreg n => n
  | _ => 1

/-- The form of an operation of rows 0x1 to 0x5: uniform when DST names an s register (R104). -/
def opForm (f : RFields) (modOk : Bool) (nd : Nat) (a b c : Role) : Form :=
  rForm f (.reg nd) a b c modOk (isS f.dst) false

/-- An operation on up to three register operands: `op` gives the result and the flags it sets. -/
def opEffect (f : RFields) (i : Form) (nd : Nat) (a b c : Role) (op : Nat → Nat → Nat → Nat × BitVec 5) (e : Env) :
    Except Trap State :=
  laneEffect i ⟨f.dst, nd⟩ (fun l g =>
    op (g.run l ⟨f.srcA, a.size⟩) (g.run l ⟨f.srcB, b.size⟩) (g.run l ⟨f.srcC, c.size⟩)) e

/-- Issue an operation without flags. -/
def opInt (r : GroupRef) (f : RFields) (modOk : Bool) (nd : Nat) (a b c : Role) (op : Nat → Nat → Nat → Nat) (s : State) : Out :=
  let i := opForm f modOk nd a b c
  issue s r i fun e => opEffect f i nd a b c (fun x y z => (op x y z, 0)) e

/-- All four integer types. -/
def tAll : List Nat := [tS32, tU32, tS64, tU64]

/-- `add`. -/
def execAdd (r : GroupRef) (f : RFields) (s : State) : Out :=
  let n := tRegs (rTyp f)
  opInt r f (modStd f tAll false true 1) n (.reg n) (.reg n) .unused
    (fun a b _ => tFit (rTyp f) (rSat f) (tVal (rTyp f) a + tVal (rTyp f) b)) s

/-- `sub`. -/
def execSub (r : GroupRef) (f : RFields) (s : State) : Out :=
  let n := tRegs (rTyp f)
  opInt r f (modStd f tAll false true 1) n (.reg n) (.reg n) .unused
    (fun a b _ => tFit (rTyp f) (rSat f) (tVal (rTyp f) a - tVal (rTyp f) b)) s

/-- The exact product of two 32-bit operands. -/
def product (t a b : Nat) : Int :=
  if tSigned t then sgn 32 a * sgn 32 b else (a : Int) * (b : Int)

/-- `mul.lo`. -/
def execMulLo (r : GroupRef) (f : RFields) (s : State) : Out :=
  opInt r f (modStd f [tS32, tU32] false false 1) 1 (.reg 1) (.reg 1) .unused
    (fun a b _ => wrapI 32 (product (rTyp f) a b)) s

/-- `mul.hi`. -/
def execMulHi (r : GroupRef) (f : RFields) (s : State) : Out :=
  opInt r f (modStd f [tS32, tU32] false false 1) 1 (.reg 1) (.reg 1) .unused
    (fun a b _ => wrapI 64 (product (rTyp f) a b) / 2 ^ 32) s

/-- `mad`: A and B are 32-bit; C and DST have the type's width. -/
def execMad (r : GroupRef) (f : RFields) (s : State) : Out :=
  let n := tRegs (rTyp f)
  opInt r f (modStd f tAll false false 1) n (.reg 1) (.reg 1) (.reg n)
    (fun a b c => wrapI (tWidth (rTyp f)) (product (rTyp f) a b + (c : Int))) s

/-- Quotient and remainder of R115. -/
def divRem (t a b : Nat) : Nat × Nat :=
  if b = 0 then (2 ^ 32 - 1, a)
  else if tSigned t then (wrapI 32 ((sgn 32 a).tdiv (sgn 32 b)), wrapI 32 ((sgn 32 a).tmod (sgn 32 b)))
  else (a / b, a % b)

/-- `div`. -/
def execDiv (r : GroupRef) (f : RFields) (s : State) : Out :=
  opInt r f (modStd f [tS32, tU32] false false 1) 1 (.reg 1) (.reg 1) .unused (fun a b _ => (divRem (rTyp f) a b).1) s

/-- `rem`. -/
def execRem (r : GroupRef) (f : RFields) (s : State) : Out :=
  opInt r f (modStd f [tS32, tU32] false false 1) 1 (.reg 1) (.reg 1) .unused (fun a b _ => (divRem (rTyp f) a b).2) s

/-- `min`. -/
def execMin (r : GroupRef) (f : RFields) (s : State) : Out :=
  let n := tRegs (rTyp f)
  opInt r f (modStd f tAll false false 1) n (.reg n) (.reg n) .unused
    (fun a b _ => if tVal (rTyp f) b < tVal (rTyp f) a then b else a) s

/-- `max`. -/
def execMax (r : GroupRef) (f : RFields) (s : State) : Out :=
  let n := tRegs (rTyp f)
  opInt r f (modStd f tAll false false 1) n (.reg n) (.reg n) .unused
    (fun a b _ => if tVal (rTyp f) a < tVal (rTyp f) b then b else a) s

/-- `abs`. -/
def execAbs (r : GroupRef) (f : RFields) (s : State) : Out :=
  let n := tRegs (rTyp f)
  opInt r f (modStd f [tS32, tS64] false true 1) n (.reg n) .unused .unused
    (fun a _ _ => tFit (rTyp f) (rSat f) ((tVal (rTyp f) a).natAbs : Nat)) s

/-- `neg`. -/
def execNeg (r : GroupRef) (f : RFields) (s : State) : Out :=
  let n := tRegs (rTyp f)
  opInt r f (modStd f [tS32, tS64] false true 1) n (.reg n) .unused .unused
    (fun a _ _ => tFit (rTyp f) (rSat f) (-(tVal (rTyp f) a))) s

/-- Number of 1 bits of `x` below bit `w`. -/
def countOnes (w x : Nat) : Nat := (below w fun i => x.testBit i).length

/-- `x` with its `w` bits in reverse order. -/
def reverseBits (w x : Nat) : Nat := (below w fun i => x.testBit i).foldl (fun y i => y + 2 ^ (w - 1 - i)) 0

/-- `popc`: the count is one register. -/
def execPopc (r : GroupRef) (f : RFields) (s : State) : Out :=
  opInt r f (modStd f [tU32, tU64] false false 1) 1 (.reg (tRegs (rTyp f))) .unused .unused
    (fun a _ _ => countOnes (tWidth (rTyp f)) a) s

/-- `clz`: the count is one register. -/
def execClz (r : GroupRef) (f : RFields) (s : State) : Out :=
  opInt r f (modStd f [tU32, tU64] false false 1) 1 (.reg (tRegs (rTyp f))) .unused .unused
    (fun a _ _ => tWidth (rTyp f) - bitLen a) s

/-- `brev`. -/
def execBrev (r : GroupRef) (f : RFields) (s : State) : Out :=
  let n := tRegs (rTyp f)
  opInt r f (modStd f [tU32, tU64] false false 1) n (.reg n) .unused .unused
    (fun a _ _ => reverseBits (tWidth (rTyp f)) a) s

/-- `and`. -/
def execAnd (r : GroupRef) (f : RFields) (s : State) : Out :=
  let n := tRegs (rTyp f)
  opInt r f (modStd f [tU32, tU64] false false 1) n (.reg n) (.reg n) .unused (fun a b _ => a &&& b) s

/-- `or`. -/
def execOr (r : GroupRef) (f : RFields) (s : State) : Out :=
  let n := tRegs (rTyp f)
  opInt r f (modStd f [tU32, tU64] false false 1) n (.reg n) (.reg n) .unused (fun a b _ => a ||| b) s

/-- `xor`. -/
def execXor (r : GroupRef) (f : RFields) (s : State) : Out :=
  let n := tRegs (rTyp f)
  opInt r f (modStd f [tU32, tU64] false false 1) n (.reg n) (.reg n) .unused (fun a b _ => a ^^^ b) s

/-- `not`. -/
def execNot (r : GroupRef) (f : RFields) (s : State) : Out :=
  let n := tRegs (rTyp f)
  opInt r f (modStd f [tU32, tU64] false false 1) n (.reg n) .unused .unused
    (fun a _ _ => 2 ^ tWidth (rTyp f) - 1 - a) s

/-- A shifted left by `k` in `w` bits; an amount at or above the width gives 0. -/
def shlW (w a k : Nat) : Nat := if w ≤ k then 0 else a * 2 ^ k % 2 ^ w

/-- A shifted right logically. -/
def shrW (w a k : Nat) : Nat := if w ≤ k then 0 else a / 2 ^ k

/-- A shifted right arithmetically; an amount at or above the width gives the sign in every bit. -/
def sarW (w a k : Nat) : Nat := wrapI w (sgn w a / (2 ^ Nat.min k (w - 1) : Int))

/-- A rotated left by `k` modulo the width. -/
def rotW (w a k : Nat) : Nat := (a * 2 ^ (k % w) % 2 ^ w) ||| (a / 2 ^ (w - k % w))

/-- `shl`: B is one register for every TYPE. -/
def execShl (r : GroupRef) (f : RFields) (s : State) : Out :=
  let n := tRegs (rTyp f)
  opInt r f (modStd f [tU32, tU64] false false 1) n (.reg n) (.reg 1) .unused
    (fun a b _ => shlW (tWidth (rTyp f)) a (b % 256)) s

/-- `shr`. -/
def execShr (r : GroupRef) (f : RFields) (s : State) : Out :=
  let n := tRegs (rTyp f)
  opInt r f (modStd f [tU32, tU64] false false 1) n (.reg n) (.reg 1) .unused
    (fun a b _ => shrW (tWidth (rTyp f)) a (b % 256)) s

/-- `sar`. -/
def execSar (r : GroupRef) (f : RFields) (s : State) : Out :=
  let n := tRegs (rTyp f)
  opInt r f (modStd f [tS32, tS64] false false 1) n (.reg n) (.reg 1) .unused
    (fun a b _ => sarW (tWidth (rTyp f)) a (b % 256)) s

/-- `rot`. -/
def execRot (r : GroupRef) (f : RFields) (s : State) : Out :=
  let n := tRegs (rTyp f)
  opInt r f (modStd f [tU32, tU64] false false 1) n (.reg n) (.reg 1) .unused
    (fun a b _ => rotW (tWidth (rTyp f)) a (b % 256)) s

/-- The field of `bfe`: position B[7:0], length B[15:8]; bits beyond bit 31 read as 0. -/
def bitField (signed : Bool) (a b : Nat) : Nat :=
  let len := b / 256 % 256
  let x := a / 2 ^ (b % 256) % 2 ^ len
  wrapI 32 (if signed ∧ len ≠ 0 then sgn len x else (x : Int))

/-- `bfe`. -/
def execBfe (r : GroupRef) (f : RFields) (s : State) : Out :=
  opInt r f (modStd f [tU32, tS32] false false 1) 1 (.reg 1) (.reg 1) .unused
    (fun a b _ => bitField (tSigned (rTyp f)) a b) s

/-- C with its field at B[7:0], length B[15:8], replaced by the low bits of A. -/
def insertField (a b c : Nat) : Nat :=
  let pos := b % 256
  let mask := (2 ^ (b / 256 % 256) - 1) * 2 ^ pos % 2 ^ 32
  (c &&& (2 ^ 32 - 1 - mask)) ||| (a * 2 ^ pos &&& mask)

/-- `bfi`. -/
def execBfi (r : GroupRef) (f : RFields) (s : State) : Out :=
  opInt r f (modStd f [tU32] false false 1) 1 (.reg 1) (.reg 1) (.reg 1) (fun a b c => insertField a b c) s

/-- The bitwise function of three inputs with truth-table byte `t`. -/
def bitFunction (t a b c : Nat) : Nat :=
  (below 32 fun n => t.testBit (b2n (a.testBit n) + 2 * b2n (b.testBit n) + 4 * b2n (c.testBit n))).foldl
    (fun y n => y + 2 ^ n) 0

/-- `bfn3`: the function byte is MOD[63:56]. -/
def execBfn3 (r : GroupRef) (f : RFields) (s : State) : Out :=
  opInt r f (rTyp f == tU32) 1 (.reg 1) (.reg 1) (.reg 1) (fun a b c => bitFunction (fld f.mod 4 8) a b c) s

/-- A OPX B as integers (R115). -/
def cmpInt (opx : Nat) (a b : Int) : Bool :=
  match opx with
  | 0 => a == b
  | 1 => a != b
  | 2 => a < b
  | 3 => a ≤ b
  | 4 => b < a
  | _ => b ≤ a

/-- `setp`. -/
def execSetp (r : GroupRef) (f : RFields) (s : State) : Out :=
  let n := tRegs (rTyp f)
  let i := rForm f .pred (.reg n) (.reg n) .unused (modStd f tAll false false 6) false false
  issue s r i fun e => predEffect i f.dst.toNat (fun l g =>
    (cmpInt (rOpx f) (tVal (rTyp f) (g.run l ⟨f.srcA, n⟩)) (tVal (rTyp f) (g.run l ⟨f.srcB, n⟩)), 0)) e

/-- `sel`: predicate SRC_C chooses A or B (R105). -/
def execSel (r : GroupRef) (f : RFields) (s : State) : Out :=
  let i := opForm f (modStd f [tU32] false false 1) 1 (.reg 1) (.reg 1) .pred
  issue s r i fun e => laneEffect i ⟨f.dst, 1⟩ (fun l g =>
    (g.run l ⟨if g.pred l f.srcC.toNat then f.srcA else f.srcB, 1⟩, 0)) e

/-- `mov`. -/
def execMov (r : GroupRef) (f : RFields) (s : State) : Out :=
  opInt r f (modStd f [tU32] false false 1) 1 (.reg 1) .unused .unused (fun a _ _ => a) s

/-- Byte `n` of the result is byte C[4n+2:4n] of the 8-byte value B:A. -/
def permute (a b c : Nat) : Nat :=
  (List.range 4).foldl (fun y n => y + (b * 2 ^ 32 + a) / 256 ^ (c / 16 ^ n % 8) % 256 * 256 ^ n) 0

/-- `prmt`. -/
def execPrmt (r : GroupRef) (f : RFields) (s : State) : Out :=
  opInt r f (modStd f [tU32] false false 1) 1 (.reg 1) (.reg 1) (.reg 1) (fun a b c => permute a b c) s

/-- `plop`: bit 2 pA + pB of OPX. -/
def execPlop (r : GroupRef) (f : RFields) (s : State) : Out :=
  let i := rForm f .pred .pred .pred .unused (modStd f [0] false false 16) false false
  issue s r i fun e => predEffect i f.dst.toNat (fun l g =>
    ((rOpx f).testBit (2 * b2n (g.pred l f.srcA.toNat) + b2n (g.pred l f.srcB.toNat)), 0)) e

/-! ## Immediates, row 0x3 -/

/-- The form of an I-format instruction with one register destination. -/
def iForm (f : IFields) (d a : Role) (legal : Bool) : Form :=
  { guard := f.guard, dsts := d.dst f.dst, srcs := a.src f.srcA f.reuseA,
    legal := legal && d.ok f.dst false && a.ok f.srcA f.reuseA, uniform := d != .raw && isS f.dst }

/-- Issue A op IMM. -/
def opImm (r : GroupRef) (f : IFields) (op : Nat → Nat → Nat) (s : State) : Out :=
  let i := iForm f (.reg 1) (.reg 1) true
  issue s r i fun e => laneEffect i ⟨f.dst, 1⟩ (fun l g => (op (g.run l ⟨f.srcA, 1⟩) f.imm.toNat, 0)) e

/-- `add.i`. -/
def execAddI (r : GroupRef) (f : IFields) (s : State) : Out := opImm r f (fun a b => (a + b) % 2 ^ 32) s

/-- `mul.i`. -/
def execMulI (r : GroupRef) (f : IFields) (s : State) : Out := opImm r f (fun a b => a * b % 2 ^ 32) s

/-- `and.i`. -/
def execAndI (r : GroupRef) (f : IFields) (s : State) : Out := opImm r f (fun a b => a &&& b) s

/-- `or.i`. -/
def execOrI (r : GroupRef) (f : IFields) (s : State) : Out := opImm r f (fun a b => a ||| b) s

/-- `xor.i`. -/
def execXorI (r : GroupRef) (f : IFields) (s : State) : Out := opImm r f (fun a b => a ^^^ b) s

/-- `shl.i`. -/
def execShlI (r : GroupRef) (f : IFields) (s : State) : Out := opImm r f (fun a b => shlW 32 a (b % 256)) s

/-- `shr.i`. -/
def execShrI (r : GroupRef) (f : IFields) (s : State) : Out := opImm r f (fun a b => shrW 32 a (b % 256)) s

/-- `sar.i`. -/
def execSarI (r : GroupRef) (f : IFields) (s : State) : Out := opImm r f (fun a b => sarW 32 a (b % 256)) s

/-- `min.i`. -/
def execMinI (r : GroupRef) (f : IFields) (s : State) : Out :=
  opImm r f (fun a b => if sgn 32 b < sgn 32 a then b else a) s

/-- `max.i`. -/
def execMaxI (r : GroupRef) (f : IFields) (s : State) : Out :=
  opImm r f (fun a b => if sgn 32 a < sgn 32 b then b else a) s

/-- `movi`: SRC_A must be 0. -/
def execMovi (r : GroupRef) (f : IFields) (s : State) : Out :=
  let i := iForm f (.reg 1) .unused true
  issue s r i fun e => laneEffect i ⟨f.dst, 1⟩ (fun _ _ => (f.imm.toNat, 0)) e

/-- `setp.i`: predicate DST[2:0], condition DST[6:3], unsigned when DST[7]; DST[8] is reserved. -/
def execSetpI (r : GroupRef) (f : IFields) (s : State) : Out :=
  let cond := fld f.dst 3 4
  let i := iForm f .raw (.reg 1) (decide (cond < 6) && !bit f.dst 8)
  let val (x : Nat) : Int := if bit f.dst 7 then (x : Int) else sgn 32 x
  issue s r i fun e => predEffect i (fld f.dst 0 3) (fun l g =>
    (cmpInt cond (val (g.run l ⟨f.srcA, 1⟩)) (val f.imm.toNat), 0)) e

end Sys2Proof.Machine
end

