-- ==== Sys2Proof/Machine/FloatOps.lean ====
section
/-! DEFINITION. Floating-point and conversion instructions, opcode rows 0x4 and 0x5 (R116 to R118, R604). -/

namespace Sys2Proof.Machine

/-- The long format of a type code: 0 F32, 1 F16, 2 F64 (R106). -/
def fmtOf (t : Nat) : Fmt := if t = 1 then f16 else if t = 2 then f64 else f32

/-- Registers of a long type. -/
def fRegs (t : Nat) : Nat := if t = 2 then 2 else 1

/-- The types F32, F16 and F64. -/
def tFloat : List Nat := [0, 1, 2]

/-- Apply a binary operation in a type: each half of a register for F16. -/
def fBin (t : Nat) (op : Fmt → Nat → Nat → Nat × Flags) (a b : Nat) : Nat × Flags :=
  if t = 1 then halves2 (op f16) a b else op (fmtOf t) a b

/-- Issue a floating-point operation of two operands. -/
def opFloat2 (r : GroupRef) (f : RFields) (rm : Bool) (op : Nat → Fmt → Nat → Nat → Nat × Flags) (s : State) : Out :=
  let n := fRegs (rTyp f)
  let i := opForm f (modStd f tFloat rm false 1) n (.reg n) (.reg n) .unused
  issue s r i fun e => opEffect f i n (.reg n) (.reg n) .unused (fun a b _ => fBin (rTyp f) (op e.l.subnormal) a b) e

/-- Issue a floating-point operation of one operand without RM. -/
def opFloat1 (r : GroupRef) (f : RFields) (op : Fmt → Nat → Nat × Flags) (s : State) : Out :=
  let n := fRegs (rTyp f)
  let i := opForm f (modStd f tFloat false false 1) n (.reg n) .unused .unused
  issue s r i fun e => opEffect f i n (.reg n) .unused .unused (fun a _ _ => fBin (rTyp f) (fun m x _ => op m x) a 0) e

/-- `fadd`. -/
def execFadd (r : GroupRef) (f : RFields) (s : State) : Out :=
  opFloat2 r f true (fun mode m a b => fAdd m mode (rRm f) a b) s

/-- `fsub`. -/
def execFsub (r : GroupRef) (f : RFields) (s : State) : Out :=
  opFloat2 r f true (fun mode m a b => fSub m mode (rRm f) a b) s

/-- `fmul`. -/
def execFmul (r : GroupRef) (f : RFields) (s : State) : Out :=
  opFloat2 r f true (fun mode m a b => fMul m mode (rRm f) a b) s

/-- `fma`. -/
def execFma (r : GroupRef) (f : RFields) (s : State) : Out :=
  let n := fRegs (rTyp f)
  let i := opForm f (modStd f tFloat true false 1) n (.reg n) (.reg n) (.reg n)
  issue s r i fun e => opEffect f i n (.reg n) (.reg n) (.reg n) (fun a b c =>
    if rTyp f = 1 then halves3 (fun x y z => fFma f16 e.l.subnormal (rRm f) x y z) a b c
    else fFma (fmtOf (rTyp f)) e.l.subnormal (rRm f) a b c) e

/-- `fmin`. -/
def execFmin (r : GroupRef) (f : RFields) (s : State) : Out :=
  opFloat2 r f false (fun mode m a b => fMinMax m mode false a b) s

/-- `fmax`. -/
def execFmax (r : GroupRef) (f : RFields) (s : State) : Out :=
  opFloat2 r f false (fun mode m a b => fMinMax m mode true a b) s

/-- `fabs`: the subnormal mode does not govern it (R168). -/
def execFabs (r : GroupRef) (f : RFields) (s : State) : Out := opFloat1 r f (fun m x => (x % m.signBit, fNone)) s

/-- `fneg`: the subnormal mode does not govern it (R168). -/
def execFneg (r : GroupRef) (f : RFields) (s : State) : Out := opFloat1 r f (fun m x => (negCode m x, fNone)) s

/-- `fsetp`: F16 compares the low halves. -/
def execFsetp (r : GroupRef) (f : RFields) (s : State) : Out :=
  let n := fRegs (rTyp f)
  let i := rForm f .pred (.reg n) (.reg n) .unused (modStd f tFloat false false 8) false false
  let m := fmtOf (rTyp f)
  issue s r i fun e => predEffect i f.dst.toNat (fun l g =>
    fSetp m e.l.subnormal (rOpx f) (g.run l ⟨f.srcA, n⟩ % 2 ^ m.width) (g.run l ⟨f.srcB, n⟩ % 2 ^ m.width)) e

/-- `fclass`: one register; the subnormal mode does not govern it (R168). -/
def execFclass (r : GroupRef) (f : RFields) (s : State) : Out :=
  let n := fRegs (rTyp f)
  let i := opForm f (modStd f [0, 2] false false 1) 1 (.reg n) .unused .unused
  issue s r i fun e => opEffect f i 1 (.reg n) .unused .unused (fun a _ _ => (fClass (fmtOf (rTyp f)) a, fNone)) e

/-- Issue one of the approximate functions: each lane's result within the bound is a free value (R604, LOG 31). -/
def opApprox (r : GroupRef) (f : RFields) (op : Nat → Nat → Nat → Nat × Flags) (s : State) : Out :=
  let i := opForm f (modStd f [0] false false 1) 1 (.reg 1) .unused .unused
  issue s r i fun e =>
    laneEffect i ⟨f.dst, 1⟩ (fun l g => op e.l.subnormal (g.run l ⟨f.srcA, 1⟩) (Config.free (s.fresh + l))) 
      { e with s := { e.s with fresh := s.fresh + 32 } }

/-- `frcp`. -/
def execFrcp (r : GroupRef) (f : RFields) (s : State) : Out := opApprox r f fRcp s

/-- `frsq`. -/
def execFrsq (r : GroupRef) (f : RFields) (s : State) : Out := opApprox r f fRsq s

/-- `fex2`. -/
def execFex2 (r : GroupRef) (f : RFields) (s : State) : Out := opApprox r f fEx2 s

/-- `flg2`. -/
def execFlg2 (r : GroupRef) (f : RFields) (s : State) : Out := opApprox r f fLg2 s

/-! ## Conversions -/

/-- The types that `cvt` converts between. -/
def tCvt : List Nat := [0, 1, 2, tS32, tU32, tS64, tU64]

/-- Registers of a type of `cvt`. -/
def cRegs (t : Nat) : Nat := if t = 2 ∨ t = tS64 ∨ t = tU64 then 2 else 1

/-- `convert(x, from, to, rm)` (R117, R170, R171). -/
def convert (mode rm src dst a : Nat) : Nat × Flags :=
  let x := if src = 1 then a % 65536 else a
  if src < 3 then
    if dst < 3 then cvtFF (fmtOf src) (fmtOf dst) mode rm x
    else cvtFI (fmtOf src) mode rm (tSigned dst) (tWidth dst) x
  else if dst < 3 then cvtIF (fmtOf dst) mode rm (tVal src x)
  else
    let c := clampI (tSigned dst) (tWidth dst) (tVal src x)
    (c.1, if c.2 then fNone else fInvalid)

/-- `cvt`. -/
def execCvt (r : GroupRef) (f : RFields) (s : State) : Out :=
  let nd := cRegs (rTyp f)
  let na := cRegs (rOpx f)
  let i := opForm f (modStd f tCvt true false 16 && tCvt.contains (rOpx f)) nd (.reg na) .unused .unused
  issue s r i fun e => opEffect f i nd (.reg na) .unused .unused
    (fun a _ _ => convert e.l.subnormal (rRm f) (rOpx f) (rTyp f) a) e

/-- The Leaf types. -/
def tLeaf : List Nat := [3, 4, 5, 6]

/-- Replace the container at position `pos` of a register. -/
def putContainer (w pos c code : Nat) : Nat :=
  c - c / 2 ^ (w * pos) % 2 ^ w * 2 ^ (w * pos) + code * 2 ^ (w * pos)

/-- `cvt.pk`. -/
def execCvtPk (r : GroupRef) (f : RFields) (s : State) : Out :=
  let t := rTyp f
  let w := leafWidth t
  let i := opForm f (modStd f tLeaf true false (32 / w)) 1 (.reg 1) (.reg 1) (.reg 1)
  issue s r i fun e => opEffect f i 1 (.reg 1) (.reg 1) (.reg 1) (fun a b c =>
    let q := caddyEncode t e.l.subnormal (rRm f) (b % 256) a
    (putContainer w (rOpx f) c q.1, q.2)) e

/-- `cvt.up`. -/
def execCvtUp (r : GroupRef) (f : RFields) (s : State) : Out :=
  let t := rTyp f
  let w := leafWidth t
  let i := opForm f (modStd f tLeaf true false (32 / w)) 1 (.reg 1) (.reg 1) .unused
  issue s r i fun e => opEffect f i 1 (.reg 1) (.reg 1) .unused (fun a b _ =>
    caddyDecode t e.l.subnormal (rRm f) (b % 256) (a / 2 ^ (w * rOpx f) % 2 ^ w)) e

/-- `cdy.fit`: one Caddy per block of 16 or 32 lanes (R118). -/
def execCdyFit (r : GroupRef) (f : RFields) (s : State) : Out :=
  let i := opForm f (modStd f tLeaf false false 2) 1 (.reg 1) .unused .unused
  issue s r i fun e =>
    let blk (l : Nat) : Nat := if rOpx f = 0 then l / 16 else 0
    laneEffect i ⟨f.dst, 1⟩ (fun l g =>
      (caddyFit (rTyp f) e.l.subnormal (((e.acts i).filter fun m => blk m == blk l).map fun m => g.run m ⟨f.srcA, 1⟩), 0)) e

end Sys2Proof.Machine
end

