-- ==== Sys2Proof/Machine/FolioCore.lean ====
section
/-! DEFINITION. The saved state of a core as the bytes of its CORE items (R95, R201, R229, R471). -/

namespace Sys2Proof.Machine

/-! ## Codecs -/

/-- How a value is written as bytes, and read from the front of bytes with what is left. -/
structure Codec (α : Type) where
  put : α → List Byte
  get : List Byte → α × List Byte

/-- A number of `k` bytes. -/
def Codec.num (k : Nat) : Codec Nat := ⟨leBytes k, fun bs => (leNat (bs.take k), bs.drop k)⟩

/-- A value that stands for another. -/
def Codec.iso {α β : Type} (c : Codec α) (f : α → β) (g : β → α) : Codec β :=
  ⟨fun b => c.put (g b), fun bs => let r := c.get bs; (f r.1, r.2)⟩

/-- Two values. -/
def Codec.and {α β : Type} (a : Codec α) (b : Codec β) : Codec (α × β) :=
  ⟨fun x => a.put x.1 ++ b.put x.2, fun bs => let r := a.get bs; let t := b.get r.2; ((r.1, t.1), t.2)⟩

/-- `n` values. -/
def Codec.getMany {α : Type} (c : Codec α) : Nat → List Byte → List α × List Byte
  | 0, bs => ([], bs)
  | n + 1, bs => let r := c.get bs; let t := c.getMany n r.2; (r.1 :: t.1, t.2)

/-- A list with its length in `k` bytes. -/
def Codec.list {α : Type} (c : Codec α) (k : Nat) : Codec (List α) :=
  ⟨fun xs => leBytes k xs.length ++ xs.flatMap c.put, fun bs => c.getMany (leNat (bs.take k)) (bs.drop k)⟩

/-- A map's values at the keys 0 to `n` - 1. -/
def Codec.dense {α : Type} [DecidableEq α] (c : Codec α) (d : α) (n : Nat) : Codec (SMap α) :=
  ⟨fun m => (List.range n).flatMap fun i => c.put (sget (fun _ => d) m i),
   fun bs => let r := c.getMany n bs; (r.1.zipIdx.foldl (fun m e => sput (fun _ => d) m e.2 e.1) [], r.2)⟩

/-- A truth value. -/
def Codec.flag : Codec Bool := (Codec.num 1).iso (· == 1) b2n

/-- A map's flags at the keys 0 to `n` - 1, eight to a byte. -/
def Codec.flags (n : Nat) : Codec (SMap Bool) :=
  (Codec.num (cdiv n 8)).iso
    (fun v => (List.range n).foldl (fun m i => sput (fun _ => false) m i (v.testBit i)) [])
    fun m => ((List.range n).map fun i => if sget (fun _ => false) m i then 2 ^ i else 0).sum

/-- A word of `n` bits in `k` bytes. -/
def Codec.word (n k : Nat) : Codec (BitVec n) := (Codec.num k).iso (BitVec.ofNat n) BitVec.toNat

/-- A value that may be absent. -/
def Codec.opt {α : Type} (c : Codec α) : Codec (Option α) :=
  (c.list 1).iso List.head? fun x => match x with | some v => [v] | none => []

/-! ## Groups and blocks (R95) -/

/-- An entry of the reconvergence stack; its addresses have 56 bits (R83). -/
def stackCodec : Codec StackEntry :=
  ((Codec.word 64 7).and ((Codec.word 64 7).and ((Codec.word 32 4).and (Codec.word 32 4)))).iso
    (fun x => ⟨x.1, x.2.1, x.2.2.1, x.2.2.2⟩) fun e => (e.rpc, e.pendingPc, e.pendingMask, e.savedMask)

/-- What a stopped group waits for. Every access of a stopped core has completed, so a `fence.done` has nothing left to wait for. -/
def waitCodec : Codec Wait :=
  ((Codec.num 1).and (Codec.num 1)).iso
    (fun x => match x.1 with
      | 1 => .barrier
      | 2 => .channel x.2
      | 3 => .fence 0
      | 4 => .debugger
      | _ => .ready)
    fun w => match w with
      | .barrier => (1, 0)
      | .channel n => (2, n)
      | .fence _ => (3, 0)
      | .debugger => (4, 0)
      | .ready | .tally _ _ => (0, 0)

/-- A group of a launch with `regs` registers per thread. -/
def groupCodec (regs : Nat) : Codec Group :=
  let regMap (n : Nat) : Codec (SMap Word) := (Codec.word 32 4).dense 0 n
  ((Codec.num 5).and ((Codec.num 1).and ((Codec.word 64 7).and ((Codec.word 32 4).and ((Codec.word 32 4).and
    ((regMap (32 * regs)).and ((regMap 64).and (((Codec.word 8 1).dense 0 32).and ((stackCodec.list 1).and ((Codec.num 1).and
    ((Codec.word 5 1).and (waitCodec.and (Codec.num 4))))))))))))).iso
    (fun (block, index, pc, active, exited, v, u, p, stack, spilled, flags, wait, epoch) =>
      { launch := 0, block := block, index := index, pc := pc, active := active, exited := exited, v := v, u := u, p := p,
        stack := stack, spilled := spilled, flags := flags, wait := wait, res := [], epoch := epoch })
    fun g => (g.block, g.index, g.pc, g.active, g.exited, g.v, g.u, g.p, g.stack, g.spilled, g.flags, g.wait, g.epoch)

/-- A resident block. -/
def blockCodec : Codec Block :=
  ((Codec.num 7).and ((Codec.num 1).and ((Codec.num 1).list 1))).iso
    (fun x => ⟨0, x.1, x.2.1, x.2.2⟩) fun b => (b.number, b.region, b.slots)

/-! ## The matrix engine (R201) -/

/-- The fields of an `mx.op` as numbers. -/
def xNumbers (f : XFields) : List Nat :=
  [b2n f.guard.en, b2n f.guard.neg, f.guard.pred.toNat, f.acc.toNat, b2n f.zero, f.fmtA.toNat, f.fmtB.toNat, b2n f.axisA,
   b2n f.axisB, f.aOff.toNat, f.bOff.toNat, f.kM1.toNat, f.expand.toNat, f.caddy.toNat, f.rsv.toNat]

/-- An accepted matrix instruction as numbers, its kind first. -/
def mxNumbers (k : MxKind) : List Nat :=
  match k with
  | .ld bufB src bytes off => [0, b2n bufB, src, bytes, off]
  | .ldx scale src bytes => [1, b2n scale, src, bytes]
  | .op f => 2 :: xNumbers f
  | .st typ acc clear dst stride => [3, typ.toNat, acc, b2n clear, dst, stride]
  | .zero acc => [4, acc]

/-- The instruction that numbers stand for. -/
def mxOfNumbers (xs : List Nat) : MxKind :=
  let n (i : Nat) : Nat := xs.getD i 0
  let w (k i : Nat) : BitVec k := BitVec.ofNat k (n i)
  match n 0 with
  | 0 => .ld (n 1 == 1) (n 2) (n 3) (n 4)
  | 1 => .ldx (n 1 == 1) (n 2) (n 3)
  | 2 => .op { guard := { en := n 1 == 1, neg := n 2 == 1, pred := w 3 3 }, acc := w 3 4, zero := n 5 == 1, fmtA := w 4 6,
               fmtB := w 4 7, axisA := n 8 == 1, axisB := n 9 == 1, aOff := w 11 10, bOff := w 11 11, kM1 := w 9 12,
               expand := w 2 13, caddy := w 2 14, rsv := w 2 15 }
  | 3 => .st (w 4 1) (n 2) (n 3 == 1) (n 4) (n 5)
  | _ => .zero (n 1)

/-- A queued matrix instruction that has not started; every access issued before it has completed. -/
def mxEntryCodec : Codec MxEntry :=
  (((Codec.num 4).list 1).and ((Codec.num 1).and ((Codec.word 64 7).and (Codec.num 3)))).iso
    (fun x => { kind := mxOfNumbers x.1, slot := x.2.1, pc := x.2.2.1, base := x.2.2.2, before := 0, started := false, span := 0 })
    fun e => (mxNumbers e.kind, e.slot, e.pc, e.base)

/-- The engine: its tiles, buffers and images with their poison bits, and its queue. -/
def mxCodec : Codec MxEngine :=
  let bytes (n : Nat) : Codec (SMap Byte) := (Codec.word 8 1).dense 0 n
  (((Codec.word 32 4).dense 0 8192).and ((Codec.word 8 1).and ((bytes 65536).and ((bytes 65536).and ((bytes 4128).and
    ((bytes 512).and ((Codec.flags 2048).and ((Codec.flags 2048).and ((Codec.flags 129).and ((Codec.flags 16).and (mxEntryCodec.list 1))))))))))).iso
    (fun (acc, live, bufA, bufB, tbl, scl, poiA, poiB, poiTbl, poiScl, queue) =>
      { acc := acc, live := live, bufA := bufA, bufB := bufB, tbl := tbl, scl := scl, poiA := poiA, poiB := poiB,
        poiTbl := poiTbl, poiScl := poiScl, queue := queue })
    fun x => (x.acc, x.live, x.bufA, x.bufB, x.tbl, x.scl, x.poiA, x.poiB, x.poiTbl, x.poiScl, x.queue)

/-! ## The streamers (R229) -/

/-- A stage of a descriptor. -/
def stageCodec : Codec TsStage :=
  (Codec.num 1).iso (fun n => if n = 0 then .accepted else if n = 1 then .gated else .running)
    fun t => match t with | .accepted => 0 | .gated => 1 | .running => 2

/-- An accepted descriptor; the access of a fixed tile has completed, and no access has the number that stands for it (R226). -/
def descCodec : Codec TsDesc :=
  ((Codec.word 1024 128).and ((Codec.num 1).and ((Codec.num 5).and ((Codec.word 64 7).and ((Codec.num 3).and ((Codec.num 3).and
    (stageCodec.and ((Codec.num 4).and ((Codec.num 4).and (Codec.flag.and (Codec.flag.and (Codec.flag.and
    Codec.flag)))))))))))).iso
    (fun (raw, slot, block, pc, base, limit, stage, tiles, seen, fetched, fixed, ending, failed) =>
      { raw := raw, slot := slot, block := block, pc := pc, base := base, limit := limit, before := 0, stage := stage,
        tiles := tiles, seen := seen, fetched := fetched, firstDev := if fixed then some (2 ^ 64) else none, ending := ending,
        failed := failed })
    fun d => (d.raw, d.slot, d.block, d.pc, d.base, d.limit, d.stage, d.tiles, d.seen, d.fetched, d.firstDev.isSome, d.ending,
              d.failed)

/-- A streamer with its unreported ends. -/
def streamerCodec : Codec Streamer :=
  ((descCodec.list 1).and (((Codec.num 1).and ((Codec.word 16 2).and Codec.flag)).list 4)).iso
    (fun x => ⟨x.1, x.2.map fun d => ⟨d.1, d.2.1, d.2.2⟩⟩) fun t => (t.descs, t.done.map fun d => (d.slot, d.status, d.failed))

/-! ## A core -/

/-- The saved work of a core under a launch with `regs` registers per thread and `ls` bytes of local store; the local store stands first. -/
def workCodec (regs ls : Nat) : Codec CoreWork :=
  (((Codec.word 8 1).dense 0 ls).and ((Codec.flags (ls / 32)).and (((groupCodec regs).opt.dense none 64).and
    ((blockCodec.opt.dense none 32).and (mxCodec.and (streamerCodec.dense Streamer.idle 4)))))).iso
    (fun (bytes, poison, groups, blocks, mx, ts) =>
      { launch := none, groups := groups, blocks := blocks, ls := bytes, lsPoison := poison, mx := mx, ts := ts })
    fun w => (w.ls, w.lsPoison, w.groups, w.blocks, w.mx, w.ts)

end Sys2Proof.Machine
end

