-- ==== Sys2Proof/Machine/FolioItems.lean ====
section
/-! DEFINITION. The Folio image: locators, items and their bytes, directory, digest tree and seal (R465, R469 to R474). -/

namespace Sys2Proof.Machine

/-- What a QUEUE record tells (R471): number, class code, LOG2_SLOTS, RING, RECORD, SESSION and the R399 state record. -/
structure FolioQueue where
  number  : Nat
  cls     : Nat
  log2    : Nat
  ring    : Nat
  record  : Nat
  session : Nat
  image   : BitVec 512
  deriving DecidableEq, Repr

/-- What a LAUNCH record tells (R471). -/
structure FolioLaunch where
  queue    : Nat
  pos      : Nat
  desc     : BitVec 1024
  uniforms : List Word
  next     : Nat
  retired  : Nat
  deriving DecidableEq, Repr

/-- What a WATCH record tells (R471); `every` is EVERY. -/
structure FolioWatch where
  isQueue : Bool
  tally   : Nat
  target  : Nat
  queue   : Nat
  every   : Bool
  deriving DecidableEq, Repr

/-- The ledgers of a CONTEXT item: COMMANDS_RETIRED, BLOCKS_RETIRED, CORE_CYCLES. -/
abbrev FolioLedgers := Nat × Nat × Nat

end Sys2Proof.Machine

namespace Sys2Proof

/-! R471 names what these records hold and not where in the record: the order of their bytes is free (LOG 84). -/

/-- Where the bytes of a record of item KIND `kind` stand: the choice of the byte for each place in turn. -/
opaque Config.folioOrder (kind place : Nat) : Nat

end Sys2Proof

namespace Sys2Proof.Machine

/-! ## Records (R471) -/

/-- An order of the places `xs`: at each step one of those left is chosen. -/
def byteOrder (kind : Nat) : Nat → List Nat → List Nat
  | 0, _ => []
  | n + 1, xs =>
    let k := Config.folioOrder kind n % xs.length
    xs.getD k 0 :: byteOrder kind n (xs.eraseIdx k)

/-- A record of `n` bytes with its bytes in the order of its KIND. -/
def arrange (kind n : Nat) (bs : List Byte) : List Byte := (byteOrder kind n (List.range n)).map fun i => bs.getD i 0

/-- The bytes of an arranged record in the model's order. -/
def unarrange (kind n : Nat) (bs : List Byte) : List Byte :=
  (List.range n).map fun i => bs.getD ((byteOrder kind n (List.range n)).idxOf i) 0

/-- The number in `k` bytes from byte `i`. -/
def numAt (bs : List Byte) (i k : Nat) : Nat := leNat (sub bs i k)

/-- The CONTEXT item of a tenant, LOANED, DIRTY_TRACK and the ledgers. -/
def folioContext (tenant : Nat) (loaned dirtyTrack : Bool) (x : FolioLedgers) : List Byte :=
  arrange 1 64 (leBytes 1 tenant ++ leBytes 1 (b2n loaned) ++ leBytes 1 (b2n dirtyTrack) ++ leBytes 8 x.1 ++ leBytes 8 x.2.1 ++ leBytes 8 x.2.2)

/-- The ledgers that a CONTEXT item gives. -/
def folioContextRead (bs : List Byte) : FolioLedgers :=
  let b := unarrange 1 64 bs
  (numAt b 3 8, numAt b 11 8, numAt b 19 8)

/-- A QUEUE record of 128 bytes. -/
def folioQueue (q : FolioQueue) : List Byte :=
  arrange 3 128 (leBytes 1 1 ++ leBytes 2 q.number ++ leBytes 1 q.cls ++ leBytes 1 q.log2 ++ leBytes 1 q.session ++ leBytes 8 q.ring ++
    leBytes 8 q.record ++ leBytes 64 q.image.toNat)

/-- What a QUEUE record gives; none where it stands for no queue. -/
def folioQueueRead (bs : List Byte) : Option FolioQueue :=
  let b := unarrange 3 128 bs
  if numAt b 0 1 = 0 then none else
  some { number := numAt b 1 2, cls := numAt b 3 1, log2 := numAt b 4 1, session := numAt b 5 1, ring := numAt b 6 8,
         record := numAt b 14 8, image := BitVec.ofNat 512 (numAt b 22 64) }

/-- A WATCH record of 32 bytes. -/
def folioWatch (w : FolioWatch) : List Byte :=
  arrange 5 32 (leBytes 1 1 ++ leBytes 1 (b2n w.isQueue) ++ leBytes 1 (b2n w.every) ++ leBytes 2 w.tally ++ leBytes 2 w.queue ++
    leBytes 8 w.target)

/-- What a WATCH record gives. -/
def folioWatchRead (bs : List Byte) : Option FolioWatch :=
  let b := unarrange 5 32 bs
  if numAt b 0 1 = 0 then none else
  some { isQueue := numAt b 1 1 == 1, every := numAt b 2 1 == 1, tally := numAt b 3 2, queue := numAt b 5 2, target := numAt b 7 8 }

/-- A LAUNCH record of 512 bytes. -/
def folioLaunch (l : FolioLaunch) : List Byte :=
  arrange 6 512 (leBytes 1 1 ++ leBytes 2 l.queue ++ leBytes 4 l.pos ++ leBytes 7 l.next ++ leBytes 7 l.retired ++
    leBytes 128 l.desc.toNat ++ (padTo 256 (l.uniforms.flatMap fun w => leBytes 4 w.toNat)))

/-- What a LAUNCH record gives. -/
def folioLaunchRead (bs : List Byte) : Option FolioLaunch :=
  let b := unarrange 6 512 bs
  if numAt b 0 1 = 0 then none else
  some { queue := numAt b 1 2, pos := numAt b 3 4, next := numAt b 7 7, retired := numAt b 14 7,
         desc := BitVec.ofNat 1024 (numAt b 21 128), uniforms := wordsOf (sub b 149 256) }

/-- Bytes of a core's chunks: 14 of 65,536 (R471). -/
def coreBytes : Nat := 917504

/-- The 14 chunks of a core's saved state: the number of its LAUNCH record, and the state (R95, R201, R229, R471). -/
def folioCore (l : Launch) (n : Nat) (w : CoreWork) : List Byte :=
  arrange 7 coreBytes (leBytes 2 n ++ (workCodec l.regs (l.lsKib * 1024)).put w)

/-- The number of the LAUNCH record, and the state under that record's descriptor, that 14 chunks give. -/
def folioCoreRead (launch : Nat → Option Launch) (bs : List Byte) : Option (Nat × CoreWork) :=
  let b := unarrange 7 coreBytes bs
  let n := numAt b 0 2
  (launch n).map fun l => (n, ((workCodec l.regs (l.lsKib * 1024)).get (b.drop 2)).1)

/-- Which sectors of chunk `k` of a core are marked poisoned: those with a byte of a poisoned sector of its local store, which follows
the record's number (R40, R233). -/
def folioCorePoison (l : Launch) (w : CoreWork) (k : Nat) : List Bool :=
  let order := byteOrder 7 coreBytes (List.range coreBytes)
  (List.range 2048).map fun j => ((order.drop (k * 65536 + 32 * j)).take 32).any fun i =>
    decide (2 ≤ i) && decide (i < 2 + l.lsKib * 1024) && sget (fun _ => false) w.lsPoison ((i - 2) / 32)

/-- The state of a core after a restore: sectors of its local store with a byte in a chunk that `bad` names carry the poison mark
(R474). -/
def markPoisoned (l : Launch) (bad : Nat → Bool) (w : CoreWork) : CoreWork :=
  if (List.range 14).all fun j => !bad j then w else
  let order := byteOrder 7 coreBytes (List.range coreBytes)
  { w with lsPoison := (List.range (l.lsKib * 32)).foldl (fun m k =>
      if (List.range 32).any fun b => bad (order.idxOf (2 + 32 * k + b) / 65536) then sput (fun _ => false) m k true else m) w.lsPoison }

/-! ## Commands and locators (R464, R465) -/

/-- FULL of a RECALL or FOLIO_WRITE. -/
def FolioCmd.full (c : FolioCmd) : Bool := arg c.packet 0 16 1 == 1

/-- FOLIO_ID of a RECALL or FOLIO_WRITE. -/
def FolioCmd.folioId (c : FolioCmd) : Nat := arg c.packet 1 0 64

/-- The sink of a RECALL or FOLIO_WRITE. -/
def FolioCmd.sink (c : FolioCmd) : BitVec 256 := c.locs.headD 0

/-- KIND of a locator: 1 this device, 2 device peer, 3 host. -/
def locKind (l : BitVec 256) : Nat := fld l 0 2

/-- PEER of a locator. -/
def locPeer (l : BitVec 256) : Nat := fld l 28 12

/-- SESSION0 and SESSION1 of a locator. -/
def locSessions (l : BitVec 256) : List Nat := [fld l 40 8, fld l 48 8].eraseDups

/-- BASE of a locator. -/
def locBase (l : BitVec 256) : Nat := fld l 128 44

/-- LENGTH of a locator. -/
def locLength (l : BitVec 256) : Nat := fld l 192 64

/-- The session that carries unit `u` (R478). -/
def unitSession (l : BitVec 256) (u : Nat) : Nat := if u % 2 = 0 then fld l 40 8 else fld l 48 8

/-- Whether a command uses a host session. -/
def FolioCmd.usesSession (c : FolioCmd) (n : Nat) : Bool := c.locs.any fun l => locKind l == 3 && (locSessions l).contains n

/-! ## Items (R471) -/

/-- Bytes of a unit. -/
def unitBytes : Nat := 65536

/-- The content of item `k` of records of `size` bytes. -/
def recordItem (size : Nat) (rs : List (List Byte)) (k : Nat) : List Byte :=
  let per := unitBytes / size
  padTo unitBytes (((rs.drop (k * per)).take per).flatMap (padTo size))

/-- The number of items that `n` records of `size` bytes fill; a state item is in every image. -/
def recordItems (size n : Nat) : Nat := Nat.max 1 (cdiv (n * size) unitBytes)

/-- The MAP record of a leaf. -/
def mapRecord (l : Leaf) : List Byte :=
  let w := if leafKind l.word = 3 ∨ leafDram l then setFld l.word 16 28 0 else l.word
  leBytes 8 (l.va / 65536 + l.size * 2 ^ 40) ++ leBytes 8 w.toNat

/-- The leaf that a MAP record gives. -/
def mapRead (bs : List Byte) : Leaf :=
  let a := leNat (bs.take 8)
  { va := a % 2 ^ 40 * 65536, size := a / 2 ^ 40 % 4, word := BitVec.ofNat 64 (leNat (sub bs 8 8)) }

/-- The code of a queue class (R369). -/
def QClass.code : QClass → Nat
  | .kernel => 0 | .serving => 1 | .loan => 2

/-- READ_POS of a FROZEN queue in its image: a packet that was fetched and not dispatched is fetched again after a restore. -/
def frozenReadPos (q : Queue) : Word := q.cur.head?.elim q.readPos fun f => BitVec.ofNat 32 f.pos

/-- The QUEUE record of a FROZEN queue: its state record as it stood before the freeze. -/
def queueRecord (s : State) (n : Nat) : List Byte :=
  let q := s.queue n
  folioQueue
    { number := n, cls := q.cls.code, log2 := q.log2, ring := q.ring, record := q.record, session := q.session,
      image := { q with state := q.before, readPos := frozenReadPos q }.image }

/-- The tallies that a context owns, ascending. -/
def talliesOf (s : State) (ctx : Nat) : List Nat :=
  (s.hub.tallies.filter fun e => e.2.assigned && e.2.owner == ctx).map (·.1)

/-- The TALLY record of tally `n`. -/
def tallyRecord (s : State) (n : Nat) : List Byte := padTo 16 (leBytes 2 n) ++ leBytes 16 (s.tally n).image.toNat

/-- The WATCH record of a watch; a group watch has none. -/
def watchRecord (w : Watch) : Option (List Byte) :=
  let rec? (f : FolioWatch) : Option (List Byte) := some (folioWatch f)
  let base : FolioWatch := { isQueue := false, tally := w.tally, target := w.target, queue := 0, every := false }
  match w.kind with
  | .group _ _ => none
  | .queue n => rec? { base with isQueue := true, queue := n }
  | .once _ => rec? base
  | .every _ => rec? { base with every := true }

/-- The WATCH records of a context. -/
def watchRecords (s : State) (ctx : Nat) : List (List Byte) := (s.hub.watches.filter (·.ctx == ctx)).filterMap watchRecord

/-- The LAUNCH record of a launch, with s0 to s63 as initialised. -/
def launchRecord (l : Launch) : List Byte :=
  folioLaunch
    { queue := l.queue, pos := l.pos, desc := l.desc, uniforms := (List.range 64).map fun i => l.uniforms.getD i 0,
      next := l.next, retired := l.retired }

/-- The saved work of a context on each core, with its launch and the number of its LAUNCH record. -/
def savedCores (s : State) (ctx : Nat) : List (Nat × Launch × Nat × CoreWork) :=
  let ns := launchesOf s ctx
  s.cores.filterMap fun c => c.2.saved.findSome? fun w => w.launch.bind fun n =>
    if ns.contains n then (s.launch n).map fun l => (c.1, l, ns.findIdx (· == n), w) else none

/-- A state item's content. -/
def stateItem (s : State) (ctx kind key : Nat) : List Byte :=
  match kind with
  | 1 =>
    let c := s.ctx ctx
    padTo unitBytes (folioContext c.tenant c.loaned c.dirtyTrack (c.cmdsRetired, c.blksRetired, c.coreCycles))
  | 2 => recordItem 16 ((leavesOf s ctx).map mapRecord) key
  | 3 => recordItem 128 ((queuesOf s ctx).map (queueRecord s)) key
  | 4 => recordItem 32 ((talliesOf s ctx).map (tallyRecord s)) key
  | 5 => recordItem 32 (watchRecords s ctx) key
  | 6 => recordItem 512 (((launchesOf s ctx).filterMap s.launch).map launchRecord) key
  | _ => match (savedCores s ctx).find? fun c => c.1 == key / 16 with
    | some c => padTo unitBytes ((folioCore c.2.1 c.2.2.1 c.2.2.2).drop (key % 16 * unitBytes))
    | none => List.replicate unitBytes 0

/-- The sectors of a state item that are delivered marked poisoned: those of a core's chunks alone may be (R233). -/
def stateItemPoison (s : State) (ctx kind key : Nat) : List Bool :=
  if kind ≠ 7 then [] else
  (((savedCores s ctx).find? fun c => c.1 == key / 16).map fun c => folioCorePoison c.2.1 c.2.2.2 (key % 16)).getD []

/-- An item that no engine has hashed yet. -/
def newItem (kind key page : Nat) : FolioItem :=
  { kind := kind, key := key, poison := false, digest := [], hashed := false, page := page }

/-- The items of `n` records of `size` bytes. -/
def itemsOf (kind size n : Nat) : List FolioItem := (List.range (recordItems size n)).map fun k => newItem kind k 0

/-- The PAGE items: every 64 KiB of the KIND 1 leaves of DRAM, or those whose dirty bit is set. -/
def pageItems (s : State) (ctx : Nat) (full : Bool) : List FolioItem :=
  let dirty := dirtyOf s ctx
  ((leavesOf s ctx).filter leafDram).flatMap fun l =>
    ((List.range (pageBytes l.size / 65536)).filter fun j => full || dirty.contains (l.va / 65536 + j)).map fun j =>
      newItem 0x10 (l.va / 65536 + j) (leafAddr l.word / 65536 + j)

/-- The items of an image, in ascending order of KIND and KEY (R470, R471). -/
def imageItems (s : State) (ctx : Nat) (full : Bool) : List FolioItem :=
  [newItem 1 0 0] ++ itemsOf 2 16 (leavesOf s ctx).length ++ itemsOf 3 128 (queuesOf s ctx).length ++
  itemsOf 4 32 (talliesOf s ctx).length ++ itemsOf 5 32 (watchRecords s ctx).length ++
  itemsOf 6 512 (launchesOf s ctx).length ++
  (savedCores s ctx).flatMap (fun c => (List.range 14).map fun k => newItem 7 (16 * c.1 + k) 0) ++ pageItems s ctx full

/-- D: the units of the directory of `n` items. -/
def dirUnits (n : Nat) : Nat := cdiv (64 * n) unitBytes

/-- The length of an image of `n` items. -/
def imageLength (n : Nat) : Nat := (1 + dirUnits n + n) * unitBytes

/-! ## Directory, digests, tree and seal (R469, R470, R472, R473) -/

/-- The directory entry of an item. -/
def dirEntry (i : FolioItem) : List Byte :=
  padTo 16 (leBytes 8 i.key ++ leBytes 1 i.kind ++ leBytes 1 (b2n i.poison)) ++ padTo 48 (padTo 32 i.digest)

/-- Directory unit `d`. -/
def dirUnit (items : List FolioItem) (d : Nat) : List Byte := recordItem 64 (items.map dirEntry) d

/-- The prefix of an item's digest. -/
def itemPrefix (id key kind : Nat) : List Byte := padTo 32 (leBytes 8 id ++ leBytes 8 key ++ leBytes 1 kind)

/-- The page digest of an item. -/
def itemDigest (id key kind : Nat) (content : List Byte) : List Byte := shake 32 (itemPrefix id key kind ++ content)

/-- A leaf of the digest tree. -/
def treeLeaf (i : FolioItem) : List Byte := shake 32 ([0x00] ++ leBytes 1 i.kind ++ leBytes 1 (b2n i.poison) ++ i.digest)

/-- The next level of the tree; a last single node is carried up unchanged. -/
def treeLevel : List (List Byte) → List (List Byte)
  | a :: b :: r => shake 32 (0x01 :: (a ++ b)) :: treeLevel r
  | l => l

/-- The top of a tree of at most 2^n nodes. -/
def treeTop : Nat → List (List Byte) → List Byte
  | 0, l => l.headD []
  | n + 1, l => treeTop n (treeLevel l)

/-- ROOT of a seal's first 64 bytes and the items. -/
def treeRoot (head : List Byte) (items : List FolioItem) : List Byte :=
  shake 64 (0x02 :: (head ++ treeTop 64 (items.map treeLeaf)))

/-- Bytes 0 to 63 of the seal. -/
def sealHead (id base chain ctx tenant n writer freeze : Nat) : List Byte :=
  leBytes 4 0x4F494C46 ++ leBytes 4 1 ++ leBytes 8 id ++ leBytes 8 base ++ leBytes 4 chain ++ leBytes 4 (ctx + tenant * 1024) ++
  leBytes 8 n ++ leBytes 8 0 ++ leBytes 8 writer ++ leBytes 8 freeze

/-- BASE_ID and CHAIN_POS of the image that a command writes. -/
def chainOf (s : State) (c : FolioCmd) : Nat × Nat :=
  if c.full then (0, 0) else ((s.ctx c.ctx).folioLastId, (s.ctx c.ctx).folioChain + 1)

/-- Unit 0 of the running image: the seal, signed with the identity key. -/
def sealUnit (s : State) (r : FolioRun) : List Byte :=
  let c := r.cmd
  let (base, chain) := chainOf s c
  let head := sealHead c.folioId base chain c.ctx (tenantOf s c.ctx) r.items.length s.ports.ownPeer r.freezeAt
  let root := treeRoot head r.items
  padTo unitBytes (head ++ root ++ padTo 64 identityKey ++ edSign identityPrivate root)

end Sys2Proof.Machine
end

