-- ==== Sys2Proof/Machine/FolioWrite.lean ====
section
/-! DEFINITION. The Folio unit: its queue, freezing and thawing a context, writing an image, and the end of a Recall
(R461 to R482). -/

namespace Sys2Proof.Machine

/-- Change the running Folio command. -/
def modRun (s : State) (f : FolioRun → FolioRun) : State := { s with folio := { s.folio with run := s.folio.run.map f } }

/-- Set the running Folio command. -/
def setRun (s : State) (r : Option FolioRun) : State := { s with folio := { s.folio with run := r } }

/-! ## Dispatch (R461, R462, R464 to R466) -/

/-- The context that a Folio command names. -/
def folioCtx (p : BitVec 512) : Nat := arg p 0 0 10

/-- Whether a locator keeps the form of R465; `source` allows KIND 1. -/
def locOk (l : BitVec 256) (source : Bool) : Bool :=
  fld l 2 26 == 0 && fld l 56 72 == 0 && fld l 172 20 == 0 && locKind l != 0 && (source || locKind l != 1) &&
  locBase l % unitBytes == 0 && (locKind l != 3 || locBase l == 0)

/-- The refusals of a locator's partner (R466). -/
def locRefusal (s : State) (ls : List (BitVec 256)) : Option Status :=
  firstCase [
    (ls.any fun l => locKind l == 2 && !((s.peer (locPeer l)).kind == 1 && (s.peer (locPeer l)).state == 1), Code.peerLost),
    (ls.any fun l => locKind l == 3 && (locSessions l).any fun n => !(s.session n).any (·.operator), Code.sessionNotAllowed)]

/-- Whether a context is FROZEN by a FOLIO_WRITE. -/
def frozenByWrite (s : State) (ctx : Nat) : Bool := (s.ctx ctx).state == .frozen && (s.ctx ctx).folioState == 1

/-- Why a RECALL or FOLIO_WRITE with sink `l` is refused (R461, R466). -/
def sinkRefusal (s : State) (forRecall : Bool) (p : BitVec 512) (l : BitVec 256) : Option Status :=
  let c := s.ctx (folioCtx p)
  (firstCase [
    (!locOk l false || arg p 1 0 64 == 0, Code.formatError),
    (c.state != .live && !frozenByWrite s (folioCtx p), Code.contextLost),
    (!forRecall && c.state == .frozen, Code.contextBusy),
    (!c.loaned, Code.notLoaned),
    (arg p 0 16 1 == 0 && c.folioLastId == 0, Code.folioChainBroken)]).or (locRefusal s [l])

/-- Why a FOLIO_RESTORE from `ls` is refused (R461, R466). -/
def sourceRefusal (s : State) (p : BitVec 512) (ls : List (BitVec 256)) : Option Status :=
  let ctx := folioCtx p
  let c := s.ctx ctx
  let busy := c.state != .live || launchesOf s ctx != [] || (queuesOf s ctx).any fun n => (s.queue n).state != .idle
  (firstCase [
    (ls.any fun l => !locOk l true, Code.formatError),
    (!c.loaned || !c.dirtyTrack, Code.notLoaned)]).or
  ((locRefusal s ls).or (if busy then some Code.contextBusy else none))

/-- The locators of a byte string. -/
def locatorsOf (bs : List Byte) : List (BitVec 256) :=
  (List.range (bs.length / 32)).map fun i => BitVec.ofNat 256 (leNat (sub bs (32 * i) 32))

/-- Place a command in the Folio queue: a RECALL goes ahead of every waiting command that is no RECALL (R462). -/
def enqueueFolio (s : State) (c : FolioCmd) : State :=
  let isRecall (x : FolioCmd) : Bool := x.kind == .recall
  let w := s.folio.waiting
  let w := if isRecall c then w.filter isRecall ++ [c] ++ w.filter (fun x => !isRecall x) else w ++ [c]
  { s with folio := { s.folio with waiting := w } }

/-- Release the staging pools that Folio holds, whatever its peers' masks are now, and the digest engines when the Folio queue is
empty: one command runs at a time (R432, R463). -/
def releaseFolio (s : State) : State :=
  let s := holdPools s ((keysOf s.ports.staging).filter fun i => sget (fun _ => Holder.none) s.ports.staging i == .folio) .none
  let s : State := { s with folio := { s.folio with digests := [] } }
  if s.folio.waiting = [] ∧ s.folio.run = none ∧ s.ports.digHolder = .folio then
    { s with ports := { s.ports with digHolder := .none } } else s

/-- The running command ends; its context is thawed at the next boundary, and the command then completes (R480, R486). -/
def endInThaw (s : State) (r : FolioRun) (st : Status) : State :=
  let t : FolioThaw := { ctx := r.cmd.ctx, queue := r.cmd.queue, pos := r.cmd.pos, status := st, stamp := r.freezeAt, steep := r.steep }
  releaseFolio { s with folio := { s.folio with run := none, thaws := s.folio.thaws ++ [t] } }

/-- The running command ends without having frozen its context. -/
def endUnfrozen (s : State) (r : FolioRun) (st : Status) : State :=
  let s := (setRun s none).modCtx r.cmd.ctx fun c => { c with folioState := 0 }
  finishAt (releaseFolio s) r.cmd.queue r.cmd.pos st

/-- A dispatched RECALL abandons a FOLIO_WRITE that is running (R462). -/
def abandonWrite (s : State) : State :=
  match s.folio.run with
  | none => s
  | some r =>
    if r.cmd.kind ≠ .write then s
    else if r.phase = .waitBoundary then endUnfrozen s r Code.folioAborted
    else endInThaw s r Code.folioAborted

/-- Dispatch a Folio command: read its locators, check it, and queue it. -/
def folioDispatch (n cmd : Nat) (s : State) (kind : FolioKind) (va count : BitVec 512 → Nat)
    (refusal : State → BitVec 512 → List (BitVec 256) → Option Status) : Out :=
  dispatch n cmd s fun s f =>
    let p := f.packet
    if va p % 32 ≠ 0 ∨ count p = 0 ∨ 64 < count p then completeCmd s n f.pos p Code.formatError else
    match deskRead s n f.pos (va p) (32 * count p) with
    | .error s => putBack s n f
    | .ok (bs, s) =>
      let ls := locatorsOf bs
      match refusal s p ls with
      | some st => completeCmd s n f.pos p st
      | none =>
        let s := enqueueFolio s { kind := kind, queue := n, pos := f.pos, packet := p, ctx := folioCtx p, locs := ls }
        if kind = .recall then abandonWrite s else s

/-- RECALL (R461, R462, R464, R466). -/
def execRecall (q : Nat) (s : State) : Out :=
  folioDispatch q 0x4C s .recall (fun p => arg p 2 0 56) (fun _ => 1) fun s p ls => sinkRefusal s true p (ls.headD 0)

/-- FOLIO_WRITE. -/
def execFolioWrite (q : Nat) (s : State) : Out :=
  folioDispatch q 0x4D s .write (fun p => arg p 2 0 56) (fun _ => 1) fun s p ls => sinkRefusal s false p (ls.headD 0)

/-- FOLIO_RESTORE. -/
def execFolioRestore (q : Nat) (s : State) : Out :=
  folioDispatch q 0x4E s .restore (fun p => arg p 1 0 56) (fun p => arg p 0 16 7) sourceRefusal

/-! ## Freezing (R467) -/

/-- Freeze one queue: fetching stops and pre-decode is discarded; a packet fetched and not dispatched waits for the thaw. -/
def freezeQueue (s : State) (n : Nat) : State :=
  setQState (s.modQueue n fun q => { q with before := q.state, pre := [] }) n .frozen

/-- Stop a launch on every core that it holds. -/
def stopLaunch (s : State) (n : Nat) : State :=
  (below coreCount fun c => (s.core c).work.launch == some n).foldl stopCore s

/-- Freeze a context at a boundary: queues, then launches (R467 steps 1 and 2). -/
def freezeContext (s : State) (ctx : Nat) : State :=
  (launchesOf s ctx).foldl stopLaunch ((queuesOf s ctx).foldl freezeQueue s)

/-- Whether every save of a context has ended and no migration of it is pending (R355, R467). -/
def frozenDone (s : State) (ctx : Nat) : Bool :=
  !(s.cores.any fun c => c.2.work.launch.any fun n => (launchesOf s ctx).contains n) &&
  !(olist s.xlat.records).any fun r => r.2.ctx == ctx

/-- The context enters FROZEN: its channels are unbound and its plans fail (R332, R457, R467 steps 3 and 4). -/
def enterFrozen (s : State) (ctx : Nat) : State :=
  let s := (launchesOf s ctx).foldl (fun s n =>
    (unbindChannels s n).setLaunch n ((s.launch n).map fun (l : Launch) => { l with channels := [] })) s
  failPlansOf (s.modCtx ctx fun c => { c with state := .frozen }) ctx

/-- What the boundary does for the running command that waits for it: its context is frozen, or was lost before. -/
def freezeAtBoundary (s : State) : State :=
  match s.folio.run with
  | none => s
  | some r =>
    if r.phase ≠ .waitBoundary then s
    else if (s.ctx r.cmd.ctx).state ≠ .live then
      if r.cmd.kind = .recall then modRun s fun r => { r with phase := .writing, failure := some Code.contextLost }
      else endUnfrozen s r Code.contextLost
    else freezeContext (modRun s fun r =>
      { r with phase := .freezing, freezeAt := s.desk.steepStart, steep := s.desk.steepNumber }) r.cmd.ctx

/-! ## Thawing (R480, R486) -/

/-- A WAITING queue goes on waiting after a thaw: its tally is evaluated again, and its watch stands or is registered. -/
def rewait (s : State) (n : Nat) : State :=
  match (s.queue n).wait with
  | none => s
  | some w =>
    match waitEval s n (arg w.packet 0 0 16) (arg w.packet 1 0 63) with
    | .error st => endWait s n w.pos w.packet st
    | .ok true => endWait s n w.pos w.packet Code.success
    | .ok false =>
      if s.hub.watches.any fun x => x.kind == .queue n then s else
      let ctx := (s.queue n).ctx
      match registerWatch s { kind := .queue n, tally := arg w.packet 0 0 16, target := arg w.packet 1 0 63,
                              tenant := tenantOf s ctx, ctx := ctx } with
      | some s => s.modQueue n fun q => { q with wait := some { w with polls := false } }
      | none => (countWatchFull s).modQueue n fun q => { q with wait := some { w with polls := true } }

/-- Return a FROZEN queue to the state that it held before the freeze (R480). -/
def thawQueue (s : State) (n : Nat) : State :=
  let q := s.queue n
  if q.state ≠ .frozen then s else
  let st := if q.before = .idle ∧ q.readPos ≠ q.writePos then .active else q.before
  let s := setQState s n st
  if st = .waiting then rewait s n else s

/-- Whether the freeze of an abandoned FOLIO_WRITE is kept for a RECALL of its context (R467). -/
def thawKept (s : State) (t : FolioThaw) : Bool :=
  t.status == Code.folioAborted &&
  (s.folio.waiting.any (fun c => c.kind == .recall && c.ctx == t.ctx) ||
   s.folio.run.any fun r => r.cmd.kind == .recall && r.cmd.ctx == t.ctx)

/-- Thaw a context and complete the command that froze it. -/
def thaw (s : State) (t : FolioThaw) : State :=
  let s := s.modCtx t.ctx fun c => { c with
    state := if c.state = .frozen then .live else c.state,
    folioState := if s.folio.run.any (·.cmd.ctx == t.ctx) then c.folioState else 0 }
  let s := if (s.ctx t.ctx).state = .live then (queuesOf s t.ctx).foldl thawQueue s else s
  finishAt s t.queue t.pos t.status

/-- Every thaw that a boundary performs. -/
def thawAll (s : State) : State :=
  let kept := s.folio.thaws.filter (thawKept s)
  let due := s.folio.thaws.filter fun t => !thawKept s t
  due.foldl thaw { s with folio := { s.folio with thaws := kept } }

/-! ## Starting a command (R463, R467) -/

/-- The staging pools that a command claims. -/
def folioPools (s : State) (c : FolioCmd) : List Nat :=
  ((c.locs.filter fun l => locKind l == 2).flatMap fun l => (s.peer (locPeer l)).portList).eraseDups

/-- Whether the claims of a command can be made. -/
def claimsOk (s : State) (c : FolioCmd) : Bool :=
  (s.ports.digHolder == .none || s.ports.digHolder == .folio) &&
  (folioPools s c).all fun i => sget (fun _ => Holder.none) s.ports.staging i == .none

/-- Make the claims of a command. -/
def claimFolio (s : State) (c : FolioCmd) : State :=
  let s := holdPools s (folioPools s c) .folio
  { s with ports := { s.ports with digHolder := .folio } }

/-- FOLIO_STATE of a running command (R488). -/
def FolioKind.code : FolioKind → Nat
  | .write => 1 | .recall => 2 | .restore => 3

/-- A command as it starts. -/
def FolioRun.start (c : FolioCmd) (phase : FolioPhase) (total : Nat) : FolioRun :=
  { cmd := c, phase := phase, items := [], freezeAt := 0, steep := 0, sinkSeqs := [], storedBy := [], image := 0, got := [],
    roots := [], failure := none, bytes := 0, total := total }

/-- A RECALL takes over the freeze of an abandoned FOLIO_WRITE of its context, whose command then completes (R467). -/
def takeFreeze (s : State) (t : FolioThaw) : State :=
  let s : State := { s with folio := { s.folio with thaws := s.folio.thaws.erase t } }
  let s := finishAt s t.queue t.pos t.status
  modRun s fun r => { r with phase := .freezing, freezeAt := t.stamp, steep := t.steep }

/-! ## Writing an image (R475 to R478) -/

/-- Write one line of the image to a peer's memory; the line travels on the port of its address (R427, R477). -/
def sinkLine (s : State) (ctx peer pa : Nat) (bs : List Byte) (poison : List Bool) : State :=
  let e := s.peer peer
  let id := s.nextAcc
  let f : OutFrame := { OutFrame.plain 1 peer (tenantOf s ctx) (fld e.entry 24 10) (tagOf id) with
    addr := pa, length := bs.length, poison := poison, payload := bs }
  let s := peerSend { s with nextAcc := id + 1 } peer (e.portFor (pa / 128)) f
  modRun s fun r => { r with sinkSeqs := r.sinkSeqs ++ [(id, bs.length)] }

/-- Send one unit of the running image to its sink. -/
def sendUnit (s : State) (u : Nat) (bs : List Byte) (poison : List Bool) : State :=
  match s.folio.run with
  | none => s
  | some r =>
    if r.failure.isSome then s else
    let l := r.cmd.sink
    let off := u * unitBytes
    if locKind l = 2 then
      (List.range 512).foldl (fun s j =>
        sinkLine s r.cmd.ctx (locPeer l) (locBase l + off + 128 * j) (sub bs (128 * j) 128) ((poison.drop (4 * j)).take 4)) s
    else
      let s := (List.range 8).foldl (fun s j =>
        smtSend s (unitSession l u)
          { OutMsg.plain 0x51 Code.success 0 (BitVec.ofNat 64 (off + 8192 * j)) with payload := sub bs (8192 * j) 8192 }) s
      modRun s fun r => { r with bytes := r.bytes + unitBytes }

/-- Send a message on every session of a KIND 3 locator. -/
def tellSessions (s : State) (l : BitVec 256) (m : OutMsg) : State :=
  if locKind l = 3 then (locSessions l).foldl (fun s n => smtSend s n m) s else s

/-- FOLIO_BEGIN (R478). -/
def folioBegin (write : Bool) (id len : Nat) : OutMsg :=
  { OutMsg.plain 0x50 Code.success 0 (BitVec.ofNat 64 (b2n write)) with payload := leBytes 8 id ++ leBytes 8 len }

/-- FOLIO_END. -/
def folioEnd (id : Nat) : OutMsg := { OutMsg.plain 0x52 Code.success 0 0 with payload := leBytes 8 id }

/-- Requests to the digest engines: item i goes to engine i mod 24 (R232). -/
def digestRequests (id : Nat) (items : List FolioItem) : SMap (List DigestReq) :=
  let reqs := items.zipIdx.map fun (i, k) => (k, { page := i.page, head := itemPrefix id i.key i.kind, item := k : DigestReq })
  (List.range 24).foldl (fun m e => sput (fun _ => []) m e ((reqs.filter fun r => r.1 % 24 == e).map (·.2))) []

/-- Begin the image: N is computed from the frozen state, and an image longer than LENGTH fails (R476). -/
def beginImage (s : State) (r : FolioRun) : State :=
  let items := imageItems s r.cmd.ctx r.cmd.full
  let len := imageLength items.length
  let s := modRun s fun r => { r with phase := .writing, items := items, total := len }
  if locLength r.cmd.sink < len then modRun s fun r => { r with failure := r.failure.or (some Code.folioSinkSmall) } else
  let s : State := { s with folio := { s.folio with digests := digestRequests r.cmd.folioId items } }
  tellSessions s r.cmd.sink (folioBegin true r.cmd.folioId len)

/-- FOLIO_FREEZE_COMPLETE: every save has ended and the writing of the image begins (R467, R475). -/
def execFolioFreezeComplete (s : State) : Out :=
  match s.folio.run with
  | none => .next s
  | some r =>
    let ctx := r.cmd.ctx
    if !bit s.power.clocks 1 || r.phase != .freezing || r.cmd.kind == .restore || !frozenDone s ctx then .next s else
    match (s.ctx ctx).state with
    | .live => .next (beginImage (enterFrozen s ctx) r)
    | .frozen => .next (beginImage s r)
    | _ => if r.cmd.kind = .recall then .next (modRun s fun r => { r with phase := .writing, failure := some Code.contextLost })
      else .next (endUnfrozen s r Code.contextLost)

/-- The content of an item with the poison flags of its sectors, and the state after reading it (R233, R475). -/
def itemContent (s : State) (ctx : Nat) (i : FolioItem) : Got × State :=
  if i.kind = 0x10 then dramRead s (i.page * 65536) unitBytes false
  else ({ bytes := stateItem s ctx i.kind i.key, poison := stateItemPoison s ctx i.kind i.key }, s)

/-- Send the directory when every item has been hashed. -/
def sendDirectory (s : State) : State :=
  match s.folio.run with
  | none => s
  | some r =>
    if !r.items.all (·.hashed) then s else
    (List.range (dirUnits r.items.length)).foldl (fun s d => sendUnit s (1 + d) (dirUnit r.items d) []) s

/-- One item is hashed and sent. -/
def hashItem (s : State) (cluster : Nat) (q : DigestReq) (r : FolioRun) : State :=
  match r.items[q.item]? with
  | none => s
  | some i =>
    let (g, s) := itemContent s r.cmd.ctx i
    let d := shake 32 (q.head ++ g.bytes)
    let i' := { i with poison := g.bad, digest := d, hashed := true }
    let s : State := { s with folio := { s.folio with
      lastDigest := sput (fun _ => ([], false)) s.folio.lastDigest cluster (d, g.bad) } }
    let s := modRun s fun r => { r with items := r.items.set q.item i' }
    sendDirectory (sendUnit s (1 + dirUnits r.items.length + q.item) g.bytes g.poison)

/-- DIGEST_COMPLETE: one of the eight pages that an engine hashes is finished; they end out of order (R232, R233, R475). -/
def execDigestComplete (cluster i : Nat) (s : State) : Out :=
  let qs := sget (fun _ => []) s.folio.digests cluster
  match (qs.take 8)[i]?, s.folio.run with
  | some q, some r =>
    if !clusterUp s cluster || r.phase != .writing then .next s else
    let s : State := { s with folio := { s.folio with digests := sput (fun _ => []) s.folio.digests cluster (qs.eraseIdx i) } }
    .next (hashItem s cluster q r)
  | _, _ => .next s

/-! ## The end of an image (R478 to R482) -/

/-- Whether every write of the running image has completed at its sink. -/
def sinkDone (s : State) (r : FolioRun) : Bool :=
  r.sinkSeqs == [] &&
  (locKind r.cmd.sink != 3 || (locSessions r.cmd.sink).all fun n =>
    (s.session n).any fun x => !x.unacked.any fun m => m.typ == 0x50 || m.typ == 0x51 || m.typ == 0x52)

/-- What a completed image leaves in its context (R479, R488). -/
def noteImage (s : State) (r : FolioRun) : State :=
  let ctx := r.cmd.ctx
  let (_, chain) := chainOf s r.cmd
  let s := s.modCtx ctx fun c => { c with folioLastId := r.cmd.folioId, folioChain := chain, folioSteep := r.steep }
  let s := clearDirty s ctx
  { s with folio := { s.folio with written := satAdd 64 s.folio.written 1 } }

/-- The end of a RECALL: the context is removed and the command completes (R481). -/
def removeRecalled (s : State) (r : FolioRun) (st : Status) : State :=
  let ctx := r.cmd.ctx
  let s := (launchesOf s ctx).foldl discardLaunch s
  let s := (freeContext s ctx).modCtx ctx fun c => { c with folioState := 0 }
  let s : State := { s with folio := { s.folio with run := none, recalls := satAdd 64 s.folio.recalls 1 } }
  grantCores (finishAt (releaseFolio s) r.cmd.queue r.cmd.pos st)

/-- The image has ended with a status (R479 to R482). -/
def endImage (s : State) (r : FolioRun) (st : Status) : State :=
  let s := if st = Code.success then noteImage s r else s
  if r.cmd.kind = .recall then removeRecalled s r st else endInThaw s r st

/-- FOLIO_IMAGE_COMPLETE: every item write has completed and the seal is written; or the seal is stored and the image is
complete; or the image has failed (R475, R478 to R482). -/
def execFolioImageComplete (s : State) : Out :=
  match s.folio.run with
  | none => .next s
  | some r =>
    if !bit s.power.clocks 1 || r.cmd.kind == .restore || (r.phase != .writing && r.phase != .stored) then .next s else
    match r.failure with
    | some st => .next (endImage s r st)
    | none =>
      if !r.items.all (·.hashed) || !sinkDone s r then .next s
      else if r.phase = .writing then
        let s := sendUnit (modRun s fun r => { r with phase := .stored }) 0 (sealUnit s r) []
        .next (tellSessions s r.cmd.sink (folioEnd r.cmd.folioId))
      else if locKind r.cmd.sink = 3 ∧ !(locSessions r.cmd.sink).all r.storedBy.contains then .next s
      else .next (endImage s r Code.success)

/-- FOLIO_STORED (R478). -/
def execFolioStored (m : Msg) (s : State) : Out :=
  .next (smtFirmware s m (m.arg0 == 0 && m.payload.length == 8) fun s _ =>
    modRun s fun r =>
      if r.cmd.kind ≠ .restore ∧ r.phase = .stored ∧ r.cmd.usesSession m.session.toNat ∧ leNat m.payload = r.cmd.folioId ∧
        !r.storedBy.contains m.session.toNat then { r with storedBy := r.storedBy ++ [m.session.toNat] } else r)

/-- FOLIO_REFUSE: the image fails (R478, R482, R484). -/
def execFolioRefuse (m : Msg) (s : State) : Out :=
  .next (smtFirmware s m (m.arg0 == 0 && m.payload.length == 8) fun s _ =>
    modRun s fun r =>
      if r.cmd.usesSession m.session.toNat ∧ (r.cmd.kind = .restore ∨ leNat m.payload = r.cmd.folioId) then
        { r with failure := r.failure.or (some Code.folioSinkFailed) } else r)

end Sys2Proof.Machine
end

