-- ==== Sys2Proof/Machine/FolioRestore.lean ====
section
/-! DEFINITION. Starting Folio commands, and restoring a chain of images (R463, R464, R478, R484 to R486). -/

namespace Sys2Proof.Machine

/-! ## Reading the images of a chain (R477, R478, R484) -/

/-- The key in `got` of byte `off` of image `k`. -/
def gotKey (k off : Nat) : Nat := k * 2 ^ 48 + off

/-- Locator `k` of a running restore. -/
def FolioRun.loc (r : FolioRun) (k : Nat) : BitVec 256 := r.cmd.locs.getD k 0

/-- Units that a source holds. -/
def locUnits (l : BitVec 256) : Nat := locLength l / unitBytes

/-- Bytes in which a source of a KIND delivers. -/
def segBytes (kind : Nat) : Nat := if kind = 1 then unitBytes else if kind = 2 then 128 else 8192

/-- Unit `u` of image `k` as received. -/
def FolioRun.unit (r : FolioRun) (k u : Nat) : List Byte :=
  let g := segBytes (locKind (r.loc k))
  (List.range (unitBytes / g)).flatMap fun j => sget (fun _ => []) r.got (gotKey k (u * unitBytes + j * g))

/-- Whether every byte of image `k` has arrived. -/
def FolioRun.imageGot (r : FolioRun) (k : Nat) : Bool :=
  (List.range (locUnits (r.loc k))).all fun u => (r.unit k u).length == unitBytes

/-- Note bytes of a source image. -/
def noteGot (r : FolioRun) (k off : Nat) (bs : List Byte) : FolioRun :=
  { r with got := sput (fun _ => []) r.got (gotKey k off) bs, bytes := r.bytes + bs.length }

/-- Whether a source on this device lies in DRAM outside every table area. -/
def localSourceOk (s : State) (l : BitVec 256) : Bool :=
  decide (locBase l + locLength l ≤ dramEnd) && (List.range (locUnits l)).all fun u =>
    (List.range 16).all fun n => !((s.carrel n).index (locBase l / unitBytes + u)).any (inTableArea s.dram (s.carrel n))

/-- Read one unit of a source on this device. -/
def readLocal (s : State) (l : BitVec 256) (k u : Nat) : State :=
  let (g, s) := dramRead s (locBase l + u * unitBytes) unitBytes false
  modRun s fun r => noteGot r k (u * unitBytes) g.bytes

/-- Ask a peer for one line of a source (R427, R430). -/
def readLine (s : State) (ctx : Nat) (l : BitVec 256) (k off : Nat) : State :=
  let e := s.peer (locPeer l)
  let id := s.nextAcc
  let f : OutFrame := { OutFrame.plain 2 (locPeer l) (tenantOf s ctx) (fld e.entry 24 10) (tagOf id) with
    addr := locBase l + off, length := 128 }
  let s := peerSend { s with nextAcc := id + 1 } (locPeer l) (e.portFor ((locBase l + off) / 128)) f
  modRun s fun r => { r with sinkSeqs := r.sinkSeqs ++ [(id, gotKey k off)] }

/-- Ask a host for one unit of a source; the FOLIO_ID that FOLIO_READ carries is a free value. -/
def readUnit (s : State) (l : BitVec 256) (id u : Nat) : State :=
  smtSend s (unitSession l u)
    { OutMsg.plain 0x54 Code.success 0 (BitVec.ofNat 64 (u * unitBytes)) with payload := leBytes 8 id ++ leBytes 4 unitBytes }

/-- Begin to read image `k` of the running restore; what an earlier reading of it delivered is forgotten. -/
def beginFetch (s : State) (k : Nat) : State :=
  match s.folio.run with
  | none => s
  | some r =>
    let l := r.loc k
    let s := modRun s fun r => { r with image := k, got := r.got.filter fun e => e.1 / 2 ^ 48 != k }
    let us := List.range (locUnits l)
    if locKind l = 1 then
      if localSourceOk s l then us.foldl (fun s u => readLocal s l k u) s
      else modRun s fun r => { r with failure := r.failure.or (some Code.folioSinkFailed) }
    else if locKind l = 2 then
      us.foldl (fun s u => (List.range 512).foldl (fun s j => readLine s r.cmd.ctx l k (u * unitBytes + 128 * j)) s) s
    else
      let (n, s) := s.draw
      let id := Config.free n % 2 ^ 64
      us.foldl (fun s u => readUnit s l id u) (tellSessions s l (folioBegin false id (locLength l)))

/-- FOLIO_READ_DATA (R478). -/
def execFolioReadData (m : Msg) (s : State) : Out :=
  .next (smtFirmware s m (fld m.arg0 48 16 == 0 && m.payload.length == 8192) fun s _ =>
    let off := fld m.arg0 0 48
    modRun s fun r =>
      let l := r.loc r.image
      if r.cmd.kind = .restore ∧ (r.phase = .fetching ∨ r.phase = .reading) ∧ locKind l = 3 ∧ (locSessions l).contains m.session.toNat ∧ off % 8192 = 0 ∧
        off < locUnits l * unitBytes then noteGot r r.image off m.payload else r)

/-! ## Starting a command (R463) -/

/-- FOLIO_COMMAND_START. -/
def execFolioCommandStart (s : State) : Out :=
  match s.folio.run, s.folio.waiting with
  | none, c :: rest =>
    if !deskUp s then .next s else
    let s : State := { s with folio := { s.folio with waiting := rest } }
    let refuse (st : Status) : Out := .next (finishAt (releaseFolio s) c.queue c.pos st)
    let st := (s.ctx c.ctx).state
    if !claimsOk s c then refuse Code.resourceHeld
    else if st ≠ .live ∧ (c.kind = .restore ∨ st ≠ .frozen) then refuse Code.contextLost
    else
      let s := (claimFolio s c).modCtx c.ctx fun x => { x with folioState := c.kind.code }
      if c.kind = .restore then
        .next (beginFetch (setRun s (some (FolioRun.start c .fetching ((c.locs.map locLength).sum)))) 0)
      else
        let s := setRun s (some (FolioRun.start c .waitBoundary 0))
        match s.folio.thaws.find? fun t => c.kind == .recall && t.ctx == c.ctx && t.status == Code.folioAborted with
        | some t => .next (takeFreeze s t)
        | none => .next s
  | _, _ => .next s

/-! ## The parts of an image (R469 to R473) -/

/-- The seal of image `k`. -/
def FolioRun.seal (r : FolioRun) (k : Nat) : List Byte := sub (r.unit k 0) 0 512

/-- FOLIO_ID of image `k`. -/
def FolioRun.idOf (r : FolioRun) (k : Nat) : Nat := leNat (sub (r.seal k) 8 8)

/-- CHAIN_POS of image `k`. -/
def FolioRun.chainPos (r : FolioRun) (k : Nat) : Nat := leNat (sub (r.seal k) 24 4)

/-- ITEM_COUNT of image `k`. -/
def FolioRun.count (r : FolioRun) (k : Nat) : Nat := leNat (sub (r.seal k) 32 8)

/-- Whether the source of image `k` holds the units that the seal counts. -/
def FolioRun.lengthOk (r : FolioRun) (k : Nat) : Bool :=
  decide (1 ≤ locUnits (r.loc k)) && decide (imageLength (r.count k) ≤ locUnits (r.loc k) * unitBytes)

/-- An item from its directory entry. -/
def itemRead (bs : List Byte) : FolioItem :=
  { kind := leNat (sub bs 8 1), key := leNat (sub bs 0 8), poison := bit (BitVec.ofNat 8 (leNat (sub bs 9 1))) 0,
    digest := sub bs 16 32, hashed := true, page := 0 }

/-- The items of image `k`. -/
def FolioRun.itemList (r : FolioRun) (k : Nat) : List FolioItem :=
  (List.range (r.count k)).map fun i => itemRead (sub (r.unit k (1 + 64 * i / unitBytes)) (64 * i % unitBytes) 64)

/-- The content of item `i` of image `k`. -/
def FolioRun.content (r : FolioRun) (k i : Nat) : List Byte := r.unit k (1 + dirUnits (r.count k) + i)

/-- Whether the digest of an item of image `k` matches its content. -/
def FolioRun.digestOk (r : FolioRun) (k i : Nat) (x : FolioItem) : Bool :=
  itemDigest (r.idOf k) x.key x.kind (r.content k i) == x.digest

/-- The contents of the items of a kind of image `k`, in order. -/
def FolioRun.contents (r : FolioRun) (k kind : Nat) : List (List Byte) :=
  (r.itemList k).zipIdx.filterMap fun (x, i) => if x.kind = kind then some (r.content k i) else none

/-- The records of `size` bytes of the items of a kind that are not all zero. -/
def FolioRun.records (r : FolioRun) (k kind size : Nat) : List (List Byte) :=
  ((r.contents k kind).flatMap fun c => (List.range (unitBytes / size)).map fun j => sub c (j * size) size).filter fun b =>
    !b.all (· == 0)

/-- The last image of the chain. -/
def FolioRun.last (r : FolioRun) : Nat := r.cmd.locs.length - 1

/-- The leaves that the last image's MAP items hold. -/
def FolioRun.leaves (r : FolioRun) : List Leaf := (r.records r.last 2 16).map mapRead

/-- The queues that the last image holds. -/
def FolioRun.queues (r : FolioRun) : List FolioQueue :=
  (r.records r.last 3 128).filterMap folioQueueRead

/-- The tallies that the last image holds. -/
def FolioRun.tallies (r : FolioRun) : List (Nat × QWord) :=
  (r.records r.last 4 32).map fun b => (leNat (b.take 2), BitVec.ofNat 128 (leNat (sub b 16 16)))

/-! ## The checks of R484 -/

/-- MAGIC, VERSION and SIGNATURE of the seal of image `k`. -/
def FolioRun.sealOk (r : FolioRun) (k : Nat) : Bool :=
  let b := r.seal k
  leNat (sub b 0 4) == 0x4F494C46 && leNat (sub b 4 1) == 1 && edVerify (sub b 128 57) (sub b 64 64) (sub b 192 114)

/-- Whether the writer of image `k` is trusted. -/
def writerTrusted (s : State) (r : FolioRun) (k : Nat) : Bool :=
  let key := sub (r.seal k) 128 57
  let d := leNat (shake 32 key)
  s.folio.trustMode != 1 || key == identityKey || (s.folio.trusted.any fun e => e.2.toNat == d)

/-- The chain rule for image `k`. -/
def chainOk (s : State) (r : FolioRun) (k : Nat) : Bool :=
  let b := r.seal k
  leNat (sub b 16 8) == (if k = 0 then 0 else r.idOf (k - 1)) && r.chainPos k == k &&
  leNat (sub b 28 4) / 1024 % 256 == tenantOf s r.cmd.ctx

/-- Whether the target holds a leaf of the last image: same address, size, KIND and permissions; a window leaf its page too. -/
def leafThere (s : State) (ctx : Nat) (l : Leaf) : Bool :=
  (leavesOf s ctx).any fun t =>
    t.va == l.va && t.size == l.size && leafKind t.word == leafKind l.word && fld t.word 3 4 == fld l.word 3 4 &&
    (leafKind l.word != 1 || (if leafDram l then leafDram t else leafAddr t.word == leafAddr l.word))

/-- Whether the target holds a queue of the last image. -/
def queueThere (s : State) (ctx : Nat) (f : FolioQueue) : Bool :=
  let q := s.queue f.number
  q.state != .disabled && q.ctx == ctx && q.cls.code == f.cls && q.log2 == f.log2

/-- Whether the target owns tally `n`. -/
def tallyThere (s : State) (ctx n : Nat) : Bool := (s.tally n).assigned && (s.tally n).owner == ctx

/-- Whether the last image's mappings, queues and tallies exist in the target, and their digests match. -/
def mappingOk (s : State) (r : FolioRun) : Bool :=
  let ctx := r.cmd.ctx
  r.leaves.all (leafThere s ctx) && r.queues.all (queueThere s ctx) && r.tallies.all (fun t => tallyThere s ctx t.1) &&
  (r.itemList r.last).zipIdx.all fun (x, i) => !(x.kind == 2 || x.kind == 3 || x.kind == 4) || r.digestOk r.last i x

/-- Why a chain fails its checks; an image that its source cuts short cannot be read. -/
def chainRefusal (s : State) (r : FolioRun) : Option Status :=
  let ks := List.range r.cmd.locs.length
  firstCase [
    (ks.any fun k => !r.sealOk k, Code.folioSignature),
    (ks.any fun k => !writerTrusted s r k, Code.folioSignature),
    (ks.any fun k => !chainOk s r k, Code.folioChainBroken),
    (ks.any fun k => !r.lengthOk k, Code.folioSinkFailed),
    (!mappingOk s r, Code.folioMapping)]

/-! ## Checking and writing the images (R474, R485) -/

/-- Write a PAGE item to the target's page at KEY, when the last image maps it there. -/
def restorePage (s : State) (r : FolioRun) (x : FolioItem) (bs : List Byte) : State :=
  let va := x.key * 65536
  if !r.leaves.any fun l => decide (l.va ≤ va) && decide (va < l.va + pageBytes l.size) then s else
  match findLeaf s r.cmd.ctx va with
  | none => s
  | some l => if leafDram l then dramWrite s (leafAddr l.word + (va - l.va)) bs (fun _ => x.poison) false else s

/-- Check the items of image `k` and write its pages; false where a digest differs. -/
def restoreItems (s : State) (r : FolioRun) (k : Nat) : Bool × State :=
  (r.itemList k).zipIdx.foldl (fun acc (x, i) =>
    if !acc.1 then acc
    else if !r.digestOk k i x then (false, acc.2)
    else (true, if x.kind = 0x10 then restorePage acc.2 r x (r.content k i) else acc.2)) (true, s)

/-- ROOT of image `k`. -/
def FolioRun.rootOf (r : FolioRun) (k : Nat) : List Byte := sub (r.seal k) 64 64

/-- Check and write image `k` as read again: its items, then its tree against the ROOT that the checks of R484 passed. -/
def restoreImage (s : State) (r : FolioRun) (k : Nat) : Bool × State :=
  let a := restoreItems s r k
  (a.1 && treeRoot (sub (r.seal k) 0 64) (r.itemList k) == r.roots.getD k [], a.2)

/-! ## Installing the last image's state (R486) -/

/-- STATE of R399 from its code. -/
def QState.ofCode (c : Nat) : QState :=
  if c = 2 then .active else if c = 3 then .waiting else if c = 4 then .halted else if c = 5 then .stopped else .idle

/-- CONTEXT: the ledgers. -/
def installContext (s : State) (r : FolioRun) : State :=
  let x := folioContextRead ((r.contents r.last 1).headD [])
  s.modCtx r.cmd.ctx fun c => { c with
    cmdsRetired := x.1 % 2 ^ 64, blksRetired := x.2.1 % 2 ^ 64, coreCycles := x.2.2 % 2 ^ 64,
    lastProgress := s.desk.steepNumber, starved := 0, promoted := false }

/-- TALLY: every word. -/
def installTallies (s : State) (r : FolioRun) : State :=
  r.tallies.foldl (fun s t => s.modTally t.1 fun x => { x with
    value := fld t.2 0 63, abandoned := bit t.2 63, lastStatus := BitVec.ofNat 16 (fld t.2 64 16) }) s

/-- A packet of a FROZEN queue of the target, read as the Desk will read it once the context is LIVE. -/
def readRing (s : State) (n : Nat) (pos : Word) : Except Status (BitVec 512 × State) :=
  let q := s.queue n
  match virtRead (s.modCtx q.ctx fun c => { c with state := .live }) .desk q.ctx (q.slotVa pos) 64 deskMayUse with
  | .ok (g, s) => .ok (packetOf g.bytes, s.modCtx q.ctx fun c => { c with state := .frozen })
  | .error (.poisoned _ _, _) | .error (.xlat (.poison _) _, _) => .error Code.poisonConsumed
  | .error _ => .error Code.translationFault

/-- QUEUE: the record of one queue; a WAITING queue's WAIT is read again from its ring. -/
def installQueue (s : State) (f : FolioQueue) : Except Status State :=
  let i := f.image
  let word (lo : Nat) : Word := BitVec.ofNat 32 (fld i lo 32)
  let st := QState.ofCode (fld i 96 3)
  let s := s.modQueue f.number fun q => { q with
    before := st, readPos := word 0, retiredPos := word 32, writePos := word 64, admitPos := word 0, bells := [], cur := [],
    opened := [], wait := none, pre := [], overBudget := [], copies := [], observed := word 64, skips := [], lastFailPos := word 128,
    lastFail := BitVec.ofNat 16 (fld i 112 16), cmdsRetired := fld i 192 64, blksRetired := fld i 256 64,
    coreCycles := fld i 320 64, lastProgress := s.desk.steepNumber }
  if st ≠ .waiting then .ok s else
  let pos := word 0 - 1
  (readRing s f.number pos).map fun p => p.2.modQueue f.number fun q => { q with wait := some ⟨pos.toNat, p.1, true⟩ }

/-- LAUNCH: one launch of a queue of the target, numbered `id`, its blocks not yet on any core; its command is open again. -/
def installLaunch (s : State) (ctx id : Nat) (f : FolioLaunch) : Except Status State :=
  if (s.queue f.queue).state ≠ .frozen ∨ (s.queue f.queue).ctx ≠ ctx then .ok s else
  (readRing s f.queue (BitVec.ofNat 32 f.pos)).map fun p =>
    let l : Launch := { queue := f.queue, pos := f.pos, packet := p.1, ctx := ctx, serving := false, desc := f.desc,
                        uniforms := f.uniforms, cores := [], next := f.next, retired := f.retired, channels := [],
                        started := true, steep := s.desk.steepNumber, ended := false }
    (p.2.setLaunch id (some l)).modQueue f.queue fun q => { q with opened := q.opened ++ [⟨f.pos, p.1⟩] }

/-- Saved work under the number of the launch that it belongs to now. -/
def renumber (w : CoreWork) (id : Nat) : CoreWork :=
  { w with
    launch := some id,
    groups := smap (fun _ => none) (fun _ (o : Option Group) => o.map fun g => { g with launch := id }) w.groups,
    blocks := smap (fun _ => none) (fun _ (o : Option Block) => o.map fun b => { b with launch := id }) w.blocks }

/-- CORE: the saved state of the cores, as blocks stopped on the cores of the same numbers; nothing of an L1 is kept (R270). -/
def installCores (s : State) (r : FolioRun) (base count : Nat) : State :=
  let keys := ((r.itemList r.last).filter fun x => x.kind == 7 && x.key % 16 == 0).map (·.key / 16)
  let item (k : Nat) : Option (FolioItem × Nat) := (r.itemList r.last).zipIdx.find? fun (x, _) => x.kind == 7 && x.key == k
  let chunk (k : Nat) : List Byte := (item k).elim [] fun (_, i) => r.content r.last i
  let bad (c j : Nat) : Bool := (item (16 * c + j)).any fun (x, _) => x.poison
  keys.foldl (fun s c =>
    let launch (n : Nat) : Option Launch := if n < count then s.launch (base + n) else none
    match folioCoreRead launch ((List.range 14).flatMap fun j => chunk (16 * c + j)) with
    | some (n, w) =>
      let w := (launch n).elim w fun l => markPoisoned l (bad c) w
      if c < coreCount then s.modCore c fun k => { k with saved := k.saved ++ [renumber w (base + n)], prevCtx := none } else s
    | none => s) s

/-- WATCH: event watches are registered again to EVENT_SESSION when EVENTS_EN = 1; one that is met fires once (R321). -/
def installWatches (s : State) (r : FolioRun) : State :=
  let p := r.cmd.packet
  let session := arg p 0 32 8
  if arg p 0 40 1 = 0 then s else
  (r.records r.last 5 32).foldl (fun s b =>
    match folioWatchRead b with
    | some w => if w.isQueue then s else
        (eventWatch s (if w.every then .every session else .once session) w.tally w.target r.cmd.ctx).2
    | none => s) s

/-- Steps that may fail, in order. -/
def foldOk {α : Type} (xs : List α) (s : State) (f : State → α → Except Status State) : Except Status State :=
  xs.foldl (fun a x => match a with
    | .ok s => f s x
    | .error st => .error st) (.ok s)

/-- The whole state of the last image. -/
def installState (s : State) (r : FolioRun) : Except Status State :=
  let ctx := r.cmd.ctx
  let launches := (r.records r.last 6 512).filterMap folioLaunchRead
  let base := s.desk.nextLaunch
  match foldOk r.queues (installTallies (installContext s r) r) installQueue with
  | .error st => .error st
  | .ok s =>
    let s : State := { s with desk := { s.desk with nextLaunch := base + launches.length } }
    (foldOk launches.zipIdx s fun s (f, i) => installLaunch s ctx (base + i) f).map fun s =>
      let s := installWatches (installCores s r base launches.length) r
      clearDirty (s.modCtx ctx fun c => { c with folioLastId := r.idOf r.last, folioChain := r.chainPos r.last }) ctx

/-! ## FOLIO_RESTORE_COMPLETE -/

/-- A restore ends by a check (R484, R487). -/
def failRestore (s : State) (r : FolioRun) (st : Status) : State :=
  endUnfrozen { s with folio := { s.folio with restoreFails := satAdd 64 s.folio.restoreFails 1 } } r st

/-- The target becomes LOST (R360, R485); the record names the Desk and the command. -/
def loseTarget (s : State) (r : FolioRun) (st : Status) : State :=
  let ctx := r.cmd.ctx
  let s := s.modCtx ctx fun c => { c with state := .live }
  let s := raiseFault s { ctx := ctx, status := st, kind := 3, unit := 0, core := 0, slot := 0, lane := none,
                          queue := r.cmd.queue, pos := r.cmd.pos, pc := 0, va := none, pa := none }
  failRestore s r st

/-- The target is frozen: its launches end, and the restore reads the first image again (R485). -/
def beginReading (s : State) (r : FolioRun) : State :=
  match r.failure with
  | some st => endInThaw { s with folio := { s.folio with restoreFails := satAdd 64 s.folio.restoreFails 1 } } r st
  | none =>
    let s := enterFrozen s r.cmd.ctx
    let s := (launchesOf s r.cmd.ctx).foldl discardLaunch s
    beginFetch (modRun s fun r =>
      { r with phase := .reading, bytes := 0, roots := (List.range r.cmd.locs.length).map r.rootOf }) 0

/-- Every image is checked and written: install the state of the last (R486). -/
def performRestore (s : State) (r : FolioRun) : State :=
  match installState s r with
  | .error st => loseTarget s r st
  | .ok s => endInThaw { s with folio := { s.folio with restores := satAdd 64 s.folio.restores 1 } } r Code.success

/-- A restore that reads its images again: the image that has arrived is checked and written, then the next is read (R485). -/
def advanceReading (s : State) (r : FolioRun) : State :=
  match r.failure with
  | some st => loseTarget s r st
  | none =>
    if !r.imageGot r.image then s else
    let a := restoreImage s r r.image
    if !a.1 then loseTarget a.2 r Code.folioDigest
    else if r.image + 1 < r.cmd.locs.length then beginFetch a.2 (r.image + 1)
    else performRestore a.2 r

/-- A restore that is reading: the next image, or the checks of the whole chain. -/
def advanceFetch (s : State) (r : FolioRun) : State :=
  match r.failure with
  | some st => failRestore s r st
  | none =>
    if !r.imageGot r.image then s
    else if r.image + 1 < r.cmd.locs.length then beginFetch s (r.image + 1)
    else match chainRefusal s r with
      | some st => failRestore s r st
      | none => modRun s fun r => { r with phase := .waitBoundary }

/-- FOLIO_RESTORE_COMPLETE (R484 to R486). -/
def execFolioRestoreComplete (s : State) : Out :=
  match s.folio.run with
  | none => .next s
  | some r =>
    if !bit s.power.clocks 1 || r.cmd.kind != .restore then .next s
    else if r.phase = .fetching then .next (advanceFetch s r)
    else if r.phase = .reading then .next (advanceReading s r)
    else if r.phase ≠ .freezing ∨ !frozenDone s r.cmd.ctx then .next s
    else if (s.ctx r.cmd.ctx).state ≠ .live then .next (endUnfrozen s r Code.contextLost)
    else .next (beginReading s r)

end Sys2Proof.Machine
end

