-- ==== Sys2Proof/Machine/Matrix.lean ====
section
/-! DEFINITION. The outer-product matrix engine: hand-off, the conditions of start, the products and their accumulation, the
stores of tiles (06_matrix_engine.md, R136 to R141). -/

namespace Sys2Proof.Machine

/-! ## Formats and layout -/

/-- Whether a type code is a Leaf format (R106). -/
def isLeaf (t : Nat) : Bool := decide (3 ≤ t) && decide (t ≤ 6)

/-- Bits of an element in an operand buffer (R144, the table above R180). -/
def mxBits (t : Nat) : Nat :=
  if t = 0 then 32 else if t = 1 then 16 else if t = 6 ∨ t = 8 then 4 else if t = 9 then 2 else 8

/-- Depth of an `mx.op`. -/
def mxDepth (f : XFields) : Nat := f.kM1.toNat + 1

/-- The block of CADDY; 0 without one. -/
def mxBlock (f : XFields) : Nat := if f.caddy = 0 then 0 else 16 * f.caddy.toNat

/-- Bytes of an operand's squares (R180). -/
def mxPanel (f : XFields) (t : Nat) : Nat := cdiv (mxDepth f) 32 * (128 * mxBits t)

/-- Bytes of an operand's extent: its squares and its Caddy area (R181, R182). -/
def mxExtent (f : XFields) (t : Nat) : Nat :=
  mxPanel f t + (if f.caddy ≠ 0 ∧ isLeaf t then 32 * mxDepth f / mxBlock f else 0)

/-- The operand pairs of R177. -/
def mxPairOk (a b expand : Nat) : Bool :=
  if expand = 0 then (isLeaf a && isLeaf b) || (a == 1 && b == 1) || (a == 0 && b == 0)
  else (isLeaf a || a == 1) && (b == 8 || b == 9 || (b == 7 && expand == 2))

/-- R139 and the reserved fields of the X format. -/
def mxOpOk (f : XFields) : Bool :=
  let a := f.fmtA.toNat
  let b := f.fmtB.toNat
  f.guard == ⟨false, false, 0⟩ && f.rsv == 0 && f.expand != 3 && f.caddy != 3 && mxPairOk a b f.expand.toNat &&
  (f.caddy == 0 || ((isLeaf a || isLeaf b) && mxDepth f % mxBlock f == 0)) &&
  decide (32 * f.aOff.toNat + mxExtent f a ≤ 65536) && decide (32 * f.bOff.toNat + mxExtent f b ≤ 65536)

/-- d of R177. -/
def mxD (f : XFields) : Nat := if f.fmtA = 0 then 16 else if f.fmtA = 1 then 4 else 1

/-- m of R177 under ENTRY_FMT (R178). -/
def mxM (f : XFields) (entryFmt : Nat) : Nat :=
  if isLeaf f.fmtA.toNat && ((f.expand == 0 && f.fmtB == 6) || (f.expand == 1 && decide (entryFmt < 2))) then 2 else 1

/-- Array cycles of an `mx.op` (R175). -/
def mxSpan (f : XFields) (entryFmt : Nat) : Nat := mxD f * cdiv (mxDepth f) (mxM f entryFmt) + 62

/-! ## Element values (R151 to R161, R180, R181, R184) -/

/-- `n` bits of a byte map from bit `pos` on, of at most one byte or of whole bytes. -/
def mapBits (m : SMap Byte) (pos n : Nat) : Nat :=
  if n < 8 then (sget (fun _ => 0) m (pos / 8)).toNat >>> (pos % 8) % 2 ^ n
  else leNat ((List.range (n / 8)).map fun i => sget (fun _ => 0) m (pos / 8 + i))

/-- The code of lane `n` and depth `k` of a panel at byte `off` (R180). -/
def mxCode (m : SMap Byte) (off t : Nat) (axis : Bool) (n k : Nat) : Nat :=
  let r := if axis then n else k % 32
  let c := if axis then k % 32 else n
  mapBits m (8 * off + (k / 32) * (1024 * mxBits t) + r * (32 * mxBits t) + c * mxBits t) (mxBits t)

/-- A value as the products see it. -/
def fZero : FVal := .fin false 0 0

/-- A Leaf code under Caddy `c`, exactly (R151, R153, R154, R156). -/
def leafVal (t mode : Nat) (c : Option Nat) (code : Nat) : FVal :=
  if c = some 0 then fZero else if c = some 255 then .nan 0 false else
  match leafDecode t mode code with
  | none => .nan 0 false
  | some (neg, m) =>
    if m = 0 then fZero else
    match c with
    | none => .fin neg m (-(leafUnit t : Int))
    | some c => let v := caddyValue c; .fin neg (m * v.1) (v.2 - leafUnit t)

/-- An operand element without expansion. -/
def mxVal (t mode : Nat) (c : Option Nat) (code : Nat) : FVal :=
  if t = 0 then unpack f32 (flushIn f32 mode code) else if t = 1 then unpack f16 (flushIn f16 mode code)
  else leafVal t mode c code

/-- An exact product; infinity times zero is a NaN (R138, R161). -/
def mxMul : FVal → FVal → FVal
  | .nan c s, _ => .nan c s
  | _, .nan c s => .nan c s
  | .fin n m e, .fin n' m' e' => .fin (n != n') (m * m') (e + e')
  | .inf n, .inf n' => .inf (n != n')
  | .inf n, .fin n' m' _ => if m' = 0 then .nan 0 false else .inf (n != n')
  | .fin n m _, .inf n' => if m = 0 then .nan 0 false else .inf (n != n')

/-- One accumulation in binary32 (R138, R188). -/
def mxAcc (mode acc : Nat) (p : FVal) : Nat :=
  let r := match unpack f32 (flushIn f32 mode acc), p with
    | .nan _ _, _ => f32.nan
    | _, .nan _ _ => f32.nan
    | .inf a, .inf b => if a == b then b2n a * f32.signBit + f32.infCode else f32.nan
    | .inf a, .fin _ _ _ => b2n a * f32.signBit + f32.infCode
    | .fin _ _ _, .inf b => b2n b * f32.signBit + f32.infCode
    | .fin n m e, .fin n' m' e' => (addFin f32 0 n m e n' m' e').1
  (flushOut f32 mode (r, fNone)).1

/-- The weight of an integer code under EXPAND, group `g` (R157 to R161, R185, R186). -/
def mxWeight (x : MxEngine) (mode expand bits g code : Nat) : FVal :=
  if expand = 1 then
    if mapBits x.tbl 0 2 < 2 then leafVal (3 + mapBits x.tbl 0 2) mode none (mapBits x.tbl (8 * (32 + 32 * g + code)) 8)
    else unpack f16 (flushIn f16 mode (mapBits x.tbl (8 * (32 + 32 * g + 2 * code)) 16))
  else
    let q := sgn bits code - sgn 8 (mapBits x.scl (8 * (4 * g + 2)) 8)
    mxMul (.fin (decide (q < 0)) q.natAbs 0) (unpack f16 (flushIn f16 mode (mapBits x.scl (8 * (4 * g)) 16)))

/-- The Caddy of lane `n` at depth `k` of an operand of type `t` at byte `off` (R181). -/
def mxCaddy (m : SMap Byte) (f : XFields) (off t n k : Nat) : Option Nat :=
  if f.caddy = 0 ∨ !isLeaf t then none
  else some (sget (fun _ => 0) m (off + mxPanel f t + k / mxBlock f * 32 + n)).toNat

/-- a(i, k). -/
def mxA (x : MxEngine) (mode : Nat) (f : XFields) (i k : Nat) : FVal :=
  let t := f.fmtA.toNat
  let off := 32 * f.aOff.toNat
  mxVal t mode (mxCaddy x.bufA f off t i k) (mxCode x.bufA off t f.axisA i k)

/-- b(k, j). -/
def mxB (x : MxEngine) (mode : Nat) (f : XFields) (k j : Nat) : FVal :=
  let t := f.fmtB.toNat
  let off := 32 * f.bOff.toNat
  let code := mxCode x.bufB off t f.axisB j k
  if f.expand = 0 then mxVal t mode (mxCaddy x.bufB f off t j k) code
  else mxWeight x mode f.expand.toNat (mxBits t) (k / 128 * 32 + j) code

/-- Element [i][j] of a tile. -/
def mxElem (x : MxEngine) (t i j : Nat) : Nat := (sget (fun _ => 0) x.acc (1024 * t + 32 * i + j)).toNat

/-- Element [i][j] after an `mx.op` (R138, R179, R188, R189). -/
def mxCell (x : MxEngine) (mode : Nat) (f : XFields) (as bs : List FVal) (i j : Nat) : Nat :=
  (as.zip bs).foldl (fun acc p => mxAcc mode acc (mxMul p.1 p.2)) (if f.zero then 0 else mxElem x f.acc.toNat i j)

/-- The tile after an `mx.op`. -/
def mxOpTile (x : MxEngine) (mode : Nat) (f : XFields) : MxEngine :=
  let ks := List.range (mxDepth f)
  let as := (List.range 32).map fun i => ks.map (mxA x mode f i)
  let bs := (List.range 32).map fun j => ks.map fun k => mxB x mode f k j
  let cells := as.zipIdx.flatMap fun a => bs.zipIdx.map fun b => BitVec.ofNat 32 (mxCell x mode f a.1 b.1 a.2 b.2)
  let t := f.acc.toNat
  { x with acc := sfill (fun _ => 0) x.acc (1024 * t) 1024 fun i => cells.getD i 0, live := setBit x.live t true }

/-- A tile becomes +0 and is no longer live (R141, R189, R200). -/
def mxClear (x : MxEngine) (t : Nat) : MxEngine :=
  { x with acc := sfill (fun _ => 0) x.acc (1024 * t) 1024 fun _ => 0, live := setBit x.live t false }

/-! ## Hand-off (R136, R139, R187, R190, R191, R197) -/

/-- The local-store range check of an engine instruction: `n` bytes from `a` within the block's local store. -/
def mxRange (e : Env) (a n : Nat) : Bool := a + n ≤ e.l.lsPer * 1024

/-- The local-store base of a group's block. -/
def lsBase (e : Env) : Nat := ((blockOf e.s e.c e.g).map (·.region)).getD 0 * e.l.lsBlk

/-- Whether the engine queue can take an instruction: while it is full no group that would hand one off is ready (R72, R191). -/
def mxFree (e : Env) : Bool := decide ((e.s.core e.c).work.mx.queue.length < 16)

/-- Hand an instruction to the engine (R191). -/
def handOff (e : Env) (i : Form) (x : MxKind) : State :=
  let s := e.s.modMx e.c fun m => { m with queue := m.queue ++
    [{ kind := x, slot := e.k, pc := e.g.pc, base := lsBase e, before := e.s.nextAcc, started := false, span := 0 }] }
  advance e i s

/-- The form of an `mx.` instruction of the R format with its roles of SRC_A, SRC_B and SRC_C. -/
def mxForm (f : RFields) (a b c : Role) (modOk : Bool) : Form := rForm f .unused a b c modOk true true

/-- A uniform source register. -/
def uReg (e : Env) (c : BitVec 9) : Nat := (e.g.reg 0 c.toNat).toNat

/-- Check and hand off: misaligned before local store range (R92). -/
def mxIssue (e : Env) (i : Form) (aligned inRange : Bool) (x : MxKind) : Except Trap State :=
  if !aligned then .error (Trap.plain Code.misaligned)
  else if !inRange then .error (Trap.plain Code.localStoreRange)
  else .ok (handOff e i x)

/-- `mx.ld` (R136). A byte count below 32 raises the local-store range fault, a choice of the model's where R136 names no fault for it
(LOG 136). -/
def execMxLd (r : GroupRef) (f : RFields) (s : State) : Out :=
  let i := mxForm f (.reg 1) (.reg 1) (.reg 1) (fld f.mod 1 11 == 0)
  issueTo s r i mxFree fun e =>
    let a := uReg e f.srcA
    let n := uReg e f.srcB
    let o := uReg e f.srcC
    mxIssue e i (a % 32 == 0 && n % 32 == 0 && o % 32 == 0)
      (decide (32 ≤ n) && decide (o + n ≤ 65536) && mxRange e a n) (.ld (bit f.mod 0) a n o)

/-- `mx.ldx`. -/
def execMxLdx (r : GroupRef) (f : RFields) (s : State) : Out :=
  let i := mxForm f (.reg 1) (.reg 1) .zr (fld f.mod 1 11 == 0)
  issueTo s r i mxFree fun e =>
    let a := uReg e f.srcA
    let n := uReg e f.srcB
    mxIssue e i (a % 32 == 0 && n % 32 == 0)
      (decide (32 ≤ n) && decide (n ≤ if bit f.mod 0 then 512 else 4128) && mxRange e a n) (.ldx (bit f.mod 0) a n)

/-- `mx.op`. -/
def execMxOp (r : GroupRef) (f : XFields) (s : State) : Out :=
  let i : Form := { guard := f.guard, dsts := [], srcs := [], legal := mxOpOk f, uniform := true }
  issueTo s r i mxFree fun e => .ok (handOff e i (.op f))

/-- Bytes of an element of `mx.st`. -/
def mxStSize (t : Nat) : Nat := if t = 0 then 4 else if t = 1 then 2 else 1

/-- `mx.st`. -/
def execMxSt (r : GroupRef) (f : RFields) (s : State) : Out :=
  let t := fld f.mod 0 4
  let i := mxForm f (.reg 1) (.reg 1) .zr ([0, 1, 3, 4].contains t && fld f.mod 8 4 == 0)
  issueTo s r i mxFree fun e =>
    let a := uReg e f.srcA
    let b := uReg e f.srcB
    mxIssue e i (a % 32 == 0 && b % 32 == 0) (mxRange e a (31 * b + 32 * mxStSize t))
      (.st (BitVec.ofNat 4 t) (fld f.mod 4 3) (bit f.mod 7) a b)

/-- `mx.zero`. -/
def execMxZero (r : GroupRef) (f : RFields) (s : State) : Out :=
  let i := mxForm f .zr .zr .zr (fld f.mod 0 4 == 0 && fld f.mod 7 5 == 0)
  issueTo s r i mxFree fun e => .ok (handOff e i (.zero (fld f.mod 4 3)))

/-- `mx.sync`: ready once the group's earlier instructions have completed (R196). -/
def execMxSync (r : GroupRef) (f : RFields) (s : State) : Out :=
  let i := mxForm f .zr .zr .zr (f.mod == 0)
  issueTo s r i (fun e => !(e.s.core e.c).work.mx.queue.any (·.slot == e.k)) fun e => .ok (advance e i e.s)

/-! ## Dependences (R192 to R195) -/

/-- The pipe of an instruction (R192). -/
def MxKind.pipe : MxKind → MxPipe
  | .ld _ _ _ _ | .ldx _ _ _ => .load
  | .op _ | .zero _ => .array
  | .st _ _ _ _ _ => .store

/-- A resource: space (0 buffer A, 1 buffer B, 2 table, 3 scales, 4 tiles, 5 local store), first byte or number, length. -/
structure MxRes where
  space : Nat
  lo    : Nat
  n     : Nat
  deriving DecidableEq, Repr

/-- Whether two resources have a part in common. -/
def MxRes.meets (x y : MxRes) : Bool := x.space == y.space && decide (x.lo < y.lo + y.n) && decide (y.lo < x.lo + x.n)

/-- Whether two lists of resources have a part in common. -/
def meets (xs ys : List MxRes) : Bool := xs.any fun x => ys.any x.meets

/-- The operand extents and images that an `mx.op` reads. -/
def opReads (f : XFields) : List MxRes :=
  [⟨0, 32 * f.aOff.toNat, mxExtent f f.fmtA.toNat⟩, ⟨1, 32 * f.bOff.toNat, mxExtent f f.fmtB.toNat⟩] ++
  (if f.expand = 1 then [⟨2, 0, 1⟩] else if f.expand = 2 then [⟨3, 0, 1⟩] else [])

/-- What an instruction reads (R193). -/
def MxEntry.reads (e : MxEntry) : List MxRes :=
  match e.kind with
  | .ld _ src n _ | .ldx _ src n => [⟨5, e.base + src, n⟩]
  | .op f => ⟨4, f.acc.toNat, 1⟩ :: opReads f
  | .st _ t _ _ _ => [⟨4, t, 1⟩]
  | .zero _ => []

/-- What an instruction writes (R193). -/
def MxEntry.writes (e : MxEntry) : List MxRes :=
  match e.kind with
  | .ld b _ n off => [⟨b2n b, off, n⟩]
  | .ldx b _ _ => [⟨2 + b2n b, 0, 1⟩]
  | .op f => [⟨4, f.acc.toNat, 1⟩]
  | .st typ t clear dst stride =>
    (List.range 32).map (fun i => ⟨5, e.base + dst + i * stride, 32 * mxStSize typ.toNat⟩) ++
    (if clear then [⟨4, t, 1⟩] else [])
  | .zero t => [⟨4, t, 1⟩]

/-- Whether `x` must wait for the earlier `y` that has not completed (R193, R194). A started `mx.op` has read its operands, and
the array pipe chains (R176). -/
def mxWaits (x y : MxEntry) : Bool :=
  let isLdx := match y.kind with | .ldx _ _ _ => true | _ => false
  let expands := match x.kind with | .op f => f.expand != 0 | _ => false
  if y.started && y.kind.pipe == .array then
    x.kind.pipe != .array && (meets y.writes x.reads || meets y.writes x.writes)
  else meets y.writes x.reads || meets y.writes x.writes || meets y.reads x.writes || (isLdx && expands)

/-- The group's local-store writes before the hand-off have been performed (R136). -/
def mxLocalDone (s : State) (c : Nat) (e : MxEntry) : Bool :=
  match e.kind with
  | .ld _ _ _ _ | .ldx _ _ _ => !s.accesses.any fun a =>
      a.engine == .group c e.slot && a.open && a.writesMem && !a.win && a.target == .localStore c && decide (a.ins < e.before)
  | _ => true

/-- The poisoned units among those that an `mx.op` reads (R198, R199): its extents, the header and slots or pairs it uses. -/
def mxPoison (x : MxEngine) (f : XFields) : Bool :=
  let any (m : SMap Bool) (lo n : Nat) : Bool := n != 0 && (List.range ((lo + n - 1) / 32 - lo / 32 + 1)).any fun i =>
    sget (fun _ => false) m (lo / 32 + i)
  let groups := (List.range (cdiv (mxDepth f) 128)).map (32 * ·)
  any x.poiA (32 * f.aOff.toNat) (mxExtent f f.fmtA.toNat) || any x.poiB (32 * f.bOff.toNat) (mxExtent f f.fmtB.toNat) ||
  (f.expand == 1 && (any x.poiTbl 0 32 || groups.any fun g => any x.poiTbl (32 + 32 * g) 1024)) ||
  (f.expand == 2 && groups.any fun g => any x.poiScl (4 * g) 128)

/-- The fault that an `mx.op` meets when it would start (R198). -/
def mxStartTrap (x : MxEngine) (f : XFields) : Option Status :=
  if f.expand = 1 ∧ mapBits x.tbl 0 2 = 3 then some Code.illegalInstruction
  else if mxPoison x f then some Code.poisonConsumed else none

/-! ## Effects -/

/-- `mx.ld` and `mx.ldx` copy local store with its poison flags (R136, R187, R199). -/
def mxCopy (s : State) (c : Nat) (e : MxEntry) : State :=
  let go (src n off : Nat) (put : MxEngine → (SMap Byte → SMap Byte) → (SMap Bool → SMap Bool) → MxEngine) : State :=
    let g := lsRead s c (e.base + src) n
    s.modMx c fun x => put x
      (fun m => sfill (fun _ => 0) m off n fun i => g.bytes.getD i 0)
      (fun m => sfill (fun _ => false) m (off / 32) (n / 32) fun i => g.poison.getD i false)
  match e.kind with
  | .ld false src n off => go src n off fun x b p => { x with bufA := b x.bufA, poiA := p x.poiA }
  | .ld true src n off => go src n off fun x b p => { x with bufB := b x.bufB, poiB := p x.poiB }
  | .ldx false src n => go src n 0 fun x b p => { x with tbl := b x.tbl, poiTbl := p x.poiTbl }
  | .ldx true src n => go src n 0 fun x b p => { x with scl := b x.scl, poiScl := p x.poiScl }
  | _ => s

/-- The code of one stored element (R140, R149, R170). -/
def mxStCode (typ mode acc : Nat) : Nat :=
  if typ = 0 then (flushOut f32 mode (acc, fNone)).1
  else if typ = 1 then (cvtFF f32 f16 mode 0 acc).1
  else (caddyEncode typ mode 0 127 acc).1

/-- `mx.st`: rows in ascending order, later rows over earlier ones (R140, R190). -/
def mxStore (s : State) (c mode : Nat) (e : MxEntry) : State :=
  match e.kind with
  | .st typ t clear dst stride =>
    let x := (s.core c).work.mx
    let s := (List.range 32).foldl (fun s i =>
      lsWrite s c (e.base + dst + i * stride) ((List.range 32).flatMap fun j =>
        leBytes (mxStSize typ.toNat) (mxStCode typ.toNat mode (mxElem x t i j))) fun _ => false) s
    if clear then s.modMx c fun x => mxClear x t else s
  | _ => s

/-- The first entry of a pipe that has not started, with the entries before it. -/
def mxNext (q : List MxEntry) (p : MxPipe) : Option (List MxEntry × MxEntry) :=
  match q.findIdx? fun e => e.kind.pipe == p && !e.started with
  | some i => q[i]?.map fun e => (q.take i, e)
  | none => none

/-- The subnormal mode of the launch on a core. -/
def coreMode (s : State) (c : Nat) : Nat := (((s.core c).work.launch.bind s.launch).map Launch.subnormal).getD 0

/-- Mark the entry at position `i` started and apply what happens at its start. -/
def mxBegin (s : State) (c i : Nat) (e : MxEntry) : State :=
  let mode := coreMode s c
  s.modMx c fun x =>
    let span := match e.kind with | .op f => mxSpan f (mapBits x.tbl 0 2) | _ => 0
    let x := { x with queue := x.queue.set i { e with started := true, span := span } }
    match e.kind with
    | .op f => mxOpTile x mode f
    | .zero t => mxClear x t
    | _ => x

/-- The fault record's view of an engine instruction (R198, R600). -/
def mxInfo (ctx core : Nat) (e : MxEntry) (st : Status) : FaultInfo :=
  { ctx := ctx, status := st, kind := 1, unit := e.slot / 16 % 4, core := core, slot := e.slot % 16, lane := none, queue := 0,
    pos := 0, pc := e.pc, va := none, pa := none }

/-- MX_START: the pipe's next instruction starts, or faults (R192 to R195, R198); after a fault the engine goes on with what it had
accepted (R91). Of what was accepted after a faulting instruction everything is discarded, also what has started in another pipe, a
choice of the model's (LOG 135). -/
def execMxStart (core : Nat) (pipe : MxPipe) (s : State) : Out :=
  let k := s.core core
  if !(k.stage == .running || k.stage == .faulted) ∨ !clusterUp s (core / 16) then .next s else
  match mxNext k.work.mx.queue pipe with
  | none => .next s
  | some (before, e) =>
    let busy := pipe != .array && before.any fun y => y.started && y.kind.pipe == pipe
    if busy || before.any (mxWaits e) || !mxLocalDone s core e then .next s else
    let trap := match e.kind with | .op f => mxStartTrap k.work.mx f | _ => none
    match trap with
    | some st =>
      let s := s.modMx core fun x => { x with queue := before }
      .next (match k.work.launch.bind s.launch with
        | some l => raiseFault s (mxInfo l.ctx core e st)
        | none => s)
    | none => .next (mxBegin s core before.length e)

/-- MX_COMPLETE: the pipe's oldest started instruction completes (R175, R195). -/
def execMxComplete (core : Nat) (pipe : MxPipe) (s : State) : Out :=
  let q := (s.core core).work.mx.queue
  if !clusterUp s (core / 16) then .next s else
  match q.findIdx? fun e => e.kind.pipe == pipe && e.started with
  | none => .next s
  | some i =>
    match q[i]? with
    | none => .next s
    | some e =>
      let s := match e.kind with
        | .ld _ _ _ _ | .ldx _ _ _ => mxCopy s core e
        | .st _ _ _ _ _ => mxStore s core (coreMode s core) e
        | _ => s
      .next (s.modMx core fun x => { x with queue := x.queue.eraseIdx i })

end Sys2Proof.Machine
end

