-- ==== Sys2Proof/Machine/Steep.lean ====
section
/-! DEFINITION. The Steep boundary (R364 to R368, R385, R391 to R399, R361, R467, R480, R509, R561, R572). -/

namespace Sys2Proof.Machine

/-! ## When (R364, R366, R367) -/

/-- The next Steep opens. -/
def openSteep (s : State) (t : Nat) : State :=
  { s with
      power := { s.power with now := Nat.max s.power.now t },
      desk := { s.desk with steepNumber := s.desk.steepNumber + 1, steepStart := t } }

/-- USED_CORE_US of the Steep that has ended (R401). -/
def closeSlots (s : State) : State :=
  { s with desk := { s.desk with
      slots := smap (fun _ => Slot.reset) (fun _ (x : Slot) => { x with used := x.usedNow, usedNow := 0 }) s.desk.slots } }

/-! ## The thermal governor (R571, R572) -/

/-- A whole number in binary32. -/
def b32 (n : Nat) : Word := BitVec.ofNat 32 (roundTo f32 0 false n 0).1

/-- x ≥ n for a reading. -/
def atLeast (x : Word) (n : Nat) : Bool := !isNan f32 x.toNat && fCmp f32 x.toNat (b32 n).toNat != .lt

/-- x ≤ n for a reading. -/
def atMost (x : Word) (n : Nat) : Bool := !isNan f32 x.toNat && fCmp f32 x.toNat (b32 n).toNat != .gt

/-- The clock step that the governor asks for, before the cap. -/
def governorStep (p : Power) : Nat :=
  let t := p.dramTemp
  let f := p.arithMHz
  if atLeast t 93 || atLeast p.logicTemp 103 then f - 400
  else if atLeast t 90 || atLeast p.logicTemp 100 || hotter p.powerW (b32 p.limitW) then f - 200
  else if atMost t 87 && atMost p.logicTemp 95 && atMost p.powerW (p.limitW - 10) then f + 200
  else f

/-- The governor's choice for the new Steep. -/
def governor (s : State) : State :=
  let p := s.power
  let f := Nat.max 800 (Nat.min (governorStep p) p.capMHz)
  { s with power := { p with arithMHz := f, throttles := if f < p.arithMHz then satAdd 64 p.throttles 1 else p.throttles } }

/-! ## Stops of the boundary (R333, R361, R561) -/

/-- Stop the launch of core `c` for a domain reset; one with bound channels stops on all its cores (R333). -/
def stopForReset (s : State) (c : Nat) : State :=
  match (s.core c).work.launch with
  | none => s
  | some n => match s.launch n with
    | some l => if l.channels = [] then stopCore s c else stopLaunch s n
    | none => s

/-- The boundary's part in the cluster resets that wait for it (R561 step 2). -/
def stopResets (s : State) : State :=
  let due := s.power.resets.filter fun r => !r.stopped && decide (r.dom < 27)
  let s := due.foldl (fun s r => (domainCores r.dom).foldl stopForReset s) s
  { s with power := { s.power with resets := s.power.resets.map fun (r : DomReset) => { r with stopped := true } } }

/-- Groups of contexts in teardown stop without a save (R361 step 2). -/
def stopTeardowns (s : State) : State :=
  let due := s.desk.teardowns.filter fun t => !t.stopped
  let s := due.foldl (fun s t => (launchesOf s t.ctx).foldl discardLaunch s) s
  { s with desk := { s.desk with teardowns := s.desk.teardowns.map fun (t : Teardown) => { t with stopped := true } } }

/-! ## Promotion (R396) -/

/-- Whether a context has a dispatched launch with unplaced or stopped blocks. -/
def runnableNow (s : State) (ctx : Nat) : Bool :=
  (olist s.desk.launches).any fun e =>
    e.2.ctx == ctx && (decide (e.2.next < e.2.blocks) || s.cores.any fun c => c.2.hasSaved e.1)

/-- The update of one LIVE loaned context; `runnable` says whether it is runnable at this boundary. -/
def Ctx.boundary (c : Ctx) (runnable : Bool) (limit : Nat) : Ctx :=
  let starved := if c.wasRunnable && runnable && !c.moved then Nat.min 65535 (c.starved + 1) else 0
  { c with starved := starved, promoted := !c.moved && (c.promoted || decide (limit ≤ starved)), wasRunnable := runnable }

/-- What advanced before the boundary was acted on belongs to the new Steep (R365). -/
def Ctx.roll (c : Ctx) : Ctx := { c with moved := c.movedNext, movedNext := false }

/-- Update one context. -/
def boundaryCtx (s : State) (n : Nat) : State :=
  let c := s.ctx n
  if c.state = .live ∧ c.loaned then s.modCtx n fun c => (c.boundary (runnableNow s n) s.desk.promoteSteeps).roll
  else if c.state = .frozen then s.modCtx n Ctx.roll
  else s.modCtx n fun c => ({ c with promoted := false } : Ctx).roll

/-- The promotions and demotions of a boundary: the order of promotion, ties to the lower context number, and the context that
holds the floor. -/
def updatePromotion (s : State) : State :=
  let s := (keysOf s.ctxs).foldl boundaryCtx s
  let order := s.desk.promoOrder.filter fun n => (s.ctx n).promoted
  let fresh := (keysOf s.ctxs).filter fun n => (s.ctx n).promoted && !order.contains n
  let order := order ++ fresh
  { s with desk := { s.desk with
      promoOrder := order, promotedCtx := (order.find? fun n => (s.ctx n).state == .live).getD 0xFFFF } }

/-! ## Admission (R393) -/

/-- BW(q): the write position from the doorbells stamped before `t`. -/
def bellPos (q : Queue) (t : Nat) : Word :=
  match (q.bells.filter fun b => decide (b.1 < t)).getLast? with
  | some b => b.2
  | none => q.admitPos

/-- Doorbells that a later boundary still needs: the last one before `t`, and those from `t` on. -/
def Queue.pruneBells (q : Queue) (t : Nat) : Queue :=
  let old := q.bells.filter fun b => decide (b.1 < t)
  { q with bells := old.getLast?.toList ++ q.bells.filter fun b => !decide (b.1 < t) }

/-- The Desk's read of `k` bytes for admission: none where they cannot be read, which the packet's dispatch meets again; the state
alone where it waits for a migration, which ends the slot's turn (R351, R393). -/
def admitRead (s : State) (n pos va k : Nat) : Except State (Option (List Byte) × State) :=
  match virtRead s .desk (s.queue n).ctx va k deskMayUse with
  | .ok (g, s) => .ok (some g.bytes, s)
  | .error (.xlat (.migrate page) va, s) => .error (deskFails s n pos va (.xlat (.migrate page) va))
  | .error (_, s) => .ok (none, s)

/-- The packet at ADMIT_POS: as it was fetched or pre-decoded, or read now. -/
def admitPacket (s : State) (n : Nat) : Except State (Option Fetched × State) :=
  let q := s.queue n
  let pos := q.admitPos.toNat
  match (q.cur ++ q.pre).find? fun f => f.pos == pos with
  | some f => .ok (some f, s)
  | none => (admitRead s n pos (q.slotVa q.admitPos) 64).map fun r => (r.1.map fun bs => ⟨pos, packetOf bs, none⟩, r.2)

/-- The descriptor that a fetched LAUNCH names, read once: dispatch uses the same copy (R374, R382, R393). -/
def admitDesc (s : State) (n : Nat) (f : Fetched) : Except State (Option (BitVec 1024) × State) :=
  let va := arg f.packet 0 0 56
  if cmdOf f.packet ≠ 1 ∨ packetStatus .serving f.packet ≠ Code.success ∨ va % 128 ≠ 0 then .ok (none, s) else
  match f.desc with
  | some d => .ok (some d, s)
  | none => (admitRead s n f.pos va 128).map fun r => (r.1.map fun bs => BitVec.ofNat 1024 (leNat bs), r.2)

/-- The charge of a packet: COST_CORE_US of a LAUNCH that passes R382, none for any other packet. -/
def chargeOf (s : State) (n : Nat) (f : Fetched) (d : Option (BitVec 1024)) : Option Nat :=
  d.bind fun d =>
    let l := launchOf s n f d
    if descOk true l ∧ launchFits l then some (fld d 256 32) else none

/-- Admit the packet at ADMIT_POS; what was read of it is kept for its dispatch. -/
def admitOne (s : State) (n : Nat) (copy : Option Fetched) (refused : Bool) : State :=
  s.modQueue n fun q => { q with
    admitPos := q.admitPos + 1, copies := q.copies ++ copy.toList,
    overBudget := if refused then q.overBudget ++ [q.admitPos] else q.overBudget }

/-- Admission passes over the packets that a flush skipped (R388). -/
def passSkipped (s : State) (n : Nat) : State :=
  s.modQueue n fun q => { q with admitPos := q.admitPos + 1, skips := q.skips.filter fun r => !skipped r q.admitPos || skipped r (q.admitPos + 1) }

/-- Admit packets of queue `n`, at most `fuel`, within `left` of `budget`: how many, and the state. A packet that cannot be read
is admitted without a charge, and its dispatch meets the fault. -/
def admitPackets (budget n : Nat) : Nat → Nat → State → Nat × State
  | 0, _, s => (0, s)
  | fuel + 1, left, s =>
    let q := s.queue n
    if q.skips.any fun r => skipped r q.admitPos then admitPackets budget n fuel left (passSkipped s n) else
    match admitPacket s n with
    | .error s => (0, s)
    | .ok (none, s) =>
      let r := admitPackets budget n fuel left (admitOne s n none false)
      (r.1 + 1, r.2)
    | .ok (some f, s) => match admitDesc s n f with
      | .error s => (0, s)
      | .ok (d, s) =>
        let c := (chargeOf s n f d).getD 0
        if c ≤ budget ∧ left < c then (0, s) else
        let r := admitPackets budget n fuel (if budget < c then left else left - c)
          (admitOne s n (some { f with desc := d }) (decide (budget < c)))
        (r.1 + 1, r.2)

/-- The admission of slot `k` at boundary `t`. -/
def admitSlot (t : Nat) (s : State) (k : Nat) : State :=
  let x := s.slot k
  let q := s.queue x.queue
  if !x.enable || decide (4096 ≤ x.queue) then s else
  let open_ := q.state == .idle || q.state == .active || q.state == .waiting
  let r := if open_ then admitPackets x.budget x.queue (bellPos q t - q.admitPos).toNat x.budget s else (0, s)
  let s := r.2.modQueue x.queue fun q => q.pruneBells t
  if r.1 = 0 then s else s.modSlot k fun x => { x with admitted := satAdd 64 x.admitted 1 }

/-! ## The boundary -/

/-- The part of a boundary that follows the transactions (R393, R396, R399, R572). -/
def afterTxns (s : State) (t : Nat) : State :=
  let s := governor s
  let s : State := { s with power := { s.power with ccDisable := s.power.ccDisableNext } }
  let s := freezeAtBoundary (thawAll (stopTeardowns (stopResets s)))
  let s := updatePromotion s
  let s := ((keysOf s.desk.queues).filter fun n => (s.queue n).state != .disabled).foldl writeRecord s
  grantCores ((List.range 192).foldl (admitSlot t) s)

/-- STEEP_BOUNDARY: t_k+1 comes; a warm reset that a transaction asked for ends the boundary. -/
def execSteepBoundary (s : State) : Out :=
  if !bit s.power.clocks 1 || s.power.devState != .running then .next s else
  let t := boundaryDue s.desk
  let s := (keysOf s.cores).foldl chargeCore (openSteep s t)
  let s := applyTxns (closeSlots (endOverruns s)) t
  .next (if s.power.devState = .running then afterTxns s t else s)

end Sys2Proof.Machine
end

