-- ==== Sys2Proof/Machine/Dispatch.lean ====
section
/-! DEFINITION. One arm per command: a direct call of its meaning. -/

namespace Sys2Proof.Machine

def exec (i : Instr) (s : State) : Host.Outcome State Fault Refusal :=
  match i with
  | .nop g f => Sys2Proof.Machine.execNop g f s
  | .bra g f => Sys2Proof.Machine.execBra g f s
  | .call g f => Sys2Proof.Machine.execCall g f s
  | .jmpR g f => Sys2Proof.Machine.execJmpR g f s
  | .exit g f => Sys2Proof.Machine.execExit g f s
  | .brk g f => Sys2Proof.Machine.execBrk g f s
  | .rdSv g f => Sys2Proof.Machine.execRdSv g f s
  | .flgRd g f => Sys2Proof.Machine.execFlgRd g f s
  | .flgClr g f => Sys2Proof.Machine.execFlgClr g f s
  | .vote g f => Sys2Proof.Machine.execVote g f s
  | .shfl g f => Sys2Proof.Machine.execShfl g f s
  | .add g f => Sys2Proof.Machine.execAdd g f s
  | .sub g f => Sys2Proof.Machine.execSub g f s
  | .mulLo g f => Sys2Proof.Machine.execMulLo g f s
  | .mulHi g f => Sys2Proof.Machine.execMulHi g f s
  | .mad g f => Sys2Proof.Machine.execMad g f s
  | .div g f => Sys2Proof.Machine.execDiv g f s
  | .rem g f => Sys2Proof.Machine.execRem g f s
  | .min g f => Sys2Proof.Machine.execMin g f s
  | .max g f => Sys2Proof.Machine.execMax g f s
  | .abs g f => Sys2Proof.Machine.execAbs g f s
  | .neg g f => Sys2Proof.Machine.execNeg g f s
  | .popc g f => Sys2Proof.Machine.execPopc g f s
  | .clz g f => Sys2Proof.Machine.execClz g f s
  | .brev g f => Sys2Proof.Machine.execBrev g f s
  | .and g f => Sys2Proof.Machine.execAnd g f s
  | .or g f => Sys2Proof.Machine.execOr g f s
  | .xor g f => Sys2Proof.Machine.execXor g f s
  | .not g f => Sys2Proof.Machine.execNot g f s
  | .shl g f => Sys2Proof.Machine.execShl g f s
  | .shr g f => Sys2Proof.Machine.execShr g f s
  | .sar g f => Sys2Proof.Machine.execSar g f s
  | .rot g f => Sys2Proof.Machine.execRot g f s
  | .bfe g f => Sys2Proof.Machine.execBfe g f s
  | .bfi g f => Sys2Proof.Machine.execBfi g f s
  | .bfn3 g f => Sys2Proof.Machine.execBfn3 g f s
  | .setp g f => Sys2Proof.Machine.execSetp g f s
  | .sel g f => Sys2Proof.Machine.execSel g f s
  | .mov g f => Sys2Proof.Machine.execMov g f s
  | .prmt g f => Sys2Proof.Machine.execPrmt g f s
  | .plop g f => Sys2Proof.Machine.execPlop g f s
  | .addI g f => Sys2Proof.Machine.execAddI g f s
  | .mulI g f => Sys2Proof.Machine.execMulI g f s
  | .andI g f => Sys2Proof.Machine.execAndI g f s
  | .orI g f => Sys2Proof.Machine.execOrI g f s
  | .xorI g f => Sys2Proof.Machine.execXorI g f s
  | .shlI g f => Sys2Proof.Machine.execShlI g f s
  | .shrI g f => Sys2Proof.Machine.execShrI g f s
  | .sarI g f => Sys2Proof.Machine.execSarI g f s
  | .movi g f => Sys2Proof.Machine.execMovi g f s
  | .setpI g f => Sys2Proof.Machine.execSetpI g f s
  | .minI g f => Sys2Proof.Machine.execMinI g f s
  | .maxI g f => Sys2Proof.Machine.execMaxI g f s
  | .fadd g f => Sys2Proof.Machine.execFadd g f s
  | .fsub g f => Sys2Proof.Machine.execFsub g f s
  | .fmul g f => Sys2Proof.Machine.execFmul g f s
  | .fma g f => Sys2Proof.Machine.execFma g f s
  | .fmin g f => Sys2Proof.Machine.execFmin g f s
  | .fmax g f => Sys2Proof.Machine.execFmax g f s
  | .fabs g f => Sys2Proof.Machine.execFabs g f s
  | .fneg g f => Sys2Proof.Machine.execFneg g f s
  | .fsetp g f => Sys2Proof.Machine.execFsetp g f s
  | .fclass g f => Sys2Proof.Machine.execFclass g f s
  | .frcp g f => Sys2Proof.Machine.execFrcp g f s
  | .frsq g f => Sys2Proof.Machine.execFrsq g f s
  | .fex2 g f => Sys2Proof.Machine.execFex2 g f s
  | .flg2 g f => Sys2Proof.Machine.execFlg2 g f s
  | .cvt g f => Sys2Proof.Machine.execCvt g f s
  | .cvtPk g f => Sys2Proof.Machine.execCvtPk g f s
  | .cvtUp g f => Sys2Proof.Machine.execCvtUp g f s
  | .cdyFit g f => Sys2Proof.Machine.execCdyFit g f s
  | .ld g f => Sys2Proof.Machine.execLd g f s
  | .st g f => Sys2Proof.Machine.execSt g f s
  | .ldRes g f => Sys2Proof.Machine.execLdRes g f s
  | .stCond g f => Sys2Proof.Machine.execStCond g f s
  | .fenceOrder g f => Sys2Proof.Machine.execFenceOrder g f s
  | .fenceDone g f => Sys2Proof.Machine.execFenceDone g f s
  | .fenceDoneRelease g => Sys2Proof.Machine.execFenceDoneRelease g s
  | .cmo g f => Sys2Proof.Machine.execCmo g f s
  | .cmoSw g f => Sys2Proof.Machine.execCmoSw g f s
  | .atomAdd g f => Sys2Proof.Machine.execAtomAdd g f s
  | .atomMin g f => Sys2Proof.Machine.execAtomMin g f s
  | .atomMax g f => Sys2Proof.Machine.execAtomMax g f s
  | .atomAnd g f => Sys2Proof.Machine.execAtomAnd g f s
  | .atomOr g f => Sys2Proof.Machine.execAtomOr g f s
  | .atomXor g f => Sys2Proof.Machine.execAtomXor g f s
  | .atomExch g f => Sys2Proof.Machine.execAtomExch g f s
  | .atomCas g f => Sys2Proof.Machine.execAtomCas g f s
  | .releasePerform acc => Sys2Proof.Machine.execReleasePerform acc s
  | .accessComplete acc => Sys2Proof.Machine.execAccessComplete acc s
  | .tlySig g f => Sys2Proof.Machine.execTlySig g f s
  | .tlyAdd g f => Sys2Proof.Machine.execTlyAdd g f s
  | .tlyWait g f => Sys2Proof.Machine.execTlyWait g f s
  | .tlyPoll g f => Sys2Proof.Machine.execTlyPoll g f s
  | .watchWake tally => Sys2Proof.Machine.execWatchWake tally s
  | .barBlk g f => Sys2Proof.Machine.execBarBlk g f s
  | .barDev g f => Sys2Proof.Machine.execBarDev g f s
  | .deviceBarrierRelease ch => Sys2Proof.Machine.execDeviceBarrierRelease ch s
  | .mxLd g f => Sys2Proof.Machine.execMxLd g f s
  | .mxLdx g f => Sys2Proof.Machine.execMxLdx g f s
  | .mxOp g f => Sys2Proof.Machine.execMxOp g f s
  | .mxSt g f => Sys2Proof.Machine.execMxSt g f s
  | .mxZero g f => Sys2Proof.Machine.execMxZero g f s
  | .mxSync g f => Sys2Proof.Machine.execMxSync g f s
  | .mxStart core pipe => Sys2Proof.Machine.execMxStart core pipe s
  | .mxComplete core pipe => Sys2Proof.Machine.execMxComplete core pipe s
  | .tsRun g f => Sys2Proof.Machine.execTsRun g f s
  | .tsWait g f => Sys2Proof.Machine.execTsWait g f s
  | .tsDescriptorStart core str => Sys2Proof.Machine.execTsDescriptorStart core str s
  | .gatePoll core str => Sys2Proof.Machine.execGatePoll core str s
  | .translationPrefetch core str tile => Sys2Proof.Machine.execTranslationPrefetch core str tile s
  | .tilePublish core str => Sys2Proof.Machine.execTilePublish core str s
  | .counterObserve core str => Sys2Proof.Machine.execCounterObserve core str s
  | .storeTileRead core str => Sys2Proof.Machine.execStoreTileRead core str s
  | .tsDescriptorFinish core str => Sys2Proof.Machine.execTsDescriptorFinish core str s
  | .digestComplete cluster n => Sys2Proof.Machine.execDigestComplete cluster n s
  | .blockPlacement launch core => Sys2Proof.Machine.execBlockPlacement launch core s
  | .blockRetire core block => Sys2Proof.Machine.execBlockRetire core block s
  | .launchStopSaveComplete core => Sys2Proof.Machine.execLaunchStopSaveComplete core s
  | .l1Fill core line => Sys2Proof.Machine.execL1Fill core line s
  | .vaultRead pa => Sys2Proof.Machine.execVaultRead pa s
  | .evictionDrain cluster => Sys2Proof.Machine.execEvictionDrain cluster s
  | .scrubRead vault => Sys2Proof.Machine.execScrubRead vault s
  | .scrubPassStart vault => Sys2Proof.Machine.execScrubPassStart vault s
  | .refresh vault layer => Sys2Proof.Machine.execRefresh vault layer s
  | .temperatureEvaluation r => Sys2Proof.Machine.execTemperatureEvaluation r s
  | .thermalTrip => Sys2Proof.Machine.execThermalTrip s
  | .steepBoundary => Sys2Proof.Machine.execSteepBoundary s
  | .doorbell m => Sys2Proof.Machine.execDoorbell m s
  | .queueFetch q => Sys2Proof.Machine.execQueueFetch q s
  | .preDecode q => Sys2Proof.Machine.execPreDecode q s
  | .nopCommand q => Sys2Proof.Machine.execNopCommand q s
  | .launch q => Sys2Proof.Machine.execLaunch q s
  | .launchComplete launch => Sys2Proof.Machine.execLaunchComplete launch s
  | .wait q => Sys2Proof.Machine.execWait q s
  | .queueWaitPoll q => Sys2Proof.Machine.execQueueWaitPoll q s
  | .eventWatch q => Sys2Proof.Machine.execEventWatch q s
  | .cacheMaint q => Sys2Proof.Machine.execCacheMaint q s
  | .contextCreate q => Sys2Proof.Machine.execContextCreate q s
  | .contextTeardown q => Sys2Proof.Machine.execContextTeardown q s
  | .contextTeardownComplete ctx => Sys2Proof.Machine.execContextTeardownComplete ctx s
  | .mapPages q => Sys2Proof.Machine.execMapPages q s
  | .unmapPages q => Sys2Proof.Machine.execUnmapPages q s
  | .protect q => Sys2Proof.Machine.execProtect q s
  | .mappingChangeComplete q => Sys2Proof.Machine.execMappingChangeComplete q s
  | .carrelSet q => Sys2Proof.Machine.execCarrelSet q s
  | .tallyAssign q => Sys2Proof.Machine.execTallyAssign q s
  | .tallyRelease q => Sys2Proof.Machine.execTallyRelease q s
  | .tallyRead q => Sys2Proof.Machine.execTallyRead q s
  | .pageRetire q => Sys2Proof.Machine.execPageRetire q s
  | .queueCreate q => Sys2Proof.Machine.execQueueCreate q s
  | .queueDestroy q => Sys2Proof.Machine.execQueueDestroy q s
  | .queueResume q => Sys2Proof.Machine.execQueueResume q s
  | .queueHalt q => Sys2Proof.Machine.execQueueHalt q s
  | .queueFlush q => Sys2Proof.Machine.execQueueFlush q s
  | .recall q => Sys2Proof.Machine.execRecall q s
  | .folioWrite q => Sys2Proof.Machine.execFolioWrite q s
  | .folioRestore q => Sys2Proof.Machine.execFolioRestore q s
  | .folioCommandStart => Sys2Proof.Machine.execFolioCommandStart s
  | .folioFreezeComplete => Sys2Proof.Machine.execFolioFreezeComplete s
  | .folioImageComplete => Sys2Proof.Machine.execFolioImageComplete s
  | .folioRestoreComplete => Sys2Proof.Machine.execFolioRestoreComplete s
  | .migrateSupply m => Sys2Proof.Machine.execMigrateSupply m s
  | .migrateRefuse m => Sys2Proof.Machine.execMigrateRefuse m s
  | .migrationComplete rec => Sys2Proof.Machine.execMigrationComplete rec s
  | .openSession m => Sys2Proof.Machine.execOpenSession m s
  | .closeSession m => Sys2Proof.Machine.execCloseSession m s
  | .ack m => Sys2Proof.Machine.execAck m s
  | .smtAckTimer session => Sys2Proof.Machine.execSmtAckTimer session s
  | .smtResendTimer session => Sys2Proof.Machine.execSmtResendTimer session s
  | .sessionLost session => Sys2Proof.Machine.execSessionLost session s
  | .command m => Sys2Proof.Machine.execCommand m s
  | .connect m => Sys2Proof.Machine.execConnect m s
  | .disconnect m => Sys2Proof.Machine.execDisconnect m s
  | .folioStored m => Sys2Proof.Machine.execFolioStored m s
  | .folioReadData m => Sys2Proof.Machine.execFolioReadData m s
  | .folioRefuse m => Sys2Proof.Machine.execFolioRefuse m s
  | .catRead m => Sys2Proof.Machine.execCatRead m s
  | .catWrite m => Sys2Proof.Machine.execCatWrite m s
  | .describe m => Sys2Proof.Machine.execDescribe m s
  | .txn m => Sys2Proof.Machine.execTxn m s
  | .writeSeg m => Sys2Proof.Machine.execWriteSeg m s
  | .scrubPeriodHWrite m => Sys2Proof.Machine.execScrubPeriodHWrite m s
  | .carrelEntryWrite m => Sys2Proof.Machine.execCarrelEntryWrite m s
  | .steepAlignWrite m => Sys2Proof.Machine.execSteepAlignWrite m s
  | .linkModeWrite m => Sys2Proof.Machine.execLinkModeWrite m s
  | .ptpModeWrite m => Sys2Proof.Machine.execPtpModeWrite m s
  | .fwStageWrite m => Sys2Proof.Machine.execFwStageWrite m s
  | .dramCountersClear m => Sys2Proof.Machine.execDramCountersClear m s
  | .tallyCountersClear m => Sys2Proof.Machine.execTallyCountersClear m s
  | .ccMaintClean m => Sys2Proof.Machine.execCcMaintClean m s
  | .ccMaintInvalidate m => Sys2Proof.Machine.execCcMaintInvalidate m s
  | .ccMaintCleanInvalidate m => Sys2Proof.Machine.execCcMaintCleanInvalidate m s
  | .ccMaintComplete => Sys2Proof.Machine.execCcMaintComplete s
  | .peerSet m => Sys2Proof.Machine.execPeerSet m s
  | .planSet m => Sys2Proof.Machine.execPlanSet m s
  | .planClear m => Sys2Proof.Machine.execPlanClear m s
  | .warmReset m => Sys2Proof.Machine.execWarmReset m s
  | .powerDown m => Sys2Proof.Machine.execPowerDown m s
  | .powerDownComplete => Sys2Proof.Machine.execPowerDownComplete s
  | .domainReset m => Sys2Proof.Machine.execDomainReset m s
  | .domainResetComplete dom => Sys2Proof.Machine.execDomainResetComplete dom s
  | .keyRevoke m => Sys2Proof.Machine.execKeyRevoke m s
  | .fwCommit m => Sys2Proof.Machine.execFwCommit m s
  | .fwCommitComplete programmed => Sys2Proof.Machine.execFwCommitComplete programmed s
  | .attest m => Sys2Proof.Machine.execAttest m s
  | .rdmaWrite p => Sys2Proof.Machine.execRdmaWrite p s
  | .rdmaRead p => Sys2Proof.Machine.execRdmaRead p s
  | .send p => Sys2Proof.Machine.execSend p s
  | .roceAck p => Sys2Proof.Machine.execRoceAck p s
  | .rdmaReadResponse p => Sys2Proof.Machine.execRdmaReadResponse p s
  | .roceNak p => Sys2Proof.Machine.execRoceNak p s
  | .roceRetryTimer conn => Sys2Proof.Machine.execRoceRetryTimer conn s
  | .connectionFailed conn => Sys2Proof.Machine.execConnectionFailed conn s
  | .cnp conn => Sys2Proof.Machine.execCnp conn s
  | .pfcFrame port mask quanta => Sys2Proof.Machine.execPfcFrame port mask quanta s
  | .pfcPauseExpiry port prio => Sys2Proof.Machine.execPfcPauseExpiry port prio s
  | .arp a => Sys2Proof.Machine.execArp a s
  | .neighborDiscovery a => Sys2Proof.Machine.execNeighborDiscovery a s
  | .icmpEcho e => Sys2Proof.Machine.execIcmpEcho e s
  | .ptpMessage port m => Sys2Proof.Machine.execPtpMessage port m s
  | .unsupportedFrame u => Sys2Proof.Machine.execUnsupportedFrame u s
  | .linkStateChange port change => Sys2Proof.Machine.execLinkStateChange port change s
  | .peerWrite p => Sys2Proof.Machine.execPeerWrite p s
  | .peerRead p => Sys2Proof.Machine.execPeerRead p s
  | .peerAtomic p => Sys2Proof.Machine.execPeerAtomic p s
  | .readResp p => Sys2Proof.Machine.execReadResp p s
  | .atomicResp p => Sys2Proof.Machine.execAtomicResp p s
  | .writeAck p => Sys2Proof.Machine.execWriteAck p s
  | .keepalive p => Sys2Proof.Machine.execKeepalive p s
  | .keepaliveTimer peer port => Sys2Proof.Machine.execKeepaliveTimer peer port s
  | .keepaliveCheck peer port => Sys2Proof.Machine.execKeepaliveCheck peer port s
  | .peerLost peer => Sys2Proof.Machine.execPeerLost peer s
  | .peerResendTimer peer port => Sys2Proof.Machine.execPeerResendTimer peer port s
  | .peerAckTimer peer port => Sys2Proof.Machine.execPeerAckTimer peer port s
  | .reduce p => Sys2Proof.Machine.execReduce p s
  | .abort p => Sys2Proof.Machine.execAbort p s
  | .reshardWrite p => Sys2Proof.Machine.execReshardWrite p s
  | .planControlPoll plan => Sys2Proof.Machine.execPlanControlPoll plan s
  | .planStepComplete plan => Sys2Proof.Machine.execPlanStepComplete plan s
  | .presenceWindowOpen => Sys2Proof.Machine.execPresenceWindowOpen s
  | .presenceWindowClose => Sys2Proof.Machine.execPresenceWindowClose s
  | .sealPeriod firstHalf secondHalf => Sys2Proof.Machine.execSealPeriod firstHalf secondHalf s
  | .sealBrokenLatch => Sys2Proof.Machine.execSealBrokenLatch s
  | .porstNAssert => Sys2Proof.Machine.execPorstNAssert s
  | .porstNRelease flash => Sys2Proof.Machine.execPorstNRelease flash s
  | .startupStepComplete e => Sys2Proof.Machine.execStartupStepComplete e s
  | .warmrstNRise => Sys2Proof.Machine.execWarmrstNRise s
  | .powerLoss => Sys2Proof.Machine.execPowerLoss s
  | .jtagInstruction ir => Sys2Proof.Machine.execJtagInstruction ir s
  | .coreGrantRestoreDone core => Sys2Proof.Machine.execCoreGrantRestoreDone core s
  | .undefinedOpcode g w => Sys2Proof.Machine.execUndefinedOpcode g w s
  | .ethRefclkLoss n => Sys2Proof.Machine.execEthRefclkLoss n s
  | .ethRefclkReturn n => Sys2Proof.Machine.execEthRefclkReturn n s

end Sys2Proof.Machine
end

