-- ==== Sys2Proof/Safety.lean ====
section
/-! DEFINITION. The terms in which the statements speak: canonical forms, what it means that an instruction runs, and what an
instruction that changes only its group leaves alone. -/

namespace Sys2Proof

open Machine

/-! ## Canonical forms -/

/-- DRAM in canonical form: addresses rising, no byte listed that an unlisted address reads as. -/
abbrev Memory.wf (d : Dram) : Prop := swf d.unlisted d.bytes = true

/-- The stored check symbols in canonical form. -/
abbrev Memory.checksWf (d : Dram) : Prop := swf d.unlistedCheck d.checks = true

/-- A local store in canonical form. -/
abbrev LocalStore.wf (w : CoreWork) : Prop := swf (fun _ => (0 : Byte)) w.ls = true

/-- A map of optional members in canonical form. -/
abbrev OptMap.wf {α : Type} [DecidableEq α] (m : SMap (Option α)) : Prop := swf (fun _ => none) m = true

/-- The registers, predicates and reservations of a group in canonical form. -/
structure GroupCanonical (g : Group) : Prop where
  v   : swf (fun _ => (0 : Word)) g.v = true
  u   : swf (fun _ => (0 : Word)) g.u = true
  p   : swf (fun _ => (0 : Byte)) g.p = true
  res : OptMap.wf g.res

/-- A matrix engine's tiles, buffers and images in canonical form. -/
structure MxCanonical (x : MxEngine) : Prop where
  acc    : swf (fun _ => (0 : Word)) x.acc = true
  bufA   : swf (fun _ => (0 : Byte)) x.bufA = true
  bufB   : swf (fun _ => (0 : Byte)) x.bufB = true
  tbl    : swf (fun _ => (0 : Byte)) x.tbl = true
  scl    : swf (fun _ => (0 : Byte)) x.scl = true
  poiA   : swf (fun _ => false) x.poiA = true
  poiB   : swf (fun _ => false) x.poiB = true
  poiTbl : swf (fun _ => false) x.poiTbl = true
  poiScl : swf (fun _ => false) x.poiScl = true

/-- What a launch holds on a core, in canonical form. -/
structure WorkCanonical (w : CoreWork) : Prop where
  groups   : OptMap.wf w.groups
  group    : ∀ k g, oget w.groups k = some g → GroupCanonical g
  blocks   : OptMap.wf w.blocks
  ls       : LocalStore.wf w
  lsPoison : swf (fun _ => false) w.lsPoison = true
  mx       : MxCanonical w.mx
  ts       : swf (fun _ => Streamer.idle) w.ts = true

/-- A core in canonical form. -/
structure CoreCanonical (k : Core) : Prop where
  work     : WorkCanonical k.work
  saved    : ∀ w ∈ k.saved, WorkCanonical w
  l1       : swf (fun _ => L1Line.none) k.l1 = true
  reuse    : swf (fun _ => ([] : List (Nat × Nat))) k.reuse = true
  lastCost : swf (fun _ => (0 : Nat)) k.lastCost = true
  portCost : swf (fun _ => (0 : Nat)) k.portCost = true
  misses   : ∀ m ∈ k.misses, OptMap.wf m.overlay

/-- The caches of a control core in canonical form. -/
structure CtlCanonical (k : CtlCore) : Prop where
  icache : OptMap.wf k.icache.lines
  dcache : OptMap.wf k.dcache.lines

/-- The health maps of DRAM in canonical form. -/
structure HealthCanonical (d : Dram) : Prop where
  scrub       : OptMap.wf d.scrub
  passes      : swf (fun _ => (0 : Nat)) d.passes = true
  ueLog       : swf (fun _ => (0 : Nat)) d.ueLog = true
  layers      : swf (fun _ => (0 : Nat)) d.layerCorrected = true
  doubled     : swf (fun _ => false) d.doubled = true
  refreshes   : swf (fun _ => (0 : Nat)) d.refreshes = true
  lastRefresh : swf (fun _ => false) d.lastRefresh = true
  out         : OptMap.wf d.out

/-- The machine's maps in canonical form: the invariant that rules out the states that no run reaches and in which one key
is listed twice. -/
structure Canonical (s : State) : Prop where
  memory    : Memory.wf s.dram
  checks    : Memory.checksWf s.dram
  health    : HealthCanonical s.dram
  cores     : swf (fun _ => Core.idle) s.cores = true
  core      : ∀ c, CoreCanonical (s.core c)
  clusters  : swf (fun _ => Cluster.empty) s.clusters = true
  lines     : ∀ n, swf (fun _ => CcLine.none) (s.cluster n).lines = true
  ctl       : swf (fun _ => CtlCore.empty) s.ctl = true
  control'  : ∀ n, CtlCanonical (s.ctlCore n)
  ctxs      : swf (fun _ => Ctx.fresh) s.ctxs = true
  tallies   : swf (fun _ => Tally.free) s.hub.tallies = true
  channels  : OptMap.wf s.hub.channels
  phases    : swf (fun _ => false) s.hub.phases = true
  queues    : swf (fun _ => Queue.disabled) s.desk.queues = true
  slots     : swf (fun _ => Slot.reset) s.desk.slots = true
  launches  : OptMap.wf s.desk.launches
  control   : swf (fun _ => (0 : Byte)) s.desk.control = true
  carrels   : swf Carrel.default s.xlat.carrels = true
  leaves    : swf (fun _ => ([] : List Leaf)) s.xlat.leaves = true
  runs      : swf (fun _ => ([] : List Run)) s.xlat.runs = true
  mapCount  : swf (fun _ => (0 : Nat)) s.xlat.mapCount = true
  dirty     : swf (fun _ => ([] : List Nat)) s.xlat.dirty = true
  records   : OptMap.wf s.xlat.records
  xcache    : OptMap.wf s.xlat.cache
  xtrees    : swf (fun _ => (0 : BitVec 16)) s.xlat.trees = true
  buffers   : swf (fun _ => ([] : List XEntry)) s.xlat.buffers = true
  ports     : swf Port.reset s.ports.ports = true
  sessions  : OptMap.wf s.ports.sessions
  closedAt  : OptMap.wf s.ports.closedAt
  conns     : OptMap.wf s.ports.conns
  peers     : swf (fun _ => Peer.unused) s.ports.peers = true
  channels' : ∀ n, swf (fun _ => Chan.fresh) (s.peer n).chans = true
  plans     : swf (fun _ => Plan.unused) s.plans.plans = true
  paused    : ∀ n, swf (fun _ => (0 : Nat)) (s.port n).paused = true
  rxLevel   : ∀ n, swf (fun _ => (0 : Nat)) (s.port n).rxLevel = true
  allow     : swf (fun _ => (0 : BitVec 256)) s.ports.allow = true
  staging   : swf (fun _ => Holder.none) s.ports.staging = true
  stepDone  : swf (fun _ => (0 : Nat)) s.power.stepDone = true
  temps     : swf (fun _ => (0 : Word)) s.power.layerTemps = true
  trusted   : swf (fun _ => (0 : BitVec 256)) s.folio.trusted = true
  digests   : swf (fun _ => ([] : List DigestReq)) s.folio.digests = true
  last      : swf (fun _ => (([] : List Byte), false)) s.folio.lastDigest = true

/-- Every tally's value fits its 63 bits (R311). -/
def TalliesFit (s : State) : Prop := ∀ n, (s.tally n).value ≤ tallyMax

/-- The command completes: it answers a next state. -/
def Completes (c : Instr) (s : State) : Prop := ∃ t, exec c s = .next t

/-! ## Instructions of a group -/

/-- What reading memory and translating may change, and nothing else does: DRAM's record of errors and the codewords written back,
the cluster caches, and the translation units. -/
def ReadsOnly (s t : State) : Prop := t = { s with dram := t.dram, clusters := t.clusters, xlat := t.xlat }

/-- What an instruction sees before its fetch. -/
abbrev Machine.Env.before (e : Env) (s : State) : Env := { e with s := s }

/-- A group's instruction of form `i` issues with no exception before its effect: the group is ready, no register of it awaits
an earlier access, the fetch finds it and the checks of R101 to R107 and R64 find nothing; `e` is what it then sees, `e.s` the
state that the fetch leaves, in which nothing but memory's health, the caches and the translation units differs from `s`. -/
structure Runs (s : State) (r : GroupRef) (i : Form) (e : Env) : Prop where
  ready : ready? s r = some (e.before s)
  clear : hazard (e.before s) i = false
  fetch : fetchCheck (e.before s) = .ok e.s
  legal : formTrap e i = none

/-- The lanes whose result an instruction of form `i` writes: every acting lane, or the lowest when it is uniform (R104, R105). -/
def resultLanes (e : Env) (i : Form) : List Nat := if i.uniform then (e.acts i).take 1 else e.acts i

/-- Of the whole machine, `t` differs from `s` in no more than group `k` of core `c` and that core's record of issues and port
cycles. -/
structure OnlyGroup (s t : State) (c k : Nat) : Prop where
  rest   : t = { s with cores := t.cores }
  cores  : ∀ d, d ≠ c → t.core d = s.core d
  groups : ∀ j, j ≠ k → t.group c j = s.group c j
  core   : { t.core c with work := { (t.core c).work with groups := [] }, reuse := [], lastCost := [], portCost := [] } =
           { s.core c with work := { (s.core c).work with groups := [] }, reuse := [], lastCost := [], portCost := [] }

/-- Whether a register of a lane is one that the instruction writes: in the run of `dst`, and for a v register in a lane of `ls`. -/
def Written (dst : Use) (ls : List Nat) (lane code : Nat) : Prop :=
  code ∈ dst.regs ∧ ls ≠ [] ∧ (isS dst.code = true ∨ lane ∈ ls)

/-- The registers after an instruction that writes `val` of each lane of `ls` to `dst`: ZR discards the result (R101), and every
register not written is as before. -/
structure RegsWritten (g h : Group) (dst : Use) (ls : List Nat) (val : Nat → Nat) : Prop where
  result : dst.code ≠ ZR → ∀ l ∈ ls, h.run l dst = val l
  others : ∀ l code, l < 32 → ¬ Written dst ls l code → h.reg l code = g.reg l code

/-- What a group keeps when its next instruction is taken in order: with no reconvergence entry open, the next pc and the same
lanes; and in every case the launch, block, exited lanes, reservations and the fence count. -/
structure Advanced (g h : Group) : Prop where
  next  : g.stack = [] → h.pc = g.pc + 8 ∧ h.active = g.active ∧ h.stack = []
  same  : h.launch = g.launch ∧ h.block = g.block ∧ h.index = g.index ∧ h.exited = g.exited ∧ h.wait = g.wait ∧ h.res = g.res ∧
          h.epoch = g.epoch

/-- The instruction `c` writes `val` of each result lane to `dst` and raises the sticky flags `fl`; from the state that its fetch leaves
nothing else changes but the group's place in its program. -/
def WritesResult (c : Instr) (s : State) (e : Env) (i : Form) (dst : Use) (val : Nat → Nat) (fl : BitVec 5) : Prop :=
  ∃ t g, exec c s = .next t ∧ ReadsOnly s e.s ∧ OnlyGroup e.s t e.c e.k ∧ t.group e.c e.k = some g ∧
    RegsWritten e.g g dst (resultLanes e i) val ∧ (∀ l j, g.pred l j = e.g.pred l j) ∧ g.flags = e.g.flags ||| fl ∧ Advanced e.g g

/-- The instruction `c` writes `val` of each acting lane to predicate `p` and raises the flags `fl`; nothing else changes. -/
def WritesPredicate (c : Instr) (s : State) (e : Env) (i : Form) (p : Nat) (val : Nat → Bool) (fl : BitVec 5) : Prop :=
  ∃ t g, exec c s = .next t ∧ ReadsOnly s e.s ∧ OnlyGroup e.s t e.c e.k ∧ t.group e.c e.k = some g ∧
    (∀ l ∈ e.acts i, g.pred l p = val l) ∧ (∀ l j, j < 8 → ¬ (l ∈ e.acts i ∧ j = p) → g.pred l j = e.g.pred l j) ∧
    (∀ l code, g.reg l code = e.g.reg l code) ∧ g.flags = e.g.flags ||| fl ∧ Advanced e.g g

/-- The instruction `c` only moves its group on: the new state and the group. -/
def MovesOn (c : Instr) (s t : State) (e : Env) (g : Group) : Prop :=
  exec c s = .next t ∧ ReadsOnly s e.s ∧ OnlyGroup e.s t e.c e.k ∧ t.group e.c e.k = some g ∧ (∀ l code, g.reg l code = e.g.reg l code) ∧
  (∀ l j, g.pred l j = e.g.pred l j)

/-- What a command leaves of memory and of every unit but the cores and the accesses in flight. -/
structure MemoryKept (s t : State) : Prop where
  rest : t = { s with cores := t.cores, accesses := t.accesses, nextAcc := t.nextAcc }
  ls   : ∀ c, (t.core c).work.ls = (s.core c).work.ls ∧ (t.core c).work.lsPoison = (s.core c).work.lsPoison

/-- A group keeps its registers, predicates, flags and reservations. -/
structure SameValues (g h : Group) : Prop where
  regs  : ∀ l code, h.reg l code = g.reg l code
  preds : ∀ l j, h.pred l j = g.pred l j
  flags : h.flags = g.flags
  res   : h.res = g.res

end Sys2Proof
end

