-- ==== Sys2Proof/WellFormed.lean ====
section
/-! DEFINITION. Well-formed commands: every number names something that the part has. -/

namespace Sys2Proof

/-- A group reference names one of 384 cores, 4 quadrants and 16 slots (R58). -/
def GroupRef.ok (g : GroupRef) : Bool := decide (g.core < 384 ∧ g.quad < 4 ∧ g.slot < 16)

/-- Whether a command is well formed. A core instruction is so for every field value: what a field may not hold raises the
illegal-instruction fault (R103). An UNDEFINED_OPCODE carries a word whose opcode is reserved. -/
def Instr.wf : Instr → Bool
  | .nop g _ => g.ok
  | .bra g _ => g.ok
  | .call g _ => g.ok
  | .jmpR g _ => g.ok
  | .exit g _ => g.ok
  | .brk g _ => g.ok
  | .rdSv g _ => g.ok
  | .flgRd g _ => g.ok
  | .flgClr g _ => g.ok
  | .vote g _ => g.ok
  | .shfl g _ => g.ok
  | .add g _ => g.ok
  | .sub g _ => g.ok
  | .mulLo g _ => g.ok
  | .mulHi g _ => g.ok
  | .mad g _ => g.ok
  | .div g _ => g.ok
  | .rem g _ => g.ok
  | .min g _ => g.ok
  | .max g _ => g.ok
  | .abs g _ => g.ok
  | .neg g _ => g.ok
  | .popc g _ => g.ok
  | .clz g _ => g.ok
  | .brev g _ => g.ok
  | .and g _ => g.ok
  | .or g _ => g.ok
  | .xor g _ => g.ok
  | .not g _ => g.ok
  | .shl g _ => g.ok
  | .shr g _ => g.ok
  | .sar g _ => g.ok
  | .rot g _ => g.ok
  | .bfe g _ => g.ok
  | .bfi g _ => g.ok
  | .bfn3 g _ => g.ok
  | .setp g _ => g.ok
  | .sel g _ => g.ok
  | .mov g _ => g.ok
  | .prmt g _ => g.ok
  | .plop g _ => g.ok
  | .addI g _ => g.ok
  | .mulI g _ => g.ok
  | .andI g _ => g.ok
  | .orI g _ => g.ok
  | .xorI g _ => g.ok
  | .shlI g _ => g.ok
  | .shrI g _ => g.ok
  | .sarI g _ => g.ok
  | .movi g _ => g.ok
  | .setpI g _ => g.ok
  | .minI g _ => g.ok
  | .maxI g _ => g.ok
  | .fadd g _ => g.ok
  | .fsub g _ => g.ok
  | .fmul g _ => g.ok
  | .fma g _ => g.ok
  | .fmin g _ => g.ok
  | .fmax g _ => g.ok
  | .fabs g _ => g.ok
  | .fneg g _ => g.ok
  | .fsetp g _ => g.ok
  | .fclass g _ => g.ok
  | .frcp g _ => g.ok
  | .frsq g _ => g.ok
  | .fex2 g _ => g.ok
  | .flg2 g _ => g.ok
  | .cvt g _ => g.ok
  | .cvtPk g _ => g.ok
  | .cvtUp g _ => g.ok
  | .cdyFit g _ => g.ok
  | .ld g _ => g.ok
  | .st g _ => g.ok
  | .ldRes g _ => g.ok
  | .stCond g _ => g.ok
  | .fenceOrder g _ => g.ok
  | .fenceDone g _ => g.ok
  | .fenceDoneRelease g => g.ok
  | .cmo g _ => g.ok
  | .cmoSw g _ => g.ok
  | .atomAdd g _ => g.ok
  | .atomMin g _ => g.ok
  | .atomMax g _ => g.ok
  | .atomAnd g _ => g.ok
  | .atomOr g _ => g.ok
  | .atomXor g _ => g.ok
  | .atomExch g _ => g.ok
  | .atomCas g _ => g.ok
  | .releasePerform _ => true
  | .accessComplete _ => true
  | .tlySig g _ => g.ok
  | .tlyAdd g _ => g.ok
  | .tlyWait g _ => g.ok
  | .tlyPoll g _ => g.ok
  | .watchWake tally => decide (tally < 65536)
  | .barBlk g _ => g.ok
  | .barDev g _ => g.ok
  | .deviceBarrierRelease ch => decide (ch < 64)
  | .mxLd g _ => g.ok
  | .mxLdx g _ => g.ok
  | .mxOp g _ => g.ok
  | .mxSt g _ => g.ok
  | .mxZero g _ => g.ok
  | .mxSync g _ => g.ok
  | .mxStart core _ => decide (core < 384)
  | .mxComplete core _ => decide (core < 384)
  | .tsRun g _ => g.ok
  | .tsWait g _ => g.ok
  | .tsDescriptorStart core str => decide (core < 384 ∧ str < 4)
  | .gatePoll core str => decide (core < 384 ∧ str < 4)
  | .translationPrefetch core str _ => decide (core < 384 ∧ str < 4)
  | .tilePublish core str => decide (core < 384 ∧ str < 4)
  | .counterObserve core str => decide (core < 384 ∧ str < 4)
  | .storeTileRead core str => decide (core < 384 ∧ str < 4)
  | .tsDescriptorFinish core str => decide (core < 384 ∧ str < 4)
  | .digestComplete cluster i => decide (cluster < 24 ∧ i < 8)
  | .blockPlacement _ core => decide (core < 384)
  | .blockRetire core block => decide (core < 384 ∧ block < 32)
  | .launchStopSaveComplete core => decide (core < 384)
  | .l1Fill core _ => decide (core < 384)
  | .vaultRead pa => decide (pa % 32 = 0)
  | .evictionDrain cluster => decide (cluster < 24)
  | .scrubRead vault => decide (vault < 384)
  | .scrubPassStart vault => decide (vault < 384)
  | .refresh vault layer => decide (vault < 384 ∧ layer < 16)
  | .temperatureEvaluation r => decide (r.layers.length = 16)
  | .thermalTrip => true
  | .steepBoundary => true
  | .doorbell m => decide (m.port < 10)
  | .queueFetch q => decide (q < 4096)
  | .preDecode q => decide (q < 4096)
  | .nopCommand q => decide (q < 4096)
  | .launch q => decide (q < 4096)
  | .launchComplete _ => true
  | .wait q => decide (q < 4096)
  | .queueWaitPoll q => decide (q < 4096)
  | .eventWatch q => decide (q < 4096)
  | .cacheMaint q => decide (q < 4096)
  | .contextCreate q => decide (q < 4096)
  | .contextTeardown q => decide (q < 4096)
  | .contextTeardownComplete ctx => decide (ctx < 1024)
  | .mapPages q => decide (q < 4096)
  | .unmapPages q => decide (q < 4096)
  | .protect q => decide (q < 4096)
  | .mappingChangeComplete q => decide (q < 4096)
  | .carrelSet q => decide (q < 4096)
  | .tallyAssign q => decide (q < 4096)
  | .tallyRelease q => decide (q < 4096)
  | .tallyRead q => decide (q < 4096)
  | .pageRetire q => decide (q < 4096)
  | .queueCreate q => decide (q < 4096)
  | .queueDestroy q => decide (q < 4096)
  | .queueResume q => decide (q < 4096)
  | .queueHalt q => decide (q < 4096)
  | .queueFlush q => decide (q < 4096)
  | .recall q => decide (q < 4096)
  | .folioWrite q => decide (q < 4096)
  | .folioRestore q => decide (q < 4096)
  | .folioCommandStart => true
  | .folioFreezeComplete => true
  | .folioImageComplete => true
  | .folioRestoreComplete => true
  | .migrateSupply m => decide (m.port < 10)
  | .migrateRefuse m => decide (m.port < 10)
  | .migrationComplete rec => decide (rec < 256)
  | .openSession m => decide (m.port < 10)
  | .closeSession m => decide (m.port < 10)
  | .ack m => decide (m.port < 10)
  | .smtAckTimer session => decide (session < 256)
  | .smtResendTimer session => decide (session < 256)
  | .sessionLost session => decide (session < 256)
  | .command m => decide (m.port < 10)
  | .connect m => decide (m.port < 10)
  | .disconnect m => decide (m.port < 10)
  | .folioStored m => decide (m.port < 10)
  | .folioReadData m => decide (m.port < 10)
  | .folioRefuse m => decide (m.port < 10)
  | .catRead m => decide (m.port < 10)
  | .catWrite m => decide (m.port < 10)
  | .describe m => decide (m.port < 10)
  | .txn m => decide (m.port < 10)
  | .writeSeg m => decide (m.port < 10)
  | .scrubPeriodHWrite m => decide (m.port < 10)
  | .carrelEntryWrite m => decide (m.port < 10)
  | .steepAlignWrite m => decide (m.port < 10)
  | .linkModeWrite m => decide (m.port < 10)
  | .ptpModeWrite m => decide (m.port < 10)
  | .fwStageWrite m => decide (m.port < 10)
  | .dramCountersClear m => decide (m.port < 10)
  | .tallyCountersClear m => decide (m.port < 10)
  | .ccMaintClean m => decide (m.port < 10)
  | .ccMaintInvalidate m => decide (m.port < 10)
  | .ccMaintCleanInvalidate m => decide (m.port < 10)
  | .ccMaintComplete => true
  | .peerSet m => decide (m.port < 10)
  | .planSet m => decide (m.port < 10)
  | .planClear m => decide (m.port < 10)
  | .warmReset m => decide (m.port < 10)
  | .powerDown m => decide (m.port < 10)
  | .powerDownComplete => true
  | .domainReset m => decide (m.port < 10)
  | .domainResetComplete dom => decide (dom < 37)
  | .keyRevoke m => decide (m.port < 10)
  | .fwCommit m => decide (m.port < 10)
  | .fwCommitComplete _ => true
  | .attest m => decide (m.port < 10)
  | .rdmaWrite p => decide (p.port < 10 ∧ p.conn < 1024)
  | .rdmaRead p => decide (p.port < 10 ∧ p.conn < 1024)
  | .send p => decide (p.port < 10 ∧ p.conn < 1024)
  | .roceAck p => decide (p.port < 10 ∧ p.conn < 1024)
  | .rdmaReadResponse p => decide (p.port < 10 ∧ p.conn < 1024)
  | .roceNak p => decide (p.port < 10 ∧ p.conn < 1024)
  | .roceRetryTimer conn => decide (conn < 1024)
  | .connectionFailed conn => decide (conn < 1024)
  | .cnp conn => decide (conn < 1024)
  | .pfcFrame port _ _ => decide (port < 10)
  | .pfcPauseExpiry port prio => decide (port < 10 ∧ prio < 8)
  | .arp a => decide (a.port < 10)
  | .neighborDiscovery a => decide (a.port < 10)
  | .icmpEcho e => decide (e.port < 10)
  | .ptpMessage port _ => decide (port < 10)
  | .unsupportedFrame u => decide (u.port < 10)
  | .linkStateChange port _ => decide (port < 10)
  | .peerWrite p => decide (p.port < 10)
  | .peerRead p => decide (p.port < 10)
  | .peerAtomic p => decide (p.port < 10)
  | .readResp p => decide (p.port < 10)
  | .atomicResp p => decide (p.port < 10)
  | .writeAck p => decide (p.port < 10)
  | .keepalive p => decide (p.port < 10)
  | .keepaliveTimer peer port => decide (peer < 4096 ∧ port < 8)
  | .keepaliveCheck peer port => decide (peer < 4096 ∧ port < 8)
  | .peerLost peer => decide (peer < 4096)
  | .peerResendTimer peer port => decide (peer < 4096 ∧ port < 8)
  | .peerAckTimer peer port => decide (peer < 4096 ∧ port < 8)
  | .reduce p => decide (p.port < 10)
  | .abort p => decide (p.port < 10)
  | .reshardWrite p => decide (p.port < 10)
  | .planControlPoll plan => decide (plan < 64)
  | .planStepComplete plan => decide (plan < 64)
  | .presenceWindowOpen => true
  | .presenceWindowClose => true
  | .sealPeriod _ _ => true
  | .sealBrokenLatch => true
  | .porstNAssert => true
  | .porstNRelease _ => true
  | .startupStepComplete _ => true
  | .warmrstNRise => true
  | .powerLoss => true
  | .jtagInstruction _ => true
  | .coreGrantRestoreDone core => decide (core < 384)
  | .undefinedOpcode g w => g.ok && opcodeReserved (w.extractLsb' 0 8)
  | .ethRefclkLoss n => decide (n < 2)
  | .ethRefclkReturn n => decide (n < 2)

end Sys2Proof
end

