-- ==== Sys2Proof/Certificates/Slice0/Obligations.lean ====
section
/-! DEFINITION. The statements for the provers, in the order of OBLIGATIONS.json. -/

open Sys2Proof Sys2Proof.Machine

/-! ## Integer instructions (R115) -/

namespace Sys2Proof.Says

/-- An operand of an integer type as a number, read as two's complement when the type is signed. -/
def asInt (t x : Nat) : Int := if tSigned t then (BitVec.ofNat (tWidth t) x).toInt else (x : Int)

/-- A number narrowed to a type: reduced modulo its width, or with SAT clamped to the type's range. -/
def fit (t : Nat) (sat : Bool) (x : Int) : Nat :=
  let w := tWidth t
  let lo : Int := if tSigned t then -(2 ^ (w - 1)) else 0
  let hi : Int := if tSigned t then 2 ^ (w - 1) - 1 else 2 ^ w - 1
  (BitVec.ofInt w (if sat then Max.max lo (Min.min hi x) else x)).toNat

/-- An operand of `n` registers in lane `l`. -/
def src (e : Env) (code : BitVec 9) (n l : Nat) : Nat := e.g.run l ⟨code, n⟩

/-- The same as a bit vector. -/
def srcW (e : Env) (w : Nat) (code : BitVec 9) (n l : Nat) : BitVec w := BitVec.ofNat w (src e code n l)

/-- The exact product of two 32-bit operands as a 64-bit word. -/
def wide (t : Nat) (a b : BitVec 32) : BitVec 64 :=
  if tSigned t then a.signExtend 64 * b.signExtend 64 else a.setWidth 64 * b.setWidth 64

/-- An instruction of the R format writes `val` to a run of `nd` registers. -/
def RResult (c : GroupRef → RFields → Instr) (form : RFields → Form) (nd : RFields → Nat) (val : RFields → Env → Nat → Nat) : Prop :=
  ∀ s r f e, Canonical s → Runs s r (form f) e → WritesResult (c r f) s e (form f) ⟨f.dst, nd f⟩ (val f e) 0

/-- An instruction of the I format writes `op A IMM`. -/
def IResult (c : GroupRef → IFields → Instr) (op : BitVec 32 → BitVec 32 → BitVec 32) : Prop :=
  ∀ s r f e, Canonical s → Runs s r (iForm f (.reg 1) (.reg 1) true) e →
    WritesResult (c r f) s e (iForm f (.reg 1) (.reg 1) true) ⟨f.dst, 1⟩ (fun l => (op (srcW e 32 f.srcA 1 l) f.imm).toNat) 0

/-- Registers of the type of an instruction. -/
abbrev regs (f : RFields) : Nat := tRegs (rTyp f)

/-- Bits of the type of an instruction. -/
abbrev wid (f : RFields) : Nat := tWidth (rTyp f)

/-- The form of an operation on operands of its type: two, one, or a shift with its amount in one register. -/
def form2 (types : List Nat) (sat : Bool) (f : RFields) : Form :=
  opForm f (modStd f types false sat 1) (regs f) (.reg (regs f)) (.reg (regs f)) .unused

/-- One operand. -/
def form1 (types : List Nat) (sat : Bool) (f : RFields) : Form :=
  opForm f (modStd f types false sat 1) (regs f) (.reg (regs f)) .unused .unused

/-- One operand and a one-register result. -/
def formCount (f : RFields) : Form :=
  opForm f (modStd f [tU32, tU64] false false 1) 1 (.reg (regs f)) .unused .unused

/-- A shift. -/
def formShift (types : List Nat) (f : RFields) : Form :=
  opForm f (modStd f types false false 1) (regs f) (.reg (regs f)) (.reg 1) .unused

/-- Two or three one-register operands. -/
def formW2 (types : List Nat) (f : RFields) : Form := opForm f (modStd f types false false 1) 1 (.reg 1) (.reg 1) .unused

/-- Three one-register operands. -/
def formW3 (types : List Nat) (f : RFields) : Form := opForm f (modStd f types false false 1) 1 (.reg 1) (.reg 1) (.reg 1)

/-- The amount of a shift: B[7:0]. -/
def amount (e : Env) (f : RFields) (l : Nat) : Nat := src e f.srcB 1 l % 256

/-- The position and length of a bit field: B[7:0] and B[15:8]. -/
def fieldMask (b : Nat) : BitVec 32 := (BitVec.ofNat 32 (2 ^ (b / 256 % 256) - 1)) <<< (b % 256)

end Sys2Proof.Says

open Sys2Proof.Says

/-- R115: sums, differences, products, quotients and remainders. -/
def Obligations.IntegerArithmetic : Prop :=
  RResult .add (form2 tAll true) regs (fun f e l =>
    fit (rTyp f) (rSat f) (asInt (rTyp f) (src e f.srcA (regs f) l) + asInt (rTyp f) (src e f.srcB (regs f) l))) ∧
  RResult .sub (form2 tAll true) regs (fun f e l =>
    fit (rTyp f) (rSat f) (asInt (rTyp f) (src e f.srcA (regs f) l) - asInt (rTyp f) (src e f.srcB (regs f) l))) ∧
  RResult .mulLo (formW2 [tS32, tU32]) (fun _ => 1) (fun f e l => (srcW e 32 f.srcA 1 l * srcW e 32 f.srcB 1 l).toNat) ∧
  RResult .mulHi (formW2 [tS32, tU32]) (fun _ => 1) (fun f e l =>
    ((wide (rTyp f) (srcW e 32 f.srcA 1 l) (srcW e 32 f.srcB 1 l)).extractLsb' 32 32).toNat) ∧
  RResult .mad (fun f => opForm f (modStd f tAll false false 1) (regs f) (.reg 1) (.reg 1) (.reg (regs f))) regs (fun f e l =>
    ((wide (rTyp f) (srcW e 32 f.srcA 1 l) (srcW e 32 f.srcB 1 l)).setWidth (wid f) + srcW e (wid f) f.srcC (regs f) l).toNat) ∧
  RResult .div (formW2 [tS32, tU32]) (fun _ => 1) (fun f e l =>
    let a := srcW e 32 f.srcA 1 l
    let b := srcW e 32 f.srcB 1 l
    (if b = 0 then BitVec.allOnes 32 else if tSigned (rTyp f) then a.sdiv b else a / b).toNat) ∧
  RResult .rem (formW2 [tS32, tU32]) (fun _ => 1) (fun f e l =>
    let a := srcW e 32 f.srcA 1 l
    let b := srcW e 32 f.srcB 1 l
    (if b = 0 then a else if tSigned (rTyp f) then a.srem b else a % b).toNat)

/-- R115: the smaller and the larger operand, the absolute value and the negation. -/
def Obligations.IntegerSelections : Prop :=
  RResult .min (form2 tAll false) regs (fun f e l =>
    fit (rTyp f) false (Min.min (asInt (rTyp f) (src e f.srcA (regs f) l)) (asInt (rTyp f) (src e f.srcB (regs f) l)))) ∧
  RResult .max (form2 tAll false) regs (fun f e l =>
    fit (rTyp f) false (Max.max (asInt (rTyp f) (src e f.srcA (regs f) l)) (asInt (rTyp f) (src e f.srcB (regs f) l)))) ∧
  RResult .abs (form1 [tS32, tS64] true) regs (fun f e l =>
    fit (rTyp f) (rSat f) (asInt (rTyp f) (src e f.srcA (regs f) l)).natAbs) ∧
  RResult .neg (form1 [tS32, tS64] true) regs (fun f e l => fit (rTyp f) (rSat f) (-(asInt (rTyp f) (src e f.srcA (regs f) l)))) ∧
  RResult .mov (fun f => opForm f (modStd f [tU32] false false 1) 1 (.reg 1) .unused .unused) (fun _ => 1)
    (fun f e l => src e f.srcA 1 l) ∧
  RResult .sel (fun f => opForm f (modStd f [tU32] false false 1) 1 (.reg 1) (.reg 1) .pred) (fun _ => 1)
    (fun f e l => if e.g.pred l f.srcC.toNat then src e f.srcA 1 l else src e f.srcB 1 l)

/-- R115: bitwise operations, counts and reversal. -/
def Obligations.IntegerLogic : Prop :=
  RResult .and (form2 [tU32, tU64] false) regs (fun f e l => (srcW e (wid f) f.srcA (regs f) l &&& srcW e (wid f) f.srcB (regs f) l).toNat) ∧
  RResult .or (form2 [tU32, tU64] false) regs (fun f e l => (srcW e (wid f) f.srcA (regs f) l ||| srcW e (wid f) f.srcB (regs f) l).toNat) ∧
  RResult .xor (form2 [tU32, tU64] false) regs (fun f e l => (srcW e (wid f) f.srcA (regs f) l ^^^ srcW e (wid f) f.srcB (regs f) l).toNat) ∧
  RResult .not (form1 [tU32, tU64] false) regs (fun f e l => (~~~(srcW e (wid f) f.srcA (regs f) l)).toNat) ∧
  RResult .popc formCount (fun _ => 1) (fun f e l => (List.range (wid f)).countP fun i => (src e f.srcA (regs f) l).testBit i) ∧
  RResult .clz formCount (fun _ => 1) (fun f e l => (srcW e (wid f) f.srcA (regs f) l).clz.toNat) ∧
  RResult .brev (form1 [tU32, tU64] false) regs (fun f e l => (srcW e (wid f) f.srcA (regs f) l).reverse.toNat) ∧
  RResult .bfn3 (fun f => opForm f (rTyp f == tU32) 1 (.reg 1) (.reg 1) (.reg 1)) (fun _ => 1) (fun f e l =>
    (List.range 32).foldl (fun y n => y + if (fld f.mod 4 8).testBit (b2n ((src e f.srcA 1 l).testBit n) +
      2 * b2n ((src e f.srcB 1 l).testBit n) + 4 * b2n ((src e f.srcC 1 l).testBit n)) then 2 ^ n else 0) 0)

/-- R115: shifts, rotation, bit fields and byte permutation. -/
def Obligations.IntegerShifts : Prop :=
  RResult .shl (formShift [tU32, tU64]) regs (fun f e l => (srcW e (wid f) f.srcA (regs f) l <<< amount e f l).toNat) ∧
  RResult .shr (formShift [tU32, tU64]) regs (fun f e l => (srcW e (wid f) f.srcA (regs f) l >>> amount e f l).toNat) ∧
  RResult .sar (formShift [tS32, tS64]) regs (fun f e l => ((srcW e (wid f) f.srcA (regs f) l).sshiftRight (amount e f l)).toNat) ∧
  RResult .rot (formShift [tU32, tU64]) regs (fun f e l => ((srcW e (wid f) f.srcA (regs f) l).rotateLeft (amount e f l)).toNat) ∧
  RResult .bfe (formW2 [tU32, tS32]) (fun _ => 1) (fun f e l =>
    let b := src e f.srcB 1 l
    let len := b / 256 % 256
    let x := (srcW e 32 f.srcA 1 l >>> (b % 256)) &&& BitVec.ofNat 32 (2 ^ len - 1)
    (if tSigned (rTyp f) ∧ len ≠ 0 ∧ x.getLsbD (len - 1) then x ||| ~~~(BitVec.ofNat 32 (2 ^ len - 1)) else x).toNat) ∧
  RResult .bfi (formW3 [tU32]) (fun _ => 1) (fun f e l =>
    let m := fieldMask (src e f.srcB 1 l)
    (((srcW e 32 f.srcA 1 l <<< (src e f.srcB 1 l % 256)) &&& m) ||| (srcW e 32 f.srcC 1 l &&& ~~~m)).toNat) ∧
  RResult .prmt (formW3 [tU32]) (fun _ => 1) (fun f e l =>
    let x : BitVec 64 := srcW e 32 f.srcB 1 l ++ srcW e 32 f.srcA 1 l
    let byte (n : Nat) : BitVec 8 := x.extractLsb' (8 * (src e f.srcC 1 l / 2 ^ (4 * n) % 8)) 8
    (byte 3 ++ byte 2 ++ byte 1 ++ byte 0).toNat)

/-- R115: the immediate forms. -/
def Obligations.Immediates : Prop :=
  IResult .addI (· + ·) ∧ IResult .mulI (· * ·) ∧ IResult .andI (· &&& ·) ∧ IResult .orI (· ||| ·) ∧ IResult .xorI (· ^^^ ·) ∧
  IResult .shlI (fun a b => a <<< (b.toNat % 256)) ∧ IResult .shrI (fun a b => a >>> (b.toNat % 256)) ∧
  IResult .sarI (fun a b => a.sshiftRight (b.toNat % 256)) ∧
  IResult .minI (fun a b => if b.slt a then b else a) ∧ IResult .maxI (fun a b => if a.slt b then b else a) ∧
  ∀ s r f e, Canonical s → Runs s r (iForm f (.reg 1) .unused true) e →
    WritesResult (.movi r f) s e (iForm f (.reg 1) .unused true) ⟨f.dst, 1⟩ (fun _ => f.imm.toNat) 0

/-! ## Predicates (R113, R115) -/

namespace Sys2Proof.Says

/-- A OPX B for OPX 0 EQ, 1 NE, 2 LT, 3 LE, 4 GT, 5 GE. -/
def relation (opx : Nat) (a b : Int) : Bool :=
  [decide (a = b), decide (a ≠ b), decide (a < b), decide (a ≤ b), decide (a > b), decide (a ≥ b)].getD opx false

/-- The form of `setp`. -/
def formSetp (f : RFields) : Form :=
  rForm f .pred (.reg (regs f)) (.reg (regs f)) .unused (modStd f tAll false false 6) false false

/-- The form of `plop`. -/
def formPlop (f : RFields) : Form := rForm f .pred .pred .pred .unused (modStd f [0] false false 16) false false

/-- The form of `setp.i`: COND is DST[6:3], DST[8] is reserved. -/
def formSetpI (f : IFields) : Form := iForm f .raw (.reg 1) (decide (fld f.dst 3 4 < 6) && !bit f.dst 8)

/-- The acting lanes in which predicate `p` is 1. -/
def ones (e : Env) (i : Form) (p : Nat) : List Nat := (e.acts i).filter fun l => e.g.pred l p

end Sys2Proof.Says

/-- R113 and R115: `setp`, `setp.i` and `plop` write one predicate of each acting lane; `vote` writes the same value, or the
ballot of the acting lanes. -/
def Obligations.Predicates : Prop :=
  (∀ s r f e, Canonical s → Runs s r (formSetp f) e → WritesPredicate (.setp r f) s e (formSetp f) f.dst.toNat (fun l =>
    relation (rOpx f) (asInt (rTyp f) (src e f.srcA (regs f) l)) (asInt (rTyp f) (src e f.srcB (regs f) l))) 0) ∧
  (∀ s r f e, Canonical s → Runs s r (formSetpI f) e → WritesPredicate (.setpI r f) s e (formSetpI f) (fld f.dst 0 3) (fun l =>
    let t := if bit f.dst 7 then tU32 else tS32
    relation (fld f.dst 3 4) (asInt t (src e f.srcA 1 l)) (asInt t f.imm.toNat)) 0) ∧
  (∀ s r f e, Canonical s → Runs s r (formPlop f) e → WritesPredicate (.plop r f) s e (formPlop f) f.dst.toNat (fun l =>
    (rOpx f).testBit (2 * b2n (e.g.pred l f.srcA.toNat) + b2n (e.g.pred l f.srcB.toNat))) 0) ∧
  (∀ s r f e, Canonical s → Runs s r (voteForm f) e →
    (rOpx f = 0 → WritesPredicate (.vote r f) s e (voteForm f) f.dst.toNat (fun _ => (ones e (voteForm f) f.srcA.toNat) != []) 0) ∧
    (rOpx f = 1 → WritesPredicate (.vote r f) s e (voteForm f) f.dst.toNat
      (fun _ => (e.acts (voteForm f)).all fun l => e.g.pred l f.srcA.toNat) 0) ∧
    (rOpx f = 2 → WritesResult (.vote r f) s e { voteForm f with uniform := isS f.dst } ⟨f.dst, 1⟩
      (fun _ => (maskOf (ones e (voteForm f) f.srcA.toNat)).toNat) 0))

/-! ## Control (R108 to R112, R114) -/

namespace Sys2Proof.Says

/-- The form of an instruction with no register field and MOD 0. -/
abbrev formBare (f : RFields) : Form := bareForm f

/-- The form of `call`. -/
def formCall (f : BFields) : Form := bForm f [⟨0x13E, 2⟩] (f.reconv == 0 && !f.guard.en) true

/-- The form of `jmp.r`. -/
def formJmp (f : RFields) : Form := rForm f .unused (.reg 2) .unused .unused (f.mod == 0) true true

/-- An instruction that continues at `pc` with every value kept. -/
def Jumps (c : Instr) (s : State) (e : Env) (pc : DWord) : Prop :=
  ∃ t g, MovesOn c s t e g ∧ SameValues e.g g ∧ (e.g.stack = [] → g.pc = pc ∧ g.active = e.g.active ∧ g.stack = [])

end Sys2Proof.Says

/-- R79, R98, R108, R109 and R110: `nop` and an untaken branch go on at the next word, a branch that all lanes take and `jmp.r` go
to their target, `call` writes the return address to s62 and s63 and goes to its target; `exit` ends the acting threads; `brk`
stops the group at the instruction when debug is enabled for its context. -/
def Obligations.FlowInstructions : Prop :=
  (∀ s r f e, Canonical s → Runs s r (formBare f) e → Jumps (.nop r f) s e (e.g.pc + 8)) ∧
  (∀ s r f e, Canonical s → Runs s r (braForm f) e → e.g.acting f.guard = e.g.active →
    Jumps (.bra r f) s e (pcPlus e.g.pc f.target)) ∧
  (∀ s r f e, Canonical s → Runs s r (braForm f) e → e.g.acting f.guard = 0 → e.g.active ≠ 0 →
    Jumps (.bra r f) s e (e.g.pc + 8)) ∧
  (∀ s r f e, Canonical s → Runs s r (formJmp f) e → Jumps (.jmpR r f) s e (BitVec.ofNat 64 (src e f.srcA 2 0))) ∧
  (∀ s r f e, Canonical s → Runs s r (formCall f) e → ∃ t g, exec (.call r f) s = .next t ∧ ReadsOnly s e.s ∧
    OnlyGroup e.s t e.c e.k ∧ t.group e.c e.k = some g ∧ g.run 0 ⟨0x13E, 2⟩ = (e.g.pc + 8).toNat ∧
    (∀ l code, code ≠ 0x13E → code ≠ 0x13F → g.reg l code = e.g.reg l code) ∧
    (e.g.stack = [] → g.pc = pcPlus e.g.pc f.target)) ∧
  (∀ s r f e, Canonical s → Runs s r (formBare f) e → e.g.acting f.guard ≠ 0 → unreportedFailure s e.c e.k e.n = false →
    ∃ t g, exec (.exit r f) s = .next t ∧ ReadsOnly s e.s ∧ t.group e.c e.k = some g ∧ g.exited = e.g.exited ||| e.g.acting f.guard ∧
      (∀ l code, g.reg l code = e.g.reg l code) ∧ t = { e.s with cores := t.cores, accesses := t.accesses, xlat := t.xlat }) ∧
  (∀ s r f e, Canonical s → Runs s r (formBare f) e → e.acts (formBare f) ≠ [] → debugOn s e.l.ctx = true →
    ∃ t g, exec (.brk r f) s = .next t ∧ ReadsOnly s e.s ∧ t.group e.c e.k = some g ∧
      g = { e.g with wait := .debugger, res := g.res } ∧ ((s.core e.c).work.launch = some e.n → g.res = []) ∧
      t.sec.debugEvents = min (s.sec.debugEvents + 1) (2 ^ 64 - 1) ∧
      t = { e.s with cores := t.cores, clusters := t.clusters, sec := t.sec })

/-- R77 and R78: a divergent branch pushes one entry with the other path, and the path whose start address is lower runs first;
a path that starts at the reconvergence address is over at once. -/
def Obligations.DivergentBranch : Prop :=
  ∀ s r f e, Canonical s → Runs s r (braForm f) e → e.g.acting f.guard ≠ e.g.active → e.g.acting f.guard ≠ 0 →
    e.g.stack.length < 8 →
    let taken := e.g.acting f.guard
    let other := e.g.active &&& ~~~taken
    let target := pcPlus e.g.pc f.target
    let fall := e.g.pc + 8
    let reconv := pcPlus e.g.pc f.reconv
    let low := if target.toNat ≤ fall.toNat then target else fall
    let high := if target.toNat ≤ fall.toNat then fall else target
    let second := if target.toNat ≤ fall.toNat then other else taken
    ∃ t g, exec (.bra r f) s = .next t ∧ ReadsOnly s e.s ∧ OnlyGroup e.s t e.c e.k ∧ t.group e.c e.k = some g ∧ SameValues e.g g ∧
      (low ≠ reconv → g.pc = low ∧ g.active = (if target.toNat ≤ fall.toNat then taken else other) ∧
        g.stack = { rpc := reconv, pendingPc := high, pendingMask := second, savedMask := e.g.active } :: e.g.stack) ∧
      (low = reconv → high ≠ reconv → g.pc = high ∧ g.active = second ∧
        g.stack = { rpc := reconv, pendingPc := high, pendingMask := 0, savedMask := e.g.active } :: e.g.stack) ∧
      (low = reconv → high = reconv → e.g.stack = [] → e.g.spilled = 0 → g.pc = reconv ∧ g.active = e.g.active ∧ g.stack = [])

/-- R111, R112 and R114: special values, the sticky flags, and the exchange between lanes. -/
def Obligations.SpecialValues : Prop :=
  (∀ s r f e, Canonical s → Runs s r (rdSvForm f) e → ∃ n, n = svRegs f.srcA.toNat ∧
    WritesResult (.rdSv r f) s e (rdSvForm f) ⟨f.dst, n⟩ (fun l =>
      ([l, e.g.index, ((blockOf s e.c e.g).map (·.number)).getD 0, ((blockOf s e.c e.g).map (·.number)).getD 0 % e.l.gridX,
        ((blockOf s e.c e.g).map (·.number)).getD 0 / e.l.gridX % e.l.gridY,
        ((blockOf s e.c e.g).map (·.number)).getD 0 / (e.l.gridX * e.l.gridY), r.core, r.quad, e.g.active.toNat, s.power.now,
        s.desk.steepNumber].getD f.srcA.toNat 0) % 2 ^ (32 * n)) 0) ∧
  (∀ s r f e, Canonical s → Runs s r (rForm f (.reg 1) .unused .unused .unused (f.mod == 0) true false) e →
    WritesResult (.flgRd r f) s e (rForm f (.reg 1) .unused .unused .unused (f.mod == 0) true false) ⟨f.dst, 1⟩
      (fun _ => e.g.flags.toNat) 0) ∧
  (∀ s r f e, Canonical s → Runs s r (rForm f .unused (.reg 1) .unused .unused (f.mod == 0) true false) e →
    ∃ t g, MovesOn (.flgClr r f) s t e g ∧ Advanced e.g g ∧ g.flags =
      if e.acts (rForm f .unused (.reg 1) .unused .unused (f.mod == 0) true false) = [] then e.g.flags
      else e.g.flags &&& ~~~((BitVec.ofNat 5 (src e f.srcA 1 0)))) ∧
  (∀ s r f e, let i := rForm f (.reg 1) (.reg 1) (.reg 1) .unused (modStd f [0] false false 4 && isV f.dst) false false
    Canonical s → Runs s r i e → WritesResult (.shfl r f) s e i ⟨f.dst, 1⟩ (fun l =>
      let b := src e f.srcB 1 l
      let m : Int := [((b % 32 : Nat) : Int), (l : Int) - b, ((l + b : Nat) : Int), ((l ^^^ (b % 32) : Nat) : Int)].getD (rOpx f) 0
      if 0 ≤ m ∧ m.toNat ∈ e.acts i then src e f.srcA 1 m.toNat else src e f.srcA 1 l) 0)

/-! ## Floating point and conversions (R116 to R118, R604) -/

namespace Sys2Proof.Says

/-- Registers of the long type of an instruction. -/
abbrev fregs (f : RFields) : Nat := fRegs (rTyp f)

/-- The form of an operation on two long operands, with RM or without. -/
def formF2 (rm : Bool) (f : RFields) : Form :=
  opForm f (modStd f tFloat rm false 1) (fregs f) (.reg (fregs f)) (.reg (fregs f)) .unused

/-- The form of an operation on one long operand. -/
def formF1 (f : RFields) : Form := opForm f (modStd f tFloat false false 1) (fregs f) (.reg (fregs f)) .unused .unused

/-- Writes a value of each lane and raises the flags that the lanes raise. -/
def FResult (c : GroupRef → RFields → Instr) (form : RFields → Form) (nd : RFields → Nat)
    (val : RFields → Env → Nat → Nat × BitVec 5) : Prop :=
  ∀ s r f e, Canonical s → Runs s r (form f) e →
    WritesResult (c r f) s e (form f) ⟨f.dst, nd f⟩ (fun l => (val f e l).1 % 2 ^ (32 * nd f))
      ((resultLanes e (form f)).foldl (fun x l => x ||| (val f e l).2) 0)

/-- An instruction of form `i` has written the number of `val` of each acting lane to `n` registers and raised the flags of all. -/
structure Rounded (s t : State) (e : Env) (i : Form) (dst : BitVec 9) (n : Nat) (val : Nat → Nat × BitVec 5) (g : Group) : Prop where
  fetch  : ReadsOnly s e.s
  only   : OnlyGroup e.s t e.c e.k
  group  : t.group e.c e.k = some g
  result : RegsWritten e.g g ⟨dst, n⟩ (resultLanes e i) fun l => (val l).1 % 2 ^ (32 * n)
  preds  : ∀ l j, g.pred l j = e.g.pred l j
  flags  : g.flags = e.g.flags ||| (resultLanes e i).foldl (fun x l => x ||| (val l).2) 0
  moved  : Advanced e.g g

/-- The form of `cvt`. -/
def formCvt (f : RFields) : Form :=
  opForm f (modStd f tCvt true false 16 && tCvt.contains (rOpx f)) (cRegs (rTyp f)) (.reg (cRegs (rOpx f))) .unused .unused

/-- The form of `cvt.pk`. -/
def formPack (f : RFields) : Form := opForm f (modStd f tLeaf true false (32 / leafWidth (rTyp f))) 1 (.reg 1) (.reg 1) (.reg 1)

/-- The form of `cvt.up`. -/
def formUnpack (f : RFields) : Form := opForm f (modStd f tLeaf true false (32 / leafWidth (rTyp f))) 1 (.reg 1) (.reg 1) .unused

/-- The form of `cdy.fit`. -/
def formFit (f : RFields) : Form := opForm f (modStd f tLeaf false false 2) 1 (.reg 1) .unused .unused

/-- The sign bits of the numbers in a register run: one of each half for F16. -/
def signs (t : Nat) : Nat := if t = 1 then 0x80008000 else if t = 2 then 2 ^ 63 else 2 ^ 31

/-- The number that a finite code stands for. -/
def number (m : Fmt) (x : Nat) : ℚ :=
  match unpack m x with
  | .fin n k e => (if n then -1 else 1) * (k : ℚ) * (2 : ℚ) ^ e
  | _ => 0

/-- Whether a code is a number: no NaN, no infinity. -/
def Finite (m : Fmt) (x : Nat) : Prop := x < 2 ^ m.width ∧ ∃ n k e, unpack m x = .fin n k e

/-- `r` is a number of the format nearest to `x`. -/
def Nearest (m : Fmt) (x : ℚ) (r : Nat) : Prop := ∀ y, Finite m y → |number m r - x| ≤ |number m y - x|

/-- The value of one of the approximate functions at a special operand, and the flags that it then sets (R604), for an operand code
after flushing. -/
def specialCase (z zNeg inf infNeg : Nat × BitVec 5) (neg : Option (Nat × BitVec 5)) (x : Nat) : Option (Nat × BitVec 5) :=
  match unpack f32 x with
  | .nan _ signalling => some (quietNan f32 x, if signalling then fInvalid else 0)
  | _ => if x = 0 then some z else if x = 0x80000000 then some zNeg
    else if x = 0x7F800000 then some inf else if x = 0xFF800000 then some infNeg
    else if 0x80000000 ≤ x then neg else none

/-- The form of an approximate function. -/
def formApprox (f : RFields) : Form := opForm f (modStd f [0] false false 1) 1 (.reg 1) .unused .unused

/-- `t` is the state and `g` the group after an approximate function: each result lane receives a value, the table's at a special
operand. -/
structure Approximated (s t : State) (e : Env) (f : RFields) (g : Group) (special : Nat → Option (Nat × BitVec 5))
    (val : Nat → Nat × BitVec 5) : Prop where
  fetch  : ReadsOnly s e.s
  only   : OnlyGroup { e.s with fresh := e.s.fresh + 32 } t e.c e.k
  group  : t.group e.c e.k = some g
  result : RegsWritten e.g g ⟨f.dst, 1⟩ (resultLanes e (formApprox f)) fun l => (val l).1
  flags  : g.flags = (resultLanes e (formApprox f)).foldl (fun x l => x ||| (val l).2) e.g.flags
  moved  : Advanced e.g g
  table  : ∀ l v, l ∈ resultLanes e (formApprox f) → special (flushIn f32 e.l.subnormal (src e f.srcA 1 l)) = some v → val l = v

end Sys2Proof.Says

/-- R116: the floating-point operations write one rounded result per lane and raise their flags. -/
def Obligations.FloatOperations : Prop :=
  FResult .fadd (formF2 true) fregs (fun f e l => fBin (rTyp f) (fun m a b => fAdd m e.l.subnormal (rRm f) a b)
    (src e f.srcA (fregs f) l) (src e f.srcB (fregs f) l)) ∧
  FResult .fsub (formF2 true) fregs (fun f e l => fBin (rTyp f) (fun m a b => fSub m e.l.subnormal (rRm f) a b)
    (src e f.srcA (fregs f) l) (src e f.srcB (fregs f) l)) ∧
  FResult .fmul (formF2 true) fregs (fun f e l => fBin (rTyp f) (fun m a b => fMul m e.l.subnormal (rRm f) a b)
    (src e f.srcA (fregs f) l) (src e f.srcB (fregs f) l)) ∧
  FResult .fma (fun f => opForm f (modStd f tFloat true false 1) (fregs f) (.reg (fregs f)) (.reg (fregs f)) (.reg (fregs f))) fregs
    (fun f e l =>
      let a := src e f.srcA (fregs f) l
      let b := src e f.srcB (fregs f) l
      let c := src e f.srcC (fregs f) l
      if rTyp f = 1 then halves3 (fun x y z => fFma f16 e.l.subnormal (rRm f) x y z) a b c
      else fFma (fmtOf (rTyp f)) e.l.subnormal (rRm f) a b c) ∧
  FResult .fmin (formF2 false) fregs (fun f e l => fBin (rTyp f) (fun m a b => fMinMax m e.l.subnormal false a b)
    (src e f.srcA (fregs f) l) (src e f.srcB (fregs f) l)) ∧
  FResult .fmax (formF2 false) fregs (fun f e l => fBin (rTyp f) (fun m a b => fMinMax m e.l.subnormal true a b)
    (src e f.srcA (fregs f) l) (src e f.srcB (fregs f) l)) ∧
  FResult .fabs formF1 fregs (fun f e l => (src e f.srcA (fregs f) l - (src e f.srcA (fregs f) l &&& signs (rTyp f)), 0)) ∧
  FResult .fneg formF1 fregs (fun f e l => (src e f.srcA (fregs f) l ^^^ signs (rTyp f), 0)) ∧
  FResult .fclass (fun f => opForm f (modStd f [0, 2] false false 1) 1 (.reg (fregs f)) .unused .unused) (fun _ => 1)
    (fun f e l => (fClass (fmtOf (rTyp f)) (src e f.srcA (fregs f) l), 0)) ∧
  (∀ s r f e, let i := rForm f .pred (.reg (fregs f)) (.reg (fregs f)) .unused (modStd f tFloat false false 8) false false
    let m := fmtOf (rTyp f)
    let v := fun l => fSetp m e.l.subnormal (rOpx f) (src e f.srcA (fregs f) l % 2 ^ m.width) (src e f.srcB (fregs f) l % 2 ^ m.width)
    Canonical s → Runs s r i e → WritesPredicate (.fsetp r f) s e i f.dst.toNat (fun l => (v l).1)
      ((e.acts i).foldl (fun x l => x ||| (v l).2) 0))

/-- R116 and R162: a sum, product or fused product and sum of numbers, rounded to nearest, is no farther from the exact result
than any number of the format, and inexact says exactly that it differs from it. -/
def Obligations.RoundingIsNearest : Prop :=
  ∀ m, m = f16 ∨ m = f32 ∨ m = f64 → ∀ a b c, Finite m a → Finite m b → Finite m c →
    (Finite m (fAdd m 0 0 a b).1 → Nearest m (number m a + number m b) (fAdd m 0 0 a b).1 ∧
      ((fAdd m 0 0 a b).2 &&& fInexact = 0 ↔ number m (fAdd m 0 0 a b).1 = number m a + number m b)) ∧
    (Finite m (fMul m 0 0 a b).1 → Nearest m (number m a * number m b) (fMul m 0 0 a b).1 ∧
      ((fMul m 0 0 a b).2 &&& fInexact = 0 ↔ number m (fMul m 0 0 a b).1 = number m a * number m b)) ∧
    (Finite m (fFma m 0 0 a b c).1 → Nearest m (number m a * number m b + number m c) (fFma m 0 0 a b c).1 ∧
      ((fFma m 0 0 a b c).2 &&& fInexact = 0 ↔ number m (fFma m 0 0 a b c).1 = number m a * number m b + number m c))

/-- R117, R118 and R604: conversions, packing, unpacking and the choice of a Caddy write one result per lane, and so do the
approximate functions, with the table's value at a special operand. -/
def Obligations.ConversionsAndFunctions : Prop :=
  (∀ s r f e, Canonical s → Runs s r (formCvt f) e → ∃ t g, exec (.cvt r f) s = .next t ∧
    Rounded s t e (formCvt f) f.dst (cRegs (rTyp f))
      (fun l => convert e.l.subnormal (rRm f) (rOpx f) (rTyp f) (src e f.srcA (cRegs (rOpx f)) l)) g) ∧
  (∀ s r f e, Canonical s → Runs s r (formPack f) e → ∃ t g, exec (.cvtPk r f) s = .next t ∧
    Rounded s t e (formPack f) f.dst 1 (fun l =>
      let q := caddyEncode (rTyp f) e.l.subnormal (rRm f) (src e f.srcB 1 l % 256) (src e f.srcA 1 l)
      let w := leafWidth (rTyp f)
      -- the code's container is replaced and every other bit of C is kept
      ((setFld (srcW e 32 f.srcC 1 l) (w * rOpx f) w q.1).toNat, q.2)) g) ∧
  (∀ s r f e, Canonical s → Runs s r (formUnpack f) e → ∃ t g, exec (.cvtUp r f) s = .next t ∧
    Rounded s t e (formUnpack f) f.dst 1 (fun l => caddyDecode (rTyp f) e.l.subnormal (rRm f) (src e f.srcB 1 l % 256)
      (fld (srcW e 32 f.srcA 1 l) (leafWidth (rTyp f) * rOpx f) (leafWidth (rTyp f)))) g) ∧
  (∀ s r f e, Canonical s → Runs s r (formFit f) e → ∃ t g, exec (.cdyFit r f) s = .next t ∧
    Rounded s t e (formFit f) f.dst 1 (fun l =>
      (caddyFit (rTyp f) e.l.subnormal
        (((e.acts (formFit f)).filter fun m => rOpx f == 1 || m / 16 == l / 16).map fun m => src e f.srcA 1 m), 0)) g) ∧
  (∀ s r f e, Canonical s → Runs s r (formApprox f) e → ∃ t g val, exec (.frcp r f) s = .next t ∧
    Approximated s t e f g (specialCase (0x7F800000, fDivZero) (0xFF800000, fDivZero) (0, 0) (0x80000000, 0) none) val) ∧
  (∀ s r f e, Canonical s → Runs s r (formApprox f) e → ∃ t g val, exec (.frsq r f) s = .next t ∧
    Approximated s t e f g (specialCase (0x7F800000, fDivZero) (0xFF800000, fDivZero) (0, 0) (0x7FC00000, fInvalid)
      (some (0x7FC00000, fInvalid))) val) ∧
  (∀ s r f e, Canonical s → Runs s r (formApprox f) e → ∃ t g val, exec (.fex2 r f) s = .next t ∧
    Approximated s t e f g (specialCase (0x3F800000, 0) (0x3F800000, 0) (0x7F800000, 0) (0, 0) none) val) ∧
  (∀ s r f e, Canonical s → Runs s r (formApprox f) e → ∃ t g val, exec (.flg2 r f) s = .next t ∧
    Approximated s t e f g (specialCase (0xFF800000, fDivZero) (0xFF800000, fDivZero) (0x7F800000, 0) (0x7FC00000, fInvalid)
      (some (0x7FC00000, fInvalid))) val)

/-! ## Memory instructions (R119 to R133) -/

namespace Sys2Proof.Says

/-- The form of `ld`, R121. -/
def formLd (f : MFields) : Form :=
  mForm f true false .unused (ldstOk f && (!f.sext || decide (f.size.toNat < 2)) && decide (f.sem.toNat < 2))

/-- The form of `st`. -/
def formSt (f : MFields) : Form := mForm f false true .unused (ldstOk f && !f.sext && (f.sem == 0 || f.sem == 2))

/-- The form of `ld.res`. -/
def formLdRes (f : MFields) : Form := mForm f true false .unused (pairOk f && decide (f.sem.toNat < 2))

/-- The form of `st.cond`, whose DATA2 receives the status. -/
def formStCond (f : MFields) : Form := mForm f false true (.wreg 1) (pairOk f && (f.sem == 0 || f.sem == 2))

/-- The form of an atomic: `float` where ATYPE 2 is allowed, `cmp` where DATA2 is the comparand. -/
def formAtom (float cmp : Bool) (f : MFields) : Form :=
  mForm f true true (if cmp then .reg (mRegs f) else .unused)
    ((f.size == 2 || f.size == 3) && !f.sext && f.cache != 3 && (float || f.cache != 2))

/-- The accesses that one instruction adds, behind every access already in flight. -/
structure Issued (s t : State) (e : Env) (kind : AccKind) (acq rel : Bool) (new : List Access) : Prop where
  added : t.accesses = s.accesses ++ new
  count : t.nextAcc = s.nextAcc + new.length
  each  : ∀ a ∈ new, s.nextAcc ≤ a.id ∧ a.id < t.nextAcc ∧ a.ins = s.nextAcc ∧ a.engine = .group e.c e.k ∧ a.ctx = e.l.ctx ∧
    a.launch = e.n ∧ a.kind = kind ∧ a.acq = acq ∧ a.rel = rel ∧ a.pc = e.g.pc ∧ a.stage = .issued ∧ a.epoch = e.g.epoch

/-- A memory instruction of form `i` can issue on local store: every acting lane's address is aligned and in its block's part. -/
structure LocalOps (s : State) (r : GroupRef) (e : Env) (f : MFields) (i : Form) : Prop where
  sound : Canonical s
  runs  : Runs s r i e
  space : f.space = true
  acts  : e.acts i ≠ []
  fits  : ∀ l ∈ e.acts i, mAddr f e.g l % mBytes f = 0 ∧ mAddr f e.g l + mBytes f ≤ e.l.lsPer * 1024

/-- It has issued one access of its acting lanes, at the block's part of local store. -/
structure LocallyIssued (s t : State) (e : Env) (f : MFields) (i : Form) (kind : AccKind) (acq rel : Bool) : Prop where
  fetch  : ReadsOnly s e.s
  kept   : MemoryKept e.s t
  group  : ∃ g, t.group e.c e.k = some g ∧ SameValues e.g g ∧ Advanced e.g g
  access : ∃ a, Issued s t e kind acq rel [a] ∧ a.target = .localStore e.c ∧ a.win = false ∧ a.size = mBytes f ∧
    a.lanes.map (fun x => (x.lane, x.addr, x.data)) = (e.acts i).map fun l =>
      (l, lsBase e + mAddr f e.g l, BitVec.ofNat 128 (src e f.data (mRegs f) l))

/-- What looking up the addresses of an instruction's lanes leaves. -/
def lookedUp (e : Env) (i : Form) (f : MFields) : State := lookUps e.s (.core e.c) e.l.ctx ((e.acts i).map (mAddr f e.g))

/-- A memory instruction of form `i` can issue on global memory: every acting lane's address is aligned and translates to the
ordinary DRAM address `pa` of this device. -/
structure GlobalOps (s : State) (r : GroupRef) (e : Env) (f : MFields) (i : Form) (kind : AccKind) (pa : Nat → Nat) : Prop where
  sound : Canonical s
  runs  : Runs s r i e
  space : f.space = false
  acts  : e.acts i ≠ []
  maps  : ∀ l ∈ e.acts i, mAddr f e.g l % mBytes f = 0 ∧ mAddr f e.g l < 2 ^ 56 ∧ pa l < dramEnd ∧
    ∃ lf, translate (lookedUp e i f) (.core e.c) e.l.ctx (mAddr f e.g l) kind.xkind = .ok (lf, .phys (pa l) false)

/-- It has issued accesses to the lines' homes: every acting lane is in one of them at the address that its translation gives.
Nothing of memory changes but by the fetch and the lookups. -/
structure GloballyIssued (s t : State) (e : Env) (f : MFields) (i : Form) (kind : AccKind) (acq rel : Bool) (pa : Nat → Nat) : Prop where
  fetch    : ReadsOnly s (lookedUp e i f)
  kept     : MemoryKept (lookedUp e i f) t
  group    : ∃ g, t.group e.c e.k = some g ∧ SameValues e.g g ∧ Advanced e.g g
  accesses : ∃ new, Issued s t e kind acq rel new ∧
    (∀ a ∈ new, a.size = mBytes f ∧ (∃ n, a.target = .home n) ∧ ∀ x ∈ a.lanes, x.lane ∈ e.acts i) ∧
    ∀ l ∈ e.acts i, ∃ a ∈ new, ∃ x ∈ a.lanes, x.lane = l ∧ x.addr = pa l ∧ x.va = mAddr f e.g l ∧
      x.data = BitVec.ofNat 128 (src e f.data (mRegs f) l)

/-- The kind of access of an atomic. -/
def atomKind (op : AtomOp) (f : MFields) : AccKind := .atomic op f.cache

/-- SEM bit 0 of an atomic: acquire. -/
def atomAcq (f : MFields) : Bool := bit f.sem 0

/-- SEM bit 1 of an atomic: release. -/
def atomRel (f : MFields) : Bool := bit f.sem 1

end Sys2Proof.Says

/-- R119, R122, R123, R125 and R238: loads, stores and atomics of local store are issued as one access; loads, stores, the
reservation pair and atomics of global memory are issued to the homes. -/
def Obligations.MemoryInstructions : Prop :=
  (∀ s r f e, LocalOps s r e f (formLd f) → ∃ t, exec (.ld r f) s = .next t ∧
    LocallyIssued s t e f (formLd f) .load (f.sem == 1) false) ∧
  (∀ s r f e, LocalOps s r e f (formSt f) → ∃ t, exec (.st r f) s = .next t ∧
    LocallyIssued s t e f (formSt f) .store false (f.sem == 2)) ∧
  (∀ s r f e, LocalOps s r e f (formAtom true false f) → ∃ t, exec (.atomAdd r f) s = .next t ∧
    LocallyIssued s t e f (formAtom true false f) (atomKind .add f) (atomAcq f) (atomRel f)) ∧
  (∀ s r f e, LocalOps s r e f (formAtom true false f) → ∃ t, exec (.atomMin r f) s = .next t ∧
    LocallyIssued s t e f (formAtom true false f) (atomKind .min f) (atomAcq f) (atomRel f)) ∧
  (∀ s r f e, LocalOps s r e f (formAtom true false f) → ∃ t, exec (.atomMax r f) s = .next t ∧
    LocallyIssued s t e f (formAtom true false f) (atomKind .max f) (atomAcq f) (atomRel f)) ∧
  (∀ s r f e, LocalOps s r e f (formAtom false false f) → ∃ t, exec (.atomAnd r f) s = .next t ∧
    LocallyIssued s t e f (formAtom false false f) (atomKind .and f) (atomAcq f) (atomRel f)) ∧
  (∀ s r f e, LocalOps s r e f (formAtom false false f) → ∃ t, exec (.atomOr r f) s = .next t ∧
    LocallyIssued s t e f (formAtom false false f) (atomKind .or f) (atomAcq f) (atomRel f)) ∧
  (∀ s r f e, LocalOps s r e f (formAtom false false f) → ∃ t, exec (.atomXor r f) s = .next t ∧
    LocallyIssued s t e f (formAtom false false f) (atomKind .xor f) (atomAcq f) (atomRel f)) ∧
  (∀ s r f e, LocalOps s r e f (formAtom false false f) → ∃ t, exec (.atomExch r f) s = .next t ∧
    LocallyIssued s t e f (formAtom false false f) (atomKind .exch f) (atomAcq f) (atomRel f)) ∧
  (∀ s r f e, LocalOps s r e f (formAtom false true f) → ∃ t, exec (.atomCas r f) s = .next t ∧
    LocallyIssued s t e f (formAtom false true f) (atomKind .cas f) (atomAcq f) (atomRel f)) ∧
  (∀ s r f e pa, GlobalOps s r e f (formLd f) .load pa → ∃ t, exec (.ld r f) s = .next t ∧
    GloballyIssued s t e f (formLd f) .load (f.sem == 1) false pa) ∧
  (∀ s r f e pa, GlobalOps s r e f (formSt f) .store pa → ∃ t, exec (.st r f) s = .next t ∧
    GloballyIssued s t e f (formSt f) .store false (f.sem == 2) pa) ∧
  (∀ s r f e pa, GlobalOps s r e f (formLdRes f) .ldRes pa → ∃ t, exec (.ldRes r f) s = .next t ∧
    GloballyIssued s t e f (formLdRes f) .ldRes (f.sem == 1) false pa) ∧
  (∀ s r f e pa, GlobalOps s r e f (formStCond f) .stCond pa → ∃ t, exec (.stCond r f) s = .next t ∧
    GloballyIssued s t e f (formStCond f) .stCond false (f.sem == 2) pa) ∧
  (∀ s r f e pa, GlobalOps s r e f (formAtom true false f) (atomKind .add f) pa → ∃ t, exec (.atomAdd r f) s = .next t ∧
    GloballyIssued s t e f (formAtom true false f) (atomKind .add f) (atomAcq f) (atomRel f) pa) ∧
  (∀ s r f e pa, GlobalOps s r e f (formAtom true false f) (atomKind .min f) pa → ∃ t, exec (.atomMin r f) s = .next t ∧
    GloballyIssued s t e f (formAtom true false f) (atomKind .min f) (atomAcq f) (atomRel f) pa) ∧
  (∀ s r f e pa, GlobalOps s r e f (formAtom true false f) (atomKind .max f) pa → ∃ t, exec (.atomMax r f) s = .next t ∧
    GloballyIssued s t e f (formAtom true false f) (atomKind .max f) (atomAcq f) (atomRel f) pa) ∧
  (∀ s r f e pa, GlobalOps s r e f (formAtom false false f) (atomKind .and f) pa → ∃ t, exec (.atomAnd r f) s = .next t ∧
    GloballyIssued s t e f (formAtom false false f) (atomKind .and f) (atomAcq f) (atomRel f) pa) ∧
  (∀ s r f e pa, GlobalOps s r e f (formAtom false false f) (atomKind .or f) pa → ∃ t, exec (.atomOr r f) s = .next t ∧
    GloballyIssued s t e f (formAtom false false f) (atomKind .or f) (atomAcq f) (atomRel f) pa) ∧
  (∀ s r f e pa, GlobalOps s r e f (formAtom false false f) (atomKind .xor f) pa → ∃ t, exec (.atomXor r f) s = .next t ∧
    GloballyIssued s t e f (formAtom false false f) (atomKind .xor f) (atomAcq f) (atomRel f) pa) ∧
  (∀ s r f e pa, GlobalOps s r e f (formAtom false false f) (atomKind .exch f) pa → ∃ t, exec (.atomExch r f) s = .next t ∧
    GloballyIssued s t e f (formAtom false false f) (atomKind .exch f) (atomAcq f) (atomRel f) pa) ∧
  (∀ s r f e pa, GlobalOps s r e f (formAtom false true f) (atomKind .cas f) pa → ∃ t, exec (.atomCas r f) s = .next t ∧
    GloballyIssued s t e f (formAtom false true f) (atomKind .cas f) (atomAcq f) (atomRel f) pa)

/-! ### What an access does at local store -/

namespace Sys2Proof.Says

/-- Access `a` of a resident group is issued, nothing holds it back, and its end point in the local store of core `c` runs. -/
structure AtLocalStore (s : State) (a : Access) (c k : Nat) (g : Group) : Prop where
  found  : s.access a.id = some a
  stage  : a.stage = .issued
  may    : mayPerform s a = true
  up     : clusterUp s (c / 16) = true
  target : a.target = .localStore c
  plain  : a.win = false
  engine : a.engine = .group c k
  slot   : k < 64
  group  : s.group c k = some g
  launch : g.launch = a.launch
  lanes  : (a.lanes.map (·.lane)).Nodup ∧ ∀ x ∈ a.lanes, x.lane < 32
  normal : a.dev = false
  alone  : ∀ b ∈ s.accesses, b.sibling a = true → b = a

/-- Byte `o` of the local store of core `c`. -/
def lsByte (s : State) (c o : Nat) : Byte := sget (fun _ => 0) (s.core c).work.ls o

/-- `n` bytes of local store as a number, least significant first. -/
def lsNumber (s : State) (c o n : Nat) : Nat := (List.range n).foldl (fun v i => v + (lsByte s c (o + i)).toNat * 256 ^ i) 0

/-- The v registers of an access's destination. -/
def vDst (a : Access) : Prop := a.dst.toNat + regsFor a.size ≤ 0x100

/-- What is left in flight when access `a` has been performed. -/
def Gone (s t : State) (a : Access) : Prop := t.accesses = s.accesses.filter fun b => b.id != a.id

/-- What is left in flight when the instruction of access `a` has ended. -/
def InstrGone (s t : State) (a : Access) : Prop := t.accesses = s.accesses.filter fun b => !b.sibling a

/-- The new value of one atomic operation on `w` bits (R126). -/
def atomResult (op : AtomOp) (signed : Bool) (w old d c : Nat) : Nat :=
  let lt (x y : Nat) : Bool := if signed then (BitVec.ofNat w x).slt (BitVec.ofNat w y) else decide (x < y)
  match op with
  | .add => (old + d) % 2 ^ w
  | .min => if lt d old then d else old
  | .max => if lt old d then d else old
  | .and => old &&& d
  | .or => old ||| d
  | .xor => old ^^^ d
  | .exch => d
  | .cas => if old = c then d else old

end Sys2Proof.Says

/-- R119, R120 and R126: what a load, a store and an atomic do at local store. A load writes each lane's bytes, least significant
first and extended, to its registers (to none for ZR), and memory and every other register stay; a store writes each lane's bytes,
of lanes that write one byte the last wins, and no other byte; an integer or bitwise atomic of one lane writes the operation's result
and gives the lane the value from before. -/
def Obligations.LocalStoreAccesses : Prop :=
  (∀ s a c k g, Canonical s → AtLocalStore s a c k g → a.kind = .load → (vDst a ∧ a.dst.toNat % regsFor a.size = 0 ∨ a.dst = ZR) →
    a.size ∈ [1, 2, 4, 8, 16] → (a.sext = true → a.size < 4) →
    (∀ x ∈ a.lanes, (lsRead s c x.addr a.size).bad = false) →
    ∃ t h, exec (.accessComplete a.id) s = .next t ∧ InstrGone s t a ∧ t.group c k = some h ∧
      (a.dst ≠ ZR → ∀ x ∈ a.lanes, h.run x.lane ⟨a.dst, regsFor a.size⟩ =
        if a.sext then ((BitVec.ofNat (8 * a.size) (lsNumber s c x.addr a.size)).signExtend 32).toNat else lsNumber s c x.addr a.size) ∧
      (∀ l code, l < 32 → ¬ (l ∈ a.lanes.map (·.lane) ∧ a.dst.toNat ≤ code ∧ code < a.dst.toNat + regsFor a.size) →
        h.reg l code = g.reg l code) ∧
      (∀ l j, h.pred l j = g.pred l j) ∧ h.flags = g.flags ∧ h.pc = g.pc ∧ h.res = g.res ∧
      t.dram = s.dram ∧ t.clusters = s.clusters ∧ ∀ d o, lsByte t d o = lsByte s d o) ∧
  (∀ s a c k g, Canonical s → AtLocalStore s a c k g → a.kind = .store → a.rel = false →
    ∃ t, exec (.accessComplete a.id) s = .next t ∧ Gone s t a ∧ t.dram = s.dram ∧ t.clusters = s.clusters ∧
      t.group c k = some g ∧
      (∀ o, lsByte t c o = a.lanes.foldl (fun v x =>
        if x.addr ≤ o ∧ o < x.addr + a.size then BitVec.ofNat 8 (x.data.toNat / 256 ^ (o - x.addr)) else v) (lsByte s c o)) ∧
      ∀ d o, d ≠ c → lsByte t d o = lsByte s d o) ∧
  (∀ s a c k g x op t0, Canonical s → AtLocalStore s a c k g → a.kind = .atomic op t0 → t0.toNat < 2 → a.lanes = [x] →
    (a.size = 4 ∨ a.size = 8) → vDst a → a.dst.toNat % regsFor a.size = 0 → a.rel = false → a.acq = false →
    x.addr % a.size = 0 → x.data.toNat < 2 ^ (8 * a.size) → x.cmp.toNat < 2 ^ (8 * a.size) →
    (lsRead s c x.addr a.size).bad = false →
    ∃ t h, exec (.accessComplete a.id) s = .next t ∧ InstrGone s t a ∧ t.group c k = some h ∧
      h.run x.lane ⟨a.dst, regsFor a.size⟩ = lsNumber s c x.addr a.size ∧
      lsNumber t c x.addr a.size =
        atomResult op (t0 == 1) (8 * a.size) (lsNumber s c x.addr a.size) x.data.toNat x.cmp.toNat ∧
      (∀ o, ¬ (x.addr ≤ o ∧ o < x.addr + a.size) → lsByte t c o = lsByte s c o) ∧ t.dram = s.dram)

/-! ### What an access does at the home of its line -/

namespace Sys2Proof.Says

/-- Access `a` is issued in `s`, nothing holds it back, its home runs with its cache on, and in `u` the line stands in way `key` with
every sector that the access touches; no eviction-buffer entry holds the line (R262). -/
structure AtHome (s u : State) (a : Access) (key : Nat) : Prop where
  found  : s.access a.id = some a
  stage  : a.stage = .issued
  may    : mayPerform s a = true
  target : a.target = .home (homeOfLine a.line)
  up     : clusterUp s (homeOfLine a.line) = true
  on     : ccOff u (homeOfLine a.line) = false
  hit    : (u.cluster (homeOfLine a.line)).find a.line = some key
  inline : ∀ x ∈ a.lanes, x.addr / 128 = a.line ∧ x.addr % 128 + a.size ≤ 128
  held   : a.sectors &&& ~~~((u.cluster (homeOfLine a.line)).way key).valid = 0
  clear  : ∀ e ∈ (u.cluster (homeOfLine a.line)).evict, e.line ≠ a.line
  others : ∀ b ∈ s.accesses, b.sibling a = true → b.kind = a.kind ∧ ∃ n, b.target = .home n

/-- Byte `i` of way `key` of cluster cache `n`. -/
def wayByte (s : State) (n key i : Nat) : Byte := lineByte ((s.cluster n).way key).data i

end Sys2Proof.Says

/-! ## Fences, maintenance and releases (R129 to R133, R285, R289) -/

namespace Sys2Proof.Says

/-- The form of a uniform instruction with no register field and MOD 0 (`bar.blk`). -/
def formUniform (f : RFields) (modOk : Bool) : Form := rForm f .unused .unused .unused .unused modOk true false

/-- A waiting group of a launch continues behind the instruction at which it waited. -/
def Resumes (s t : State) (c k : Nat) (g : Group) : Prop :=
  ∃ h, t.group c k = some h ∧ SameValues g h ∧ h.wait = .ready ∧ h.launch = g.launch ∧ h.exited = g.exited ∧
    (g.stack = [] → h.pc = g.pc + 8 ∧ h.active = g.active) ∧ s.dram = t.dram

/-- `t` is the state, `g` the group and `new` the accesses after an instruction that issues maintenance of `level` and `op`; `u` is
the state that its fetch and lookups leave. -/
structure Maintains (s u t : State) (e : Env) (g : Group) (level op : Nat) (new : List Access) : Prop where
  reads  : ReadsOnly s u
  issued : Issued s t e (.maint level op) false false new
  kept   : MemoryKept u t
  group  : t.group e.c e.k = some g
  values : SameValues e.g g
  moved  : Advanced e.g g

end Sys2Proof.Says

/-- R129 to R132, R269 and R289: `fence.order` orders and goes on, `fence.done` waits for every access issued before it, and the wait
ends once none of them is left, with the L1 invalidated unless the launch runs without it; `cmo` issues maintenance of every line of
its range to the line's home, `cmo.sw` of one set and way. -/
def Obligations.FencesAndMaintenance : Prop :=
  (∀ s r f e, Canonical s → Runs s r (formBare f) e → e.acts (formBare f) ≠ [] →
    ∃ t g, exec (.fenceOrder r f) s = .next t ∧ ReadsOnly s e.s ∧ OnlyGroup e.s t e.c e.k ∧ t.group e.c e.k = some g ∧ SameValues e.g g ∧
      g.epoch = e.g.epoch + 1 ∧ (e.g.stack = [] → g.pc = e.g.pc + 8)) ∧
  (∀ s r f e, Canonical s → Runs s r (formBare f) e → e.acts (formBare f) ≠ [] →
    ∃ t, exec (.fenceDone r f) s = .next t ∧ ReadsOnly s e.s ∧ OnlyGroup e.s t e.c e.k ∧
      t.group e.c e.k = some { e.g with wait := .fence s.nextAcc }) ∧
  (∀ s r g l before, Canonical s → waiting? s r = some (g, l) → g.wait = .fence before →
    (∀ a ∈ s.accesses, a.by r.core (gkey r) g.launch = true → before ≤ a.ins) →
    ∃ t, exec (.fenceDoneRelease r) s = .next t ∧ Resumes s t r.core (gkey r) g ∧
      (l.l1Off = false → (t.core r.core).l1 = [] ∧ ∀ m ∈ (t.core r.core).misses, m.invalidated = true) ∧
      (l.l1Off = true → (t.core r.core).l1 = (s.core r.core).l1) ∧ t.accesses = s.accesses ∧ t.clusters = s.clusters) ∧
  (∀ s r f e u ls, Canonical s → Runs s r (cmoForm f 2 3) e → e.acts (cmoForm f 2 3) ≠ [] → src e f.srcB 1 0 ≠ 0 →
    cmoRange e.s (.core e.c) e.l.ctx (fld f.mod 2 2) (src e f.srcA 2 0) (src e f.srcB 1 0) = (.ok ls, u) →
    ∃ t g new, exec (.cmo r f) s = .next t ∧ Maintains s u t e g (fld f.mod 0 2) (fld f.mod 2 2) new ∧
      (∀ x ∈ ls, ∃ a ∈ new, a.target = .home (homeOfLine x) ∧ ∃ y ∈ a.lanes, y.addr = x) ∧
      ∀ a ∈ new, a.size = 0 ∧ ∀ y ∈ a.lanes, y.addr ∈ ls ∧ a.target = .home (homeOfLine y.addr)) ∧
  (∀ s r f e, Canonical s → Runs s r (cmoForm f 1 2) e → e.acts (cmoForm f 1 2) ≠ [] →
    (fld f.mod 0 2 = 1 → (s.queue e.l.queue).cls = .kernel) →
    src e f.srcA 1 0 < (if fld f.mod 0 2 = 0 then (s.core e.c).nsets else 4096) →
    src e f.srcB 1 0 < (if fld f.mod 0 2 = 0 then 4 else 16) →
    ∃ t g a y, exec (.cmoSw r f) s = .next t ∧ Maintains s e.s t e g (fld f.mod 0 2) (fld f.mod 2 2) [a] ∧ a.size = 1 ∧
      a.lanes = [y] ∧ a.target = .home (e.c / 16) ∧
      y.addr = src e f.srcA 1 0 * (if fld f.mod 0 2 = 0 then 4 else 16) + src e f.srcB 1 0)

/-- R120, R255, R257, R266, R267 and R356: a store that notes its pages in the dirty map and then hits at its home writes its lanes'
bytes of the line, the last lane winning, marks the touched sectors dirty, and leaves every other line of every cluster cache and all of
DRAM as it was; cleaning a line that its home holds writes its dirty sectors to the vault and keeps the line clean, invalidating it
empties its way. -/
def Obligations.LinesAtHome : Prop :=
  (∀ s u a key, Canonical s → u = noteLanes s a → AtHome s u a key → a.kind = .store → a.rel = false → a.acq = false →
    let n := homeOfLine a.line
    ((∀ x ∈ a.lanes, (s.ctx a.ctx).dirtyTrack = false ∨ x.va / 65536 ∈ dirtyOf s a.ctx) → u = s) ∧
    ∃ t, exec (.accessComplete a.id) s = .next t ∧ Gone s t a ∧ t.dram = u.dram ∧
      (∀ x ∈ a.lanes, (s.ctx a.ctx).dirtyTrack = true → (findLeaf s a.ctx (x.va / 65536 * 65536)).any leafDram = true →
        x.va / 65536 ∈ dirtyOf t a.ctx) ∧
      (∀ i, i < 128 → wayByte t n key i = a.lanes.foldl (fun v x =>
        if x.addr % 128 ≤ i ∧ i < x.addr % 128 + a.size then BitVec.ofNat 8 (x.data.toNat / 256 ^ (i - x.addr % 128)) else v)
        (wayByte u n key i)) ∧
      ((t.cluster n).way key).line = ((u.cluster n).way key).line ∧
      ((t.cluster n).way key).valid = ((u.cluster n).way key).valid ∧
      ((t.cluster n).way key).dirty = ((u.cluster n).way key).dirty ||| a.sectors ∧
      (∀ k, k ≠ key → (t.cluster n).way k = (u.cluster n).way k) ∧
      (∀ m, m ≠ n → (t.cluster m).lines = (u.cluster m).lines) ∧ ∀ m, (t.cluster m).evict = (u.cluster m).evict) ∧
  (∀ s a x key op, Canonical s → s.access a.id = some a → a.stage = .issued → mayPerform s a = true → a.acq = false →
    clusterUp s (homeOfLine x.addr) = true → a.target = .home (homeOfLine x.addr) → a.kind = .maint 1 op → a.size = 0 → a.lanes = [x] →
    (s.cluster (homeOfLine x.addr)).find x.addr = some key →
    (∀ e ∈ (s.cluster (homeOfLine x.addr)).evict, e.line ≠ x.addr) →
    let w := (s.cluster (homeOfLine x.addr)).way key
    ∃ t, exec (.accessComplete a.id) s = .next t ∧ Gone s t a ∧
      (op = 1 → (t.cluster (homeOfLine x.addr)).way key = { w with dirty := 0 } ∧
        (∀ i, i < 4 → bit w.dirty i = true → t.dram.data (4 * x.addr + i) = getSector w.data i) ∧
        ∀ pa, pa / 128 ≠ x.addr → t.dram.byte pa = s.dram.byte pa) ∧
      (op = 2 → (t.cluster (homeOfLine x.addr)).way key = CcLine.none ∧ t.dram = s.dram))

/-- R285: a release is performed once nothing of its group's reads and its quadrant's writes is left: a signal takes its effect
(R134) and gives its status, and a releasing store or atomic may then be performed. -/
def Obligations.Releases : Prop :=
  (∀ s a add n v, Canonical s → s.access a.id = some a → a.rel = true → a.stage = .issued → releaseReady s a = true →
    releaseFailed s a = false → a.kind = .signal add n v →
    (s.tally n).assigned = true → (s.tally n).tenant = tenantOf s a.ctx → (s.tally n).abandoned = false → n ≤ 65535 →
    (∀ c k g, groupOf s a = some (c, k, g) → 0x100 ≤ a.dst.toNat) →
    let old := (s.tally n).value
    let new := if add then old + v else v
    new < 2 ^ 63 →
    ∃ t, exec (.releasePerform a.id) s = .next t ∧ Gone s t a ∧
      (t.tally n).value = max old new ∧ (∀ m, m ≠ n → t.tally m = s.tally m) ∧
      (∀ c k g, groupOf s a = some (c, k, g) → isS a.dst = true → ∃ h, t.group c k = some h ∧ h.pc = g.pc ∧
        h.run 0 ⟨a.dst, 1⟩ = (if old ≤ new then Code.success else Code.signalIgnored).toNat) ∧ t.dram = s.dram) ∧
  (∀ s a, s.access a.id = some a → a.rel = true → a.stage = .issued → releaseReady s a = true → releaseFailed s a = false →
    (∀ add n v, a.kind ≠ .signal add n v) →
    ∃ t, exec (.releasePerform a.id) s = .next t ∧ t = { s with accesses := t.accesses } ∧
      t.accesses = s.accesses.map fun b => if b.sibling a = true then { b with rel := false } else b)

/-! ## Tallies and barriers (R84 to R87, R134, R135, R311 to R331) -/

namespace Sys2Proof.Says

/-- The form of `tly.sig` and `tly.add`. -/
def formSignal (f : RFields) : Form := rForm f (.reg 1) (.reg 1) (.reg 2) .zr (f.mod == 0) true false

/-- The form of `tly.poll`. -/
def formPoll (f : RFields) : Form := rForm f (.reg 1) (.reg 1) .zr (.wreg 2) (f.mod == 0) true false

/-- The form of `tly.wait`. -/
def formWait (f : RFields) : Form := rForm f (.reg 1) (.reg 1) (.reg 2) (.wreg 2) (f.mod == 0) true false

/-- The tally word: the abandoned flag in bit 63 above the value. -/
def tallyWord (t : Tally) : Nat := (if t.abandoned then 2 ^ 63 else 0) + t.value

/-- The status register and the word pair of a tally instruction do not overlap. -/
def Apart (f : RFields) : Prop :=
  f.dst = ZR ∨ f.srcC = ZR ∨ (f.dst.toNat ≠ f.srcC.toNat ∧ f.dst.toNat ≠ f.srcC.toNat + 1)

/-- `t` is the state and `g` the group after a tally instruction that answers a status and the tally word, with acquire. -/
structure TallyAnswer (s t : State) (e : Env) (g : Group) (f : RFields) (st : Status) : Prop where
  reads  : ReadsOnly s e.s
  kept   : t = { e.s with cores := t.cores }
  group  : t.group e.c e.k = some g
  moved  : Advanced e.g g
  l1     : e.l.l1Off = false → (t.core e.c).l1 = []
  status : f.dst ≠ ZR → g.run 0 ⟨f.dst, 1⟩ = st.toNat
  word   : f.srcC ≠ ZR → g.run 0 ⟨f.srcC, 2⟩ = tallyWord (s.tally (src e f.srcA 1 0))
  others : ∀ l code, code ≠ f.dst.toNat → code ≠ f.srcC.toNat → code ≠ f.srcC.toNat + 1 → g.reg l code = e.g.reg l code

/-- Tally `n` may be used by the launch of a group. -/
def MayUse (s : State) (e : Env) (n : Nat) : Prop :=
  n ≤ 65535 ∧ (s.tally n).assigned = true ∧ (s.tally n).tenant = tenantOf s e.l.ctx ∧ (s.tally n).value < 2 ^ 63

end Sys2Proof.Says

/-- R134, R321 and R322: `tly.sig` and `tly.add` issue their signal, `tly.poll` reads the word, and `tly.wait` answers at once when the
target is met, else registers a watch and sleeps; a wake leaves the hub and reaches the group that sleeps: the word and the status
are written and the group continues. -/
def Obligations.TalliesAndWakes : Prop :=
  (∀ s r f e, Canonical s → Runs s r (formSignal f) e → e.acts (formSignal f) ≠ [] →
    ∃ t g a, exec (.tlySig r f) s = .next t ∧ ReadsOnly s e.s ∧
      Issued s t e (.signal false (src e f.srcA 1 0) (src e f.srcB 2 0)) false true [a] ∧
      MemoryKept e.s t ∧ t.group e.c e.k = some g ∧ SameValues e.g g ∧ Advanced e.g g ∧ a.dst = f.dst) ∧
  (∀ s r f e, Canonical s → Runs s r (formSignal f) e → e.acts (formSignal f) ≠ [] →
    ∃ t g a, exec (.tlyAdd r f) s = .next t ∧ ReadsOnly s e.s ∧
      Issued s t e (.signal true (src e f.srcA 1 0) (src e f.srcB 2 0)) false true [a] ∧
      MemoryKept e.s t ∧ t.group e.c e.k = some g ∧ SameValues e.g g ∧ Advanced e.g g ∧ a.dst = f.dst) ∧
  (∀ s r f e, Canonical s → Runs s r (formPoll f) e → e.acts (formPoll f) ≠ [] → acquiring e = false → Apart f →
    MayUse s e (src e f.srcA 1 0) → ∃ t g, exec (.tlyPoll r f) s = .next t ∧ TallyAnswer s t e g f Code.success) ∧
  (∀ s r f e, Canonical s → Runs s r (formWait f) e → e.acts (formWait f) ≠ [] → acquiring e = false → Apart f →
    let n := src e f.srcA 1 0
    let target := src e f.srcB 2 0
    MayUse s e n →
    ((s.tally n).abandoned = true → ∃ t g, exec (.tlyWait r f) s = .next t ∧ TallyAnswer s t e g f Code.tallyAbandoned) ∧
    ((s.tally n).abandoned = false → target ≤ (s.tally n).value →
      ∃ t g, exec (.tlyWait r f) s = .next t ∧ TallyAnswer s t e g f Code.success) ∧
    ((s.tally n).abandoned = false → (s.tally n).value < target → s.hub.watches.length < 16384 →
      (s.hub.watches.filter fun w => w.tenant == tenantOf s e.l.ctx).length < s.hub.quota →
      ∃ t, exec (.tlyWait r f) s = .next t ∧ ReadsOnly s e.s ∧ t = { e.s with cores := t.cores, hub := t.hub } ∧
        t.group e.c e.k = some { e.g with wait := .tally f.dst f.srcC } ∧
        t.hub = { s.hub with watches := s.hub.watches ++
          [{ kind := .group e.c e.k, tally := n, target := target, tenant := tenantOf s e.l.ctx, ctx := e.l.ctx }] })) ∧
  (∀ s tally w c k g l dst word, Canonical s → bit s.power.clocks 1 = true →
    (s.hub.wakes.find? fun w => w.tally == tally) = some w → w.kind = .group c k → s.group c k = some g → g.wait = .tally dst word →
    s.launch g.launch = some l → isS dst = true → isS word = true → word.toNat % 2 = 0 →
    dst.toNat ≠ word.toNat → dst.toNat ≠ word.toNat + 1 →
    ∃ t h, exec (.watchWake tally) s = .next t ∧ t.hub = { s.hub with wakes := s.hub.wakes.erase w } ∧ t.group c k = some h ∧
      h.wait = .ready ∧ h.run 0 ⟨word, 2⟩ = w.word.toNat ∧
      h.run 0 ⟨dst, 1⟩ = (if w.abandoned then Code.tallyAbandoned else Code.success).toNat ∧
      (g.stack = [] → h.pc = g.pc + 8) ∧ (l.l1Off = false → (t.core c).l1 = []) ∧ t.dram = s.dram)

/-- R84 to R86, R135 and R331: arriving at a barrier; the block's groups continue when the last has arrived, the groups at a
channel when the device releases it. -/
def Obligations.Barriers : Prop :=
  (∀ s r f e, Canonical s → Runs s r (formUniform f (f.mod == 0)) e → e.acts (formUniform f (f.mod == 0)) ≠ [] →
    e.g.active = ~~~e.g.exited → localDone e = true →
    ((∃ x ∈ blockGroups s e.c e.g.block, x.1 ≠ e.k ∧ x.2.done = false ∧ x.2.wait ≠ .barrier) →
      ∃ t, exec (.barBlk r f) s = .next t ∧ ReadsOnly s e.s ∧ OnlyGroup e.s t e.c e.k ∧ t.group e.c e.k = some { e.g with wait := .barrier }) ∧
    ((∀ x ∈ blockGroups s e.c e.g.block, x.1 = e.k ∨ x.2.done = true ∨ x.2.wait = .barrier) →
      ∃ t, exec (.barBlk r f) s = .next t ∧ ReadsOnly s e.s ∧ t = { e.s with cores := t.cores } ∧ Resumes e.s t e.c e.k e.g ∧
        ∀ x ∈ blockGroups s e.c e.g.block, x.2.done = false → x.1 ≠ e.k → Resumes e.s t e.c x.1 x.2)) ∧
  (∀ s r f e, let i := formUniform f (fld f.mod 6 6 == 0)
    Canonical s → Runs s r i e → e.acts i ≠ [] → e.g.active = ~~~e.g.exited → fld f.mod 0 6 < e.l.devBars →
    ∃ t, exec (.barDev r f) s = .next t ∧ ReadsOnly s e.s ∧ OnlyGroup e.s t e.c e.k ∧
      t.group e.c e.k = some { e.g with wait := .channel (fld f.mod 0 6) }) ∧
  (∀ s ch b l c k g, Canonical s → oget s.hub.channels ch = some b → s.launch b.launch = some l → channelReady s b.launch b.logical = true →
    l.cores.Nodup → c ∈ l.cores → s.group c k = some g → g.wait = .channel b.logical →
    ∃ t, exec (.deviceBarrierRelease ch) s = .next t ∧ Resumes s t c k g ∧
      sget (fun _ => false) t.hub.phases ch = !sget (fun _ => false) s.hub.phases ch ∧ t.dram = s.dram)

/-! ## The matrix engine (R136 to R141, R174 to R200) -/

namespace Sys2Proof.Says

/-- The matrix engine of core `c`. -/
def mxOf (s : State) (c : Nat) : MxEngine := (s.core c).work.mx

/-- The instruction `c` is handed to the engine behind every instruction accepted before, with the operand values of now, and
its group goes on. -/
def HandsOff (c : Instr) (s : State) (e : Env) (kind : MxKind) : Prop :=
  ∃ t g, exec c s = .next t ∧ ReadsOnly s e.s ∧ MemoryKept e.s t ∧ t.accesses = s.accesses ∧ t.group e.c e.k = some g ∧
    SameValues e.g g ∧ Advanced e.g g ∧ mxOf t e.c = { mxOf s e.c with queue := (mxOf s e.c).queue ++
      [{ kind := kind, slot := e.k, pc := e.g.pc, base := lsBase e, before := s.nextAcc, started := false, span := 0 }] }

/-- The engine of a group's core has room (R191). -/
def HasRoom (s : State) (e : Env) : Prop := (mxOf s e.c).queue.length < 16

/-- The next instruction of a pipe, and those accepted before it, when it may start now (R192 to R195). -/
structure MxReady (s : State) (c : Nat) (pipe : MxPipe) (before : List MxEntry) (e : MxEntry) : Prop where
  running : (s.core c).stage = .running
  up      : clusterUp s (c / 16) = true
  next    : mxNext (mxOf s c).queue pipe = some (before, e)
  free    : pipe ≠ .array → ∀ y ∈ before, ¬ (y.started = true ∧ y.kind.pipe = pipe)
  clear   : ∀ y ∈ before, mxWaits e y = false
  local'  : mxLocalDone s c e = true

/-- The oldest started instruction of a pipe, which completes next. -/
structure MxEnds (s : State) (c : Nat) (pipe : MxPipe) (i : Nat) (e : MxEntry) : Prop where
  up    : clusterUp s (c / 16) = true
  first : ((mxOf s c).queue.findIdx? fun x => x.kind.pipe == pipe && x.started) = some i
  entry : (mxOf s c).queue[i]? = some e

end Sys2Proof.Says

/-- R72, R136, R139 to R141, R187 and R191: matrix instructions are handed to the engine with the values of their registers, `mx.sync`
goes on once none of its group's instructions is left, and while the engine's queue is full its group is not ready. -/
def Obligations.MatrixHandOff : Prop :=
  (∀ s r f e, let i := mxForm f (.reg 1) (.reg 1) (.reg 1) (fld f.mod 1 11 == 0)
    let a := src e f.srcA 1 0; let n := src e f.srcB 1 0; let o := src e f.srcC 1 0
    Canonical s → Runs s r i e → HasRoom s e → a % 32 = 0 → n % 32 = 0 → o % 32 = 0 → 32 ≤ n → o + n ≤ 65536 →
    a + n ≤ e.l.lsPer * 1024 → HandsOff (.mxLd r f) s e (.ld (bit f.mod 0) a n o)) ∧
  (∀ s r f e, let i := mxForm f (.reg 1) (.reg 1) .zr (fld f.mod 1 11 == 0)
    let a := src e f.srcA 1 0; let n := src e f.srcB 1 0
    Canonical s → Runs s r i e → HasRoom s e → a % 32 = 0 → n % 32 = 0 → 32 ≤ n → n ≤ (if bit f.mod 0 then 512 else 4128) →
    a + n ≤ e.l.lsPer * 1024 → HandsOff (.mxLdx r f) s e (.ldx (bit f.mod 0) a n)) ∧
  (∀ s r f e, Canonical s → Runs s r { guard := f.guard, dsts := [], srcs := [], legal := mxOpOk f, uniform := true } e →
    HasRoom s e → HandsOff (.mxOp r f) s e (.op f)) ∧
  (∀ s r f e, let i := mxForm f (.reg 1) (.reg 1) .zr ([0, 1, 3, 4].contains (fld f.mod 0 4) && fld f.mod 8 4 == 0)
    let a := src e f.srcA 1 0; let b := src e f.srcB 1 0; let z := if fld f.mod 0 4 = 0 then 4 else if fld f.mod 0 4 = 1 then 2 else 1
    Canonical s → Runs s r i e → HasRoom s e → a % 32 = 0 → b % 32 = 0 → a + (31 * b + 32 * z) ≤ e.l.lsPer * 1024 →
    HandsOff (.mxSt r f) s e (.st (BitVec.ofNat 4 (fld f.mod 0 4)) (fld f.mod 4 3) (bit f.mod 7) a b)) ∧
  (∀ s r f e, Canonical s → Runs s r (mxForm f .zr .zr .zr (fld f.mod 0 4 == 0 && fld f.mod 7 5 == 0)) e → HasRoom s e →
    HandsOff (.mxZero r f) s e (.zero (fld f.mod 4 3))) ∧
  (∀ s r f e, Canonical s → Runs s r (mxForm f .zr .zr .zr (f.mod == 0)) e →
    ((∀ x ∈ (mxOf s e.c).queue, x.slot ≠ e.k) → ∃ t g, MovesOn (.mxSync r f) s t e g ∧ SameValues e.g g ∧ Advanced e.g g) ∧
    ((∃ x ∈ (mxOf s e.c).queue, x.slot = e.k) → exec (.mxSync r f) s = .next s)) ∧
  (∀ s r f e, Canonical s → Runs s r { guard := f.guard, dsts := [], srcs := [], legal := mxOpOk f, uniform := true } e →
    ¬ HasRoom s e → exec (.mxOp r f) s = .next s)

/-- R138, R141, R179 and R189: at its start an `mx.op` adds its products to every element of its tile in ascending depth, and
`mx.zero` makes its tile zero; a load or store is marked as started. Local store and every other tile stay. -/
def Obligations.MatrixStart : Prop :=
  ∀ s c pipe before e, Canonical s → MxReady s c pipe before e →
    (∀ f, e.kind = .op f → mxStartTrap (mxOf s c) f = none →
      ∃ t, exec (.mxStart c pipe) s = .next t ∧ MemoryKept s t ∧ t.accesses = s.accesses ∧
        (∀ i j, i < 32 → j < 32 → mxElem (mxOf t c) f.acc.toNat i j =
          ((List.range (f.kM1.toNat + 1)).foldl (fun acc k =>
            mxAcc (coreMode s c) acc (mxMul (mxA (mxOf s c) (coreMode s c) f i k) (mxB (mxOf s c) (coreMode s c) f k j)))
            (if f.zero then 0 else mxElem (mxOf s c) f.acc.toNat i j)) % 2 ^ 32) ∧
        (∀ u i j, u ≠ f.acc.toNat → i < 32 → j < 32 → mxElem (mxOf t c) u i j = mxElem (mxOf s c) u i j) ∧
        bit (mxOf t c).live f.acc.toNat = true ∧ (mxOf t c).bufA = (mxOf s c).bufA ∧ (mxOf t c).bufB = (mxOf s c).bufB ∧
        (mxOf t c).queue.map (fun x => (x.kind, x.slot)) = (mxOf s c).queue.map (fun x => (x.kind, x.slot)) ∧
        ∃ x, (mxOf t c).queue[before.length]? = some x ∧ x.started = true) ∧
    (∀ u, e.kind = .zero u → u < 8 →
      ∃ t, exec (.mxStart c pipe) s = .next t ∧ MemoryKept s t ∧ t.accesses = s.accesses ∧
        (∀ i j, i < 32 → j < 32 → mxElem (mxOf t c) u i j = 0) ∧ bit (mxOf t c).live u = false ∧
        ∀ v i j, v ≠ u → i < 32 → j < 32 → mxElem (mxOf t c) v i j = mxElem (mxOf s c) v i j) ∧
    (e.kind.pipe ≠ .array →
      ∃ t, exec (.mxStart c pipe) s = .next t ∧ MemoryKept s t ∧ t.accesses = s.accesses ∧
        mxOf t c = { mxOf s c with queue := (mxOf s c).queue.set before.length { e with started := true, span := 0 } })

/-- R136, R140, R187 and R190: a load that completes has copied local store to its buffer or image, and a store has written the
converted elements of its tile, row by row; the instruction leaves the engine. -/
def Obligations.MatrixComplete : Prop :=
  ∀ s c pipe i e, Canonical s → MxEnds s c pipe i e →
    (∀ b src n off, e.kind = .ld b src n off →
      ∃ t, exec (.mxComplete c pipe) s = .next t ∧ MemoryKept s t ∧ (mxOf t c).queue = (mxOf s c).queue.eraseIdx i ∧
        (mxOf t c).acc = (mxOf s c).acc ∧ ∀ k, sget (fun _ => 0) (if b then (mxOf t c).bufB else (mxOf t c).bufA) k =
          if off ≤ k ∧ k < off + n then lsByte s c (e.base + src + (k - off))
          else sget (fun _ => 0) (if b then (mxOf s c).bufB else (mxOf s c).bufA) k) ∧
    (∀ b src n, e.kind = .ldx b src n →
      ∃ t, exec (.mxComplete c pipe) s = .next t ∧ MemoryKept s t ∧ (mxOf t c).queue = (mxOf s c).queue.eraseIdx i ∧
        ∀ k, k < n → sget (fun _ => 0) (if b then (mxOf t c).scl else (mxOf t c).tbl) k = lsByte s c (e.base + src + k)) ∧
    (∀ typ u clear dst stride, e.kind = .st typ u clear dst stride →
      let z := if typ.toNat = 0 then 4 else if typ.toNat = 1 then 2 else 1
      32 * z ≤ stride →
      ∃ t, exec (.mxComplete c pipe) s = .next t ∧ t.dram = s.dram ∧ t.accesses = s.accesses ∧
        (mxOf t c).queue = (mxOf s c).queue.eraseIdx i ∧
        (∀ k j, k < 32 → j < 32 → lsNumber t c (e.base + dst + k * stride + j * z) z =
          mxStCode typ.toNat (coreMode s c) (mxElem (mxOf s c) u k j) % 256 ^ z) ∧
        (∀ o, (∀ k, k < 32 → ¬ (e.base + dst + k * stride ≤ o ∧ o < e.base + dst + k * stride + 32 * z)) →
          lsByte t c o = lsByte s c o) ∧
        (clear = false → (mxOf t c).acc = (mxOf s c).acc) ∧
        (clear = true → u < 8 → bit (mxOf t c).live u = false ∧ ∀ k j, k < 32 → j < 32 → mxElem (mxOf t c) u k j = 0)) ∧
    ((∃ f, e.kind = .op f) ∨ (∃ u, e.kind = .zero u) →
      ∃ t, exec (.mxComplete c pipe) s = .next t ∧ MemoryKept s t ∧ mxOf t c = { mxOf s c with queue := (mxOf s c).queue.eraseIdx i })

/-! ## The tile streamers (R142, R143, R203 to R231) -/

namespace Sys2Proof.Says

/-- The form of `ts.run`. -/
def formTsRun (f : RFields) : Form := rForm f .unused (.reg 1) .unused .unused (fld f.mod 2 10 == 0) true true

/-- The form of `ts.wait`. -/
def formTsWait (f : RFields) : Form := rForm f (.reg 1) .unused .unused .unused (fld f.mod 2 10 == 0) true true

/-- Nothing but the streamers of core `c` differs, and of them only streamer `n`. -/
structure OnlyStreamer (s t : State) (c n : Nat) : Prop where
  rest  : t = { s with cores := t.cores }
  cores : ∀ d, d ≠ c → t.core d = s.core d
  core  : { (t.core c).work with ts := [] } = { (s.core c).work with ts := [] }
  other : ∀ m, m ≠ n → t.streamer c m = s.streamer c m

/-- The head descriptor of a streamer is `d`, and those behind it and the reported ends are as before. -/
def HeadIs (s t : State) (c n : Nat) (d : TsDesc) : Prop :=
  t.streamer c n = { s.streamer c n with descs := d :: (s.streamer c n).descs.drop 1 }

end Sys2Proof.Says

/-- R209, R210, R230 and R231: `ts.run` gives the 128 bytes of its descriptor to the streamer, behind those accepted before, and
`ts.wait` reports the first failure of its group's finished descriptors, or success. -/
def Obligations.StreamerInstructions : Prop :=
  (∀ s r f e, let n := fld f.mod 0 2
    let a := src e f.srcA 1 0
    Canonical s → Runs s r (formTsRun f) e → a % 32 = 0 → a + 128 ≤ e.l.lsPer * 1024 → (s.streamer e.c n).descs.length < 4 →
    localDone e = true →
    ∃ t g d, exec (.tsRun r f) s = .next t ∧ ReadsOnly s e.s ∧ MemoryKept e.s t ∧ t.accesses = s.accesses ∧ t.group e.c e.k = some g ∧
      SameValues e.g g ∧ Advanced e.g g ∧ t.streamer e.c n = { s.streamer e.c n with descs := (s.streamer e.c n).descs ++ [d] } ∧
      (∀ i, i < 128 → fld d.raw (8 * i) 8 = (lsByte s e.c (lsBase e + a + i)).toNat) ∧
      d.slot = e.k ∧ d.block = e.g.block ∧ d.pc = e.g.pc ∧ d.base = lsBase e ∧ d.stage = .accepted ∧ d.tiles = 0 ∧ d.seen = 0) ∧
  (∀ s r f e, Canonical s → Runs s r (formTsRun f) e → 4 ≤ (s.streamer e.c (fld f.mod 0 2)).descs.length → exec (.tsRun r f) s = .next s) ∧
  (∀ s r f e, let n := fld f.mod 0 2
    let mine := (s.streamer e.c n).done.filter fun x => x.slot == e.k
    Canonical s → Runs s r (formTsWait f) e →
    ((∃ d ∈ (s.streamer e.c n).descs, d.slot = e.k) → exec (.tsWait r f) s = .next e.s ∧ ReadsOnly s e.s) ∧
    ((∀ d ∈ (s.streamer e.c n).descs, d.slot ≠ e.k) → (∀ x ∈ mine, x.failed = false) →
      ∃ t g, exec (.tsWait r f) s = .next t ∧ ReadsOnly s e.s ∧ MemoryKept e.s t ∧ t.group e.c e.k = some g ∧ Advanced e.g g ∧
        RegsWritten e.g g ⟨f.dst, 1⟩ [0] (fun _ => (((mine.find? fun x => x.status != Code.success).map (·.status)).getD Code.success).toNat) ∧
        (t.streamer e.c n).descs = (s.streamer e.c n).descs ∧
        (t.streamer e.c n).done = (s.streamer e.c n).done.filter fun x => x.slot != e.k))

/-- R211, R213, R219, R221 to R223 and R225: how the first descriptor of a streamer starts, waits at its gate, observes the
other side's counter, prefetches translations and ends. -/
def Obligations.StreamerEvents : Prop :=
  ∀ s c n d k l, Canonical s → tsHead s c n = some (d, k, l) →
    (d.stage = .accepted → d.formatOk = true → d.counter s c 0 = 0 → d.counter s c 4 = 0 → d.inRange = true → bit d.raw 190 = false →
      ∃ t, exec (.tsDescriptorStart c n) s = .next t ∧ OnlyStreamer s t c n ∧ HeadIs s t c n { d with stage := .running }) ∧
    (d.stage = .accepted → d.formatOk = false ∨ d.counter s c 0 ≠ 0 ∨ d.counter s c 4 ≠ 0 →
      ∃ t, exec (.tsDescriptorStart c n) s = .next t ∧ OnlyStreamer s t c n ∧ t.streamer c n =
        { descs := (s.streamer c n).descs.drop 1,
          done := if d.ending then (s.streamer c n).done else (s.streamer c n).done ++ [⟨d.slot, Code.streamerFormat, d.failed⟩] }) ∧
    (d.stage = .gated → (s.tally (d.f 192 16)).assigned = true → (s.tally (d.f 192 16)).tenant = tenantOf s l.ctx →
      (s.tally (d.f 192 16)).abandoned = false →
      ∃ t, exec (.gatePoll c n) s = .next t ∧ t.dram = s.dram ∧ t.hub = s.hub ∧ (l.l1Off = false → (t.core c).l1 = []) ∧
        HeadIs s t c n { d with stage := if d.f 256 63 ≤ (s.tally (d.f 192 16)).value then .running else .gated }) ∧
    (d.stage = .running →
      ∃ t v, exec (.counterObserve c n) s = .next t ∧ OnlyStreamer s t c n ∧ HeadIs s t c n { d with seen := v } ∧
        v = (let x := d.counter s c (if d.isStore then 0 else 4)
             if x < d.seen ∨ (d.isStore = false ∧ d.counter s c 0 < x) then d.seen else x)) ∧
    (∀ tile, d.stage ≠ .accepted → tile < d.tileCount → tile < (if d.isStore then d.seen + 8 else d.seen + d.ring + 8) →
      ∃ t, exec (.translationPrefetch c n tile) s = .next t ∧ ReadsOnly s t ∧
        (bufferOf t (.streamer c n)).length ≤ max 32 (bufferOf s (.streamer c n)).length ∧
        ∀ x ∈ bufferOf t (.streamer c n), x ∈ bufferOf s (.streamer c n) ∨ ∃ va, va ∈ d.heads tile ∧ x.covers l.ctx va = true ∧
          ∃ y, translate s (.streamer c n) l.ctx va (if d.isStore then .write else .read) = .ok y) ∧
    (headFinished s c n d = true →
      ∃ t, exec (.tsDescriptorFinish c n) s = .next t ∧ OnlyStreamer s t c n ∧ t.streamer c n =
        { descs := (s.streamer c n).descs.drop 1,
          done := if d.ending then (s.streamer c n).done else (s.streamer c n).done ++ [⟨d.slot, Code.success, d.failed⟩] })

/-- R215, R216, R218 and R226: a load tile whose elements are all padding is filled with PAD and published in PROD, and so is a
tile whose remote part has arrived; a store tile's writes are issued and its slot is given back in CONS. -/
def Obligations.StreamerTiles : Prop :=
  ∀ s c n d k l, Canonical s → tsHead s c n = some (d, k, l) → d.stage = .running → d.tiles < d.tileCount →
    (d.isStore = false → d.fetched = true → tileLoading s c n = false → d.tiles < d.seen + d.ring →
      ∃ t, exec (.tilePublish c n) s = .next t ∧ t.dram = s.dram ∧ t.accesses = s.accesses ∧
        HeadIs s t c n { d with tiles := d.tiles + 1, fetched := false, firstDev := none } ∧
        lsNumber t c (d.base + d.f 96 32) 4 = (d.tiles + 1) % 2 ^ 32 ∧
        ∀ o, ¬ (d.base + d.f 96 32 ≤ o ∧ o < d.base + d.f 96 32 + 4) → lsByte t c o = lsByte s c o) ∧
    (d.isStore = false → d.fetched = false → d.tiles < d.seen + d.ring → d.formatOk = true →
      (∀ r, r < d.rows → ∀ e ∈ d.row d.tiles r, e.pad = true) →
      ∃ t, exec (.tilePublish c n) s = .next t ∧ t.dram = s.dram ∧ t.accesses = s.accesses ∧
        HeadIs s t c n { d with tiles := d.tiles + 1, fetched := false, firstDev := none } ∧
        lsNumber t c (d.base + d.f 96 32) 4 = (d.tiles + 1) % 2 ^ 32 ∧
        ∀ r, r < d.rows → ∀ e ∈ d.row d.tiles r, ∀ i, i < d.size →
          ¬ (d.f 96 32 ≤ e.l + i ∧ e.l + i < d.f 96 32 + 4) → (lsByte t c (d.base + e.l + i)).toNat = fld d.raw (320 + 8 * i) 8) ∧
    (∀ u, d.isStore = true → d.tiles < d.seen → issueStoreTile s c n l.ctx k d d.tiles = .ok u →
      ∃ t, exec (.storeTileRead c n) s = .next t ∧ t.dram = u.dram ∧ t.accesses = u.accesses ∧ t.nextAcc = u.nextAcc ∧
        HeadIs s t c n { d with tiles := d.tiles + 1 } ∧ lsNumber t c (d.base + d.f 96 32 + 4) 4 = (d.tiles + 1) % 2 ^ 32)

/-! ## Exceptions (R91 to R94, R99, R103, R360, R600) -/

namespace Sys2Proof.Says

/-- What a fault of a LIVE context leaves (R360): the context LOST with its status and record, its queues STOPPED, and of its launches
none that is not ended: a core of an ended launch issues nothing more (R305). -/
structure ContextLost (t : State) (ctx : Nat) (st : Status) (record : BitVec 512) : Prop where
  state  : (t.ctx ctx).state = .lost
  status : (t.ctx ctx).faultStatus = st
  record : (t.ctx ctx).faultRecord = record
  queues : ∀ n, (t.queue n).ctx = ctx → (t.queue n).state = .stopped ∨ (t.queue n).state = .disabled
  gone   : ∀ n l, t.launch n = some l → l.ctx = ctx → l.ended = true

/-- The instruction `c` of a group raises the exception `tr`: its context is lost. -/
def Raises (c : Instr) (s : State) (e : Env) (tr : Trap) : Prop :=
  ∃ t, exec c s = .next t ∧ ContextLost t e.l.ctx tr.status (faultImage s (groupInfo e.l.ctx e.c e.k e.g.pc tr))

/-- A group that could issue, with no register of the instruction awaited. -/
structure Issues (s : State) (r : GroupRef) (i : Form) (e : Env) : Prop where
  ready : ready? s r = some (e.before s)
  clear : hazard (e.before s) i = false
  live  : (s.ctx e.l.ctx).state = .live

end Sys2Proof.Says

/-- R360 and R602: a fault of a LIVE context makes it LOST with the fault's status and record, stops its queues and discards its
launches; a fault of a context that is FREE, FROZEN or LOST, or that has its record already, changes nothing. -/
def Obligations.FaultLosesContext : Prop :=
  ∀ s f, Canonical s →
    ((s.ctx f.ctx).state = .live → ContextLost (raiseFault s f) f.ctx f.status (faultImage s f)) ∧
    ((s.ctx f.ctx).state ≠ .live → (s.ctx f.ctx).state = .teardown → (s.ctx f.ctx).faultStatus ≠ 0 → raiseFault s f = s) ∧
    ((s.ctx f.ctx).state ≠ .live → (s.ctx f.ctx).state ≠ .teardown → raiseFault s f = s)

/-- R600: where a fault record holds its fields, and that FAULT_RECORD reads it and the EVENT of KIND 2 carries it. -/
def Obligations.FaultRecordFields : Prop :=
  (∀ s f, f.ctx < 1024 → tenantOf s f.ctx < 256 → f.kind < 16 → f.unit < 4 → f.core < 512 → f.slot < 16 →
    (∀ l, f.lane = some l → l < 32) → f.queue < 4096 → f.pos < 2 ^ 32 → (∀ p, f.pa = some p → p < 2 ^ 44) →
    steepNow s < 2 ^ 64 → s.power.now < 2 ^ 64 →
    let x := faultImage s f
    fld x 0 16 = f.status.toNat ∧ fld x 16 10 = f.ctx ∧ fld x 26 6 = 0 ∧ fld x 32 8 = tenantOf s f.ctx ∧ fld x 40 4 = f.kind ∧
    fld x 44 2 = f.unit ∧ fld x 46 2 = 0 ∧ fld x 48 9 = f.core ∧ fld x 57 7 = 0 ∧ fld x 64 4 = f.slot ∧ fld x 68 4 = 0 ∧
    fld x 72 5 = f.lane.getD 0 ∧ bit x 77 = f.lane.isSome ∧ fld x 78 2 = 0 ∧ fld x 80 12 = f.queue ∧ fld x 92 4 = 0 ∧
    fld x 96 32 = f.pos ∧ fld x 128 56 = f.pc.toNat % 2 ^ 56 ∧ fld x 184 8 = 0 ∧ fld x 192 56 = f.va.getD 0 % 2 ^ 56 ∧
    bit x 248 = f.va.isSome ∧ fld x 249 7 = 0 ∧ fld x 256 44 = f.pa.getD 0 ∧ bit x 300 = f.pa.isSome ∧ fld x 301 19 = 0 ∧
    fld x 320 64 = steepNow s ∧ fld x 384 64 = s.power.now ∧ fld x 448 64 = 0) ∧
  (∀ s n e, n < 1024 → catEntry s (0x5000 + n) 0x0A = some e →
    catValue s (0x5000 + n) e = leBytes 64 (s.ctx n).faultRecord.toNat) ∧
  (∀ s f, Canonical s → (s.ctx f.ctx).state = .live →
    ∃ u, raiseFault s f = sendEvent u (s.ctx f.ctx).migSession 2 f.ctx f.status (leBytes 64 (faultImage s f).toNat))

/-- R92, R93, R99 and R103 to R107: an undefined opcode and a form that the encoding reserves raise illegal instruction, a
register beyond REGS_PER_THREAD raises register range, and a fetch that finds no executable page raises instruction fetch. A fetch
changes no more than reading memory and translating may. -/
def Obligations.InstructionFaults : Prop :=
  (∀ s r w e, Canonical s → Issues s r { guard := ⟨false, false, 0⟩, dsts := [], srcs := [], legal := false, uniform := false } e →
    fetchCheck (e.before s) = .ok e.s → Raises (.undefinedOpcode r w) s e (Trap.plain Code.illegalInstruction)) ∧
  (∀ s r f e u tr, Canonical s → Issues s r (form2 tAll true f) e → fetchCheck (e.before s) = .trap u tr → Raises (.add r f) s e tr) ∧
  (∀ s r f e, Canonical s → Issues s r (form2 tAll true f) e → fetchCheck (e.before s) = .ok e.s →
    ((form2 tAll true f).legal = false → Raises (.add r f) s e (Trap.plain Code.illegalInstruction)) ∧
    ((form2 tAll true f).legal = true → f.dst.toNat < 256 → e.l.regs < f.dst.toNat + regs f →
      Raises (.add r f) s e (Trap.plain Code.registerRange))) ∧
  (∀ s r f e, Canonical s → Issues s r (formLd f) e → fetchCheck (e.before s) = .ok e.s → formTrap e (formLd f) = none →
    ∀ l, l ∈ e.acts (formLd f) → (∀ m ∈ e.acts (formLd f), m < l → mAddr f e.g m % mBytes f = 0) → mAddr f e.g l % mBytes f ≠ 0 →
    ∃ tr, tr.status = Code.misaligned ∧ tr.lane = some l ∧ Raises (.ld r f) s e tr) ∧
  (∀ s r f e, Canonical s → Issues s r (formUniform f (f.mod == 0)) e → fetchCheck (e.before s) = .ok e.s →
    formTrap e (formUniform f (f.mod == 0)) = none →
    e.acts (formUniform f (f.mod == 0)) ≠ [] → e.g.active ≠ ~~~e.g.exited → Raises (.barBlk r f) s e (Trap.plain Code.divergentBarrier)) ∧
  (∀ e u, fetchCheck e = .ok u → ReadsOnly e.s u)

/-! ## Blocks, launches and cores (R59 to R62, R73, R95 to R97, R237, R383, R384) -/

namespace Sys2Proof.Says

/-- The command at `f` of queue `n` has completed with `st` (R378, R398, R399). -/
structure Completed (s t : State) (n pos : Nat) (packet : BitVec 512) (st : Status) : Prop where
  gone     : ∀ c ∈ (t.queue n).opened, c.pos ≠ pos
  counted  : (t.queue n).cmdsRetired = Nat.min ((s.queue n).cmdsRetired + 1) (2 ^ 64 - 1)
  progress : (t.queue n).lastProgress = steepNow s
  failure  : st ≠ 0 → bit packet 10 = false → (t.queue n).lastFail = st ∧ (t.queue n).lastFailPos = BitVec.ofNat 32 pos

end Sys2Proof.Says

/-- R59 to R61, R237, R382 and R383: the next block of a launch is placed with all its groups in free slots and a region of its
own; a group starts at ENTRY_PC with the lanes of its threads active, every other lane exited, and its registers and predicates
zero but for the uniform registers that the launch supplies. -/
def Obligations.BlocksArePlaced : Prop :=
  (∀ s n c l, Canonical s → s.launch n = some l → roomFor s c n l = true → l.blocksPer ≤ 32 → 1 ≤ l.groupsPer → l.perQuad ≤ 16 →
    (olist (s.core c).work.groups).length + l.groupsPer ≤ 4 * l.perQuad → (∀ e ∈ olist (s.core c).work.groups, e.1 < 64) →
    ∃ t b x, exec (.blockPlacement n c) s = .next t ∧ (t.launch n).map (·.next) = some (l.next + 1) ∧
      oget (s.core c).work.blocks b = none ∧ oget (t.core c).work.blocks b = some x ∧ x.launch = n ∧ x.number = l.next ∧
      x.slots.length = l.groupsPer ∧ x.slots.Nodup ∧ (∀ y ∈ olist (s.core c).work.blocks, y.2.region ≠ x.region) ∧
      (∀ i k, i < l.groupsPer → x.slots[i]? = some k → k < 64 ∧ s.group c k = none ∧ t.group c k = some (newGroup n b i l)) ∧
      ∀ k g, s.group c k = some g → t.group c k = some g) ∧
  (∀ n b i l, 32 * i < l.threads → l.threads ≤ 1024 → l.uniforms.length ≤ 64 →
    let g := newGroup n b i l
    g.pc.toNat = fld l.desc 0 56 ∧ (∀ k, k < 32 → bit g.active k = decide (32 * i + k < l.threads)) ∧ g.exited = ~~~g.active ∧
    (∀ k code, code < 256 → g.reg k code = 0) ∧ (∀ k j, j < 64 → g.reg k (256 + j) = l.uniforms.getD j 0) ∧
    (∀ k j, j < 8 → g.pred k j = false) ∧ g.stack = [] ∧ g.flags = 0 ∧ g.wait = .ready ∧ g.res = [])

/-- R62, R95, R97, R306, R384 and R398: a block whose threads have exited retires and is counted; a launch whose blocks have
retired completes its command; a stopped core's work is saved, and a restore puts it back. -/
def Obligations.LaunchesEnd : Prop :=
  (∀ s c b x l, Canonical s → oget (s.core c).work.blocks b = some x → s.launch x.launch = some l →
    (∀ e ∈ blockGroups s c b, e.2.done = true) → (∀ i d, i < 4 → d ∈ (s.streamer c i).descs → d.block ≠ b) →
    (s.core c).stage = .running →
    ∃ t, exec (.blockRetire c b) s = .next t ∧ (t.launch x.launch).map (·.retired) = some (l.retired + 1) ∧
      oget (t.core c).work.blocks b = none ∧ (∀ e ∈ blockGroups s c b, t.group c e.1 = none) ∧
      (t.ctx l.ctx).blksRetired = Nat.min ((s.ctx l.ctx).blksRetired + 1) (2 ^ 64 - 1) ∧
      (t.queue l.queue).blksRetired = Nat.min ((s.queue l.queue).blksRetired + 1) (2 ^ 64 - 1) ∧ t.dram = s.dram) ∧
  (∀ s n l, Canonical s → s.launch n = some l → l.ended = false → l.blocks ≤ l.retired → (∀ a ∈ s.accesses, a.launch ≠ n) →
    stampedLate s l.queue = false →
    ∃ t, exec (.launchComplete n) s = .next t ∧ t.launch n = none ∧ Completed s t l.queue l.pos l.packet Code.success) ∧
  (∀ s c n l, Canonical s → (s.core c).work.launch = some n → s.launch n = some l → (s.core c).stage = .saving → drained s c n = true →
    failedGroup s c n = none →
    ∃ t, exec (.launchStopSaveComplete c) s = .next t ∧ savedWork (s.core c).work ∈ (t.core c).saved ∧ t.dram = s.dram ∧
      (∀ k, t.group c k = none) ∧ ∀ o, lsByte t c o = lsByte s c o) ∧
  (∀ s c n l w rest, Canonical s → (s.core c).saved = w :: rest → w.launch = some n → (s.core c).work.launch = some n →
    s.launch n = some l → (s.core c).stage = .restoring →
    ∃ t, exec (.coreGrantRestoreDone c) s = .next t ∧ t = { s with cores := t.cores } ∧ (t.core c).work = w ∧ (t.core c).saved = rest ∧
      (t.core c).stage = .running ∧ (t.core c).since = some s.power.now ∧ ∀ d, d ≠ c → t.core d = s.core d)

/-! ## Vaults, caches and sensors (R23 to R57, R250 to R262, R571 to R575) -/

/-- R34: a codeword with no error is CLEAN, one with an error in one symbol is corrected to the sector that was written, and one
with errors in two symbols is never taken for a good one. -/
def Obligations.CheckCode : Prop :=
  ∀ (v : Sector), let bad (j e : Nat) (x : Sector × BitVec 16) : Sector × BitVec 16 :=
      if j < 64 then (x.1 ^^^ BitVec.ofNat 256 (e <<< (4 * j)), x.2) else (x.1, x.2 ^^^ BitVec.ofNat 16 (e <<< (4 * (j - 64))))
    decodeSector v (checkOf v) = .clean ∧
    (∀ j e, j < 68 → 0 < e → e < 16 → let x := bad j e (v, checkOf v)
      decodeSector x.1 x.2 = .corrected j e ∧ correctData x.1 j e = v) ∧
    (∀ j e k f, j < k → k < 68 → 0 < e → e < 16 → 0 < f → f < 16 → let x := bad k f (bad j e (v, checkOf v))
      decodeSector x.1 x.2 = .uncorrectable ∨ decodeSector x.1 x.2 = .poisoned)

namespace Sys2Proof.Says

/-- What a vault has put on its interface. -/
def onInterface (t : State) (k : Nat) (v : Sector) (poison : Bool) : Prop :=
  oget t.dram.out (k / 2 ^ 27) = some { sector := k, data := v, poison := poison }

/-- The vault notes an event of a kind at a sector. -/
def Noted (t : State) (k kind : Nat) : Prop := t.dram.lastAddr = 32 * k ∧ t.dram.lastKind = kind

end Sys2Proof.Says

/-- R27, R33 and R36 to R39: what a vault delivers, counts and writes back for each of the decoder's results; an address outside
DRAM names no vault and stops. -/
def Obligations.VaultReads : Prop :=
  ∀ s pa, Canonical s → (dramEnd ≤ pa → exec (.vaultRead pa) s = .fault (.noSuchAddress pa)) ∧ (pa < dramEnd →
    let k := pa / 32
    (s.dram.decode k = .clean → ∃ t, exec (.vaultRead pa) s = .next t ∧ onInterface t k (s.dram.data k) false ∧
      t.dram.bytes = s.dram.bytes ∧ t.dram.corrected = s.dram.corrected) ∧
    (∀ j e, s.dram.decode k = .corrected j e → ∃ t, exec (.vaultRead pa) s = .next t ∧ onInterface t k (correctData (s.dram.data k) j e) false ∧
      Noted t k 1 ∧ t.dram.corrected = Nat.min (s.dram.corrected + 1) (2 ^ 64 - 1) ∧ t.dram.data k = correctData (s.dram.data k) j e ∧
      t.dram.decode k = .clean ∧ ∀ o, o / 32 ≠ k → t.dram.byte o = s.dram.byte o) ∧
    (s.dram.decode k = .uncorrectable → ∃ t, exec (.vaultRead pa) s = .next t ∧ onInterface t k (s.dram.data k) true ∧ Noted t k 2 ∧
      t.dram.uncorrectable = Nat.min (s.dram.uncorrectable + 1) (2 ^ 64 - 1) ∧ t.dram.decode k = .poisoned ∧
      sget (fun _ => 0) t.dram.ueLog s.dram.ueHead = 32 * k ∧ ∀ o, t.dram.byte o = s.dram.byte o) ∧
    (s.dram.decode k = .poisoned → ∃ t, exec (.vaultRead pa) s = .next t ∧ onInterface t k (s.dram.data k) true ∧ Noted t k 3 ∧
      t.dram.poisonReads = Nat.min (s.dram.poisonReads + 1) (2 ^ 64 - 1) ∧ t.dram.bytes = s.dram.bytes))

/-- R44, R45, R52 to R55, R57, R574 and R575: a scrub read handles one sector and goes on to the next, a pass starts where none runs,
and a refresh uses the band of its layer; each layer is in the Doubled band above 85 °C, and one that was in it stays while above
83 °C; an evaluation that found an excess trips the device: THERMTRIP_N and STOPPED_N are driven, every clock but that of domain 0
stops, and no write drains. -/
def Obligations.VaultHealth : Prop :=
  (∀ s v n, Canonical s → oget s.dram.scrub v = some n → vaultUp s = true →
    let k := v * 2 ^ 27 + n
    ∃ t, exec (.scrubRead v) s = .next t ∧ t = { s with dram := t.dram } ∧
      oget t.dram.scrub v = (if n + 1 = 2 ^ 27 then none else some (n + 1)) ∧
      (s.dram.decode k = .clean ∨ s.dram.decode k = .poisoned → t.dram.bytes = s.dram.bytes ∧ t.dram.checks = s.dram.checks) ∧
      (∀ j e, s.dram.decode k = .corrected j e → t.dram.data k = correctData (s.dram.data k) j e) ∧
      (s.dram.decode k = .uncorrectable → t.dram.uncorrectable = Nat.min (s.dram.uncorrectable + 1) (2 ^ 64 - 1) ∧
        (∀ d, goodCopy s k = some d → t.dram.data k = d ∧ t.dram.decode k = .clean) ∧
        (goodCopy s k = none → t.dram.data k = s.dram.data k ∧ t.dram.decode k = .poisoned))) ∧
  (∀ s v, v < 384 → vaultUp s = true → s.dram.scrubPeriodH ≠ 0 → Canonical s → ∃ t, exec (.scrubPassStart v) s = .next t ∧
    t = { s with dram := t.dram } ∧ (oget s.dram.scrub v = none → oget t.dram.scrub v = some 0) ∧
    (oget s.dram.scrub v ≠ none → t = s)) ∧
  (∀ s v l, Canonical s → v < 384 → l < 16 → vaultUp s = true → ∃ t, exec (.refresh v l) s = .next t ∧ t = { s with dram := t.dram } ∧
    sget (fun _ => false) t.dram.lastRefresh (16 * v + l) = sget (fun _ => false) s.dram.doubled l ∧ t.dram.bytes = s.dram.bytes) ∧
  (∀ s r, s.power.porstLow = false → s.power.powered = true → Canonical s →
    ∃ t, exec (.temperatureEvaluation r) s = .next t ∧ t.power.logicTemp = r.logic ∧ t.power.powerW = r.power ∧ t.power.vddMv = r.vdd ∧
      (∀ l, l < 16 → t.power.layer l = r.layers.getD l 0) ∧
      ∀ l, l < 16 → sget (fun _ => false) t.dram.doubled l =
        (hotter (r.layers.getD l 0) deg85 || (sget (fun _ => false) s.dram.doubled l && hotter (r.layers.getD l 0) deg83))) ∧
  (∀ s, s.power.porstLow = false → s.power.powered = true → s.power.tripped = false → overheated s.power = true →
    ∃ t, exec .thermalTrip s = .next t ∧ t = { s with power := t.power } ∧ t.power.thermtrip = true ∧ t.power.stoppedLow = true ∧
      t.power.tripped = true ∧ (∀ i, i < 64 → bit t.power.clocks i = decide (i = 0)) ∧ t.power.lastTrip = s.power.dramTemp ∧
      t.power.now = s.power.now)

/-- R247, R252, R257 and R261: a fill installs the line's sectors and gives its load the value; the oldest entry of an eviction
buffer reaches the vault. -/
def Obligations.FillsAndEvictions : Prop :=
  (∀ s c m, Canonical s → ((s.core c).misses.find? fun x => x.line == m.line) = some m → clusterUp s (homeOfLine m.line) = true →
    m.invalidated = false → fillWaits s c m = false → m.overlay = [] → m.sectors ≠ 0 → m.accesses = [] → (s.core c).l1Find m.line = none →
    ∃ t key, exec (.l1Fill c m.line) s = .next t ∧ (t.core c).l1Find m.line = some key ∧ ((t.core c).l1Way key).valid = m.sectors ∧
      (∀ i, i < 4 → bit m.sectors i = true → getSector ((t.core c).l1Way key).data i =
        getSector (homeRead s m.line m.sectors false).1.1 i) ∧
      ∀ x ∈ (t.core c).misses, x.line ≠ m.line) ∧
  (∀ s c m a x k g, Canonical s → ((s.core c).misses.find? fun y => y.line == m.line) = some m → clusterUp s (homeOfLine m.line) = true →
    fillWaits s c m = false → (∀ b ∈ s.accesses, b.sibling a = true → b = a) → a.dev = false → m.accesses = [a.id] → (∀ b ∈ s.accesses, b.id = a.id → b = a) → a ∈ s.accesses → a.kind = .load → a.engine = .group c k → k < 64 →
    s.group c k = some g → g.launch = a.launch → a.lanes = [x] → vDst a → a.dst.toNat % regsFor a.size = 0 → a.size ∈ [1, 2, 4, 8, 16] →
    let d := (fillLine s c m m.sectors).1
    (lineVal d.1 d.2 a.size x).2 = false →
    ∃ t h, exec (.l1Fill c m.line) s = .next t ∧ InstrGone s t a ∧ t.group c k = some h ∧
      h.run x.lane ⟨a.dst, regsFor a.size⟩ = extendLoad a (lineVal d.1 d.2 a.size x).1 % 2 ^ (32 * regsFor a.size) ∧ h.pc = g.pc) ∧
  (∀ s n x rest, Canonical s → bit s.power.clocks 2 = true → (s.cluster n).evict = x :: rest →
    ∃ t, exec (.evictionDrain n) s = .next t ∧ (t.cluster n).evict = rest ∧ (t.cluster n).lines = (s.cluster n).lines ∧
      (∀ i, i < 4 → bit x.dirty i = true → t.dram.data (4 * x.line + i) = getSector x.data i) ∧
      ∀ o, (o / 128 ≠ x.line ∨ bit x.dirty (o / 32 % 4) = false) → t.dram.byte o = s.dram.byte o)

/-! ## The Desk (R364 to R399, R420) -/

namespace Sys2Proof.Says

/-- Queue `n` dispatches its fetched packet `f`, of command `cmd`, which passes its check and was not refused at admission, before the
boundary that would end it (R397). -/
structure Dispatches (s : State) (n cmd : Nat) (f : Fetched) : Prop where
  ready    : readyPacket s n = some f
  cmd      : cmdOf f.packet = cmd
  good     : packetStatus (s.queue n).cls f.packet = Code.success
  timely   : stampedLate s n = false
  admitted : BitVec.ofNat 32 f.pos ∉ (s.queue n).overBudget

/-- The fetch loop observes WRITE_POS again where it has read up to the position observed last (R375). -/
def observing (s : State) (n : Nat) : State :=
  if (s.queue n).readPos = (s.queue n).observed then
    s.modQueue n fun q => { q with observed := q.writePos, pendingBit := false }
  else s

/-- No packet of queue `n` waits to be refused. -/
def NoneBad (s : State) (n : Nat) : Prop := ∀ f, readyPacket s n = some f → packetStatus (s.queue n).cls f.packet = Code.success

/-- The packet asks for no signal: SIG_EN = 0. -/
def NoSignal (f : Fetched) : Prop := bit f.packet 10 = false

/-- The command `c` completes at once with a status. -/
def Finishes (c : Instr) (s : State) (n : Nat) (f : Fetched) (st : Status) (P : State → Prop) : Prop :=
  ∃ t, exec c s = .next t ∧ Completed s t n f.pos f.packet st ∧ P t

/-- The message `m` is accepted in its session `x`: what its type does is done in state `u`, in which the session has counted it. -/
structure Delivered (s : State) (m : Msg) (cat : Bool) (u : State) (x : Session) : Prop where
  run  : ∀ act, smtSeq s m cat true act = act u x
  open' : s.session m.session.toNat ≠ none
  up   : s.power.devState = .running

/-- The device has sent a STATUS in the session of `m`. -/
def Told (u t : State) (m : Msg) (st : Status) : Prop := t = sendStatus u m.session.toNat st m.tag

/-- The class and tenant of a queue allow a doorbell from a session (R373). -/
def MayRing (u : State) (n : Nat) (x : Session) : Prop :=
  tenantOf u (u.queue n).ctx = x.tenant ∧ ((u.queue n).cls = .kernel → x.operator = true)

/-- A watch of a context. -/
def newWatch (s : State) (kind : WatchKind) (tally target ctx : Nat) : Watch :=
  { kind := kind, tally := tally, target := target, tenant := tenantOf s ctx, ctx := ctx }

/-- A tally as TALLY_ASSIGN leaves it. -/
def newTally (s : State) (ctx value : Nat) : Tally :=
  { assigned := true, tenant := tenantOf s ctx, owner := ctx, lastStatus := Code.success, abandoned := false, value := value }

end Sys2Proof.Says

/-- R365, R372 to R376, R378, R386, R387 and R397: a doorbell raises WRITE_POS or is refused, a queue fetches the packet at READ_POS
and turns IDLE behind the last one, pre-decode reads ahead of a WAIT, a command that completes retires, is counted and signals, and
one that ends beyond its Steep stays open for the boundary. -/
def Obligations.DeskQueues : Prop :=
  (∀ s m u x, Canonical s → Delivered s m false u x → fld m.arg0 12 20 = 0 → m.payload = [] →
    let n := fld m.arg0 0 12
    let w := BitVec.ofNat 32 (fld m.arg0 32 32)
    let q := u.queue n
    (q.state = .disabled → ∃ t, exec (.doorbell m) s = .next t ∧ Told u t m Code.queueNotEnabled) ∧
    (q.state ≠ .disabled → ¬ MayRing u n x → ∃ t, exec (.doorbell m) s = .next t ∧ Told u t m Code.doorbellNotPermitted) ∧
    (q.state = .idle ∨ q.state = .active ∨ q.state = .waiting ∨ q.state = .halted → MayRing u n x →
      (w - q.retiredPos).toNat ≤ 2 ^ q.log2 → (q.writePos - q.readPos).toNat < (w - q.readPos).toNat →
      ∃ t, exec (.doorbell m) s = .next t ∧ (t.queue n).writePos = w ∧ (t.queue n).pendingBit = true ∧
        (t.queue n).readPos = q.readPos ∧ (t.queue n).state = (if q.state = .idle then .active else q.state))) ∧
  (∀ s n f u, Canonical s → deskUp s = true → (s.queue n).state = .active → NoneBad s n →
    ((observing s n).queue n).readPos ≠ ((observing s n).queue n).observed → fetchPacket (observing s n) n = .ok (f, u) →
    packetStatus (s.queue n).cls f.packet = Code.success →
    ∃ t, exec (.queueFetch n) s = .next t ∧ (t.queue n).readPos = (s.queue n).readPos + 1 ∧
      (t.queue n).cur = (s.queue n).cur ++ [f] ∧ (t.queue n).state = .active ∧ t.dram = u.dram) ∧
  (∀ s n, Canonical s → deskUp s = true → (s.queue n).state = .active → NoneBad s n →
    ((observing s n).queue n).readPos = ((observing s n).queue n).observed →
    ∃ t, exec (.queueFetch n) s = .next t ∧ (t.queue n).state = .idle ∧ (t.queue n).readPos = (s.queue n).readPos ∧
      (t.queue n).cur = (s.queue n).cur) ∧
  (∀ s n g u, Canonical s → deskUp s = true → (s.queue n).state = .waiting → (s.queue n).pre.length < 16 →
    let pos := (s.queue n).readPos + BitVec.ofNat 32 (s.queue n).pre.length
    pos ≠ (s.queue n).writePos → virtRead s .desk (s.queue n).ctx ((s.queue n).slotVa pos) 64 deskMayUse = .ok (g, u) →
    cmdOf (packetOf g.bytes) ≠ 1 →
    ∃ t, exec (.preDecode n) s = .next t ∧ (t.queue n).pre = (s.queue n).pre ++ [⟨pos.toNat, packetOf g.bytes, none⟩] ∧ t.hub = s.hub ∧
      t.accesses = s.accesses) ∧
  (∀ s n f, Canonical s → Dispatches s n 0 f →
    Finishes (.nopCommand n) s n f Code.success (fun t => t.dram = s.dram ∧
      (NoSignal f → t.hub.tallies = s.hub.tallies) ∧
      (bit f.packet 10 = true → let m := fld f.packet 16 16
        let old := (s.tally m).value
        let new := if bit f.packet 11 then old + fld f.packet 64 63 else fld f.packet 64 63
        (s.tally m).assigned = true → (s.tally m).tenant = tenantOf s (s.queue n).ctx → (s.tally m).abandoned = false → new < 2 ^ 63 →
        (t.tally m).value = Nat.max old new ∧ ∀ k, k ≠ m → t.tally k = s.tally k))) ∧
  (∀ s n f, Canonical s → readyPacket s n = some f → cmdOf f.packet = 0 → packetStatus (s.queue n).cls f.packet = Code.success →
    BitVec.ofNat 32 f.pos ∉ (s.queue n).overBudget → stampedLate s n = true →
    ∃ t, exec (.nopCommand n) s = .next t ∧ (∃ o ∈ (t.queue n).opened, o.pos = f.pos) ∧
      (t.queue n).cmdsRetired = (s.queue n).cmdsRetired ∧ t.hub.tallies = s.hub.tallies) ∧
  (∀ s n w, Canonical s → deskUp s = true → (s.queue n).state = .waiting → (s.queue n).wait = some w → w.polls = true →
    stampedLate s n = false →
    let m := arg w.packet 0 0 16
    (s.tally m).assigned = true → (s.tally m).tenant = tenantOf s (s.queue n).ctx → (s.tally m).abandoned = false →
    arg w.packet 1 0 63 ≤ (s.tally m).value →
    ∃ t, exec (.queueWaitPoll n) s = .next t ∧ Completed s t n w.pos w.packet Code.success ∧ (t.queue n).state = .active ∧
      (t.queue n).wait = none)

/-- R266 to R268, R319, R320, R379, R381, R382 and R386: LAUNCH begins a launch of its descriptor or is refused, WAIT goes on,
waits with a watch, or halts its queue, EVENT_WATCH registers its watch, and CACHE_MAINT cleans the lines of a range at once, or
starts a walk of every cache, whose end completes it with every cache clean. -/
def Obligations.DeskCommands : Prop :=
  (∀ s n f d u, Canonical s → Dispatches s n 1 f → arg f.packet 0 0 56 % 128 = 0 →
    (descCopy (openCur s n f) n f = some d ∧ u = openCur s n f) ∨
      (descCopy (openCur s n f) n f = none ∧ ∃ bs, deskRead (openCur s n f) n f.pos (arg f.packet 0 0 56) 128 = .ok (bs, u) ∧ d = BitVec.ofNat 1024 (leNat bs)) →
    let l := launchOf s n f d
    (descOk l.serving l = false → Finishes (.launch n) s n f Code.formatError fun _ => True) ∧
    (descOk l.serving l = true → launchFits l = false → Finishes (.launch n) s n f Code.launchNoFit fun _ => True) ∧
    (∀ bs v, descOk l.serving l = true → launchFits l = true → deskRead u n f.pos (fld d 320 56) (4 * fld d 376 7) = .ok (bs, v) →
      ∃ t x, exec (.launch n) s = .next t ∧ t.launch s.desk.nextLaunch = some x ∧ x.desc = d ∧ x.queue = n ∧ x.pos = f.pos ∧
        x.ctx = (s.queue n).ctx ∧ x.uniforms = wordsOf bs ∧ x.next = 0 ∧ x.retired = 0 ∧
        t.desk.nextLaunch = s.desk.nextLaunch + 1 ∧ (∃ c ∈ (t.queue n).opened, c.pos = f.pos))) ∧
  (∀ s n f, Canonical s → Dispatches s n 2 f → NoSignal f →
    let m := arg f.packet 0 0 16
    let target := arg f.packet 1 0 63
    let mine := (s.tally m).assigned = true ∧ (s.tally m).tenant = tenantOf s (s.queue n).ctx
    (mine → (s.tally m).abandoned = false → target ≤ (s.tally m).value → Finishes (.wait n) s n f Code.success fun t => t.hub.watches = s.hub.watches) ∧
    (¬ mine → Finishes (.wait n) s n f Code.tallyTenant fun t => (t.queue n).state = .halted) ∧
    (mine → (s.tally m).abandoned = true → Finishes (.wait n) s n f Code.tallyAbandoned fun t => (t.queue n).state = .halted) ∧
    (mine → (s.tally m).abandoned = false → (s.tally m).value < target → s.hub.watches.length < 16384 →
      watchesOf s (tenantOf s (s.queue n).ctx) < s.hub.quota →
      ∃ t, exec (.wait n) s = .next t ∧ (t.queue n).state = .waiting ∧ (t.queue n).wait = some ⟨f.pos, f.packet, false⟩ ∧
        t.hub.watches = s.hub.watches ++ [newWatch s (.queue n) m target (s.queue n).ctx])) ∧
  (∀ s n f, Canonical s → Dispatches s n 3 f → NoSignal f →
    let m := arg f.packet 0 0 16
    let target := arg f.packet 1 0 63
    let ctx := (s.queue n).ctx
    eventSession s (arg f.packet 0 32 8) ctx = true → (s.tally m).assigned = true → (s.tally m).tenant = tenantOf s ctx →
    (s.tally m).abandoned = false → (s.tally m).value < target → s.hub.watches.length < 16384 → watchesOf s (tenantOf s ctx) < s.hub.quota →
    let kind : WatchKind := if arg f.packet 0 16 1 = 1 then .every (arg f.packet 0 32 8) else .once (arg f.packet 0 32 8)
    Finishes (.eventWatch n) s n f Code.success fun t => t.hub.watches = s.hub.watches ++ [newWatch s kind m target ctx]) ∧
  (∀ s n f, Canonical s → Dispatches s n 4 f → arg f.packet 0 0 2 ≠ 0 → arg f.packet 0 3 1 = 1 → arg f.packet 0 4 1 = 1 →
    arg f.packet 1 0 64 = 0 → arg f.packet 2 0 64 = 0 →
    ∃ t, exec (.cacheMaint n) s = .next t ∧ t.clusters = s.clusters ∧ t.dram = s.dram ∧ (∃ o ∈ (t.queue n).opened, o.pos = f.pos) ∧
      t.power.ccMaint = s.power.ccMaint ++
        [{ op := arg f.packet 0 0 2, l1 := arg f.packet 0 2 1 == 1, next := 0, owner := some (n, f.pos) }]) ∧
  (∀ s w n o, Canonical s → w.op = 1 → w.next = 0 → w.owner = some (n, o.pos) → w ∈ s.power.ccMaint →
    ((s.queue n).opened.find? fun c => c.pos == o.pos) = some o → stampedLate s n = false → (∀ k, (s.cluster k).evict.length ≤ 32) →
    let t := stepWalk s w ccSets
    Completed s t n o.pos o.packet Code.success ∧ t.power.ccMaint = s.power.ccMaint.erase w ∧
      ∀ k, k < 24 → (t.cluster k).evict = [] ∧
        ∀ key, ((t.cluster k).way key).valid = ((s.cluster k).way key).valid ∧ ((t.cluster k).way key).data = ((s.cluster k).way key).data ∧
          (key < 65536 → ((t.cluster k).way key).valid ≠ 0 → ((t.cluster k).way key).dirty = 0)) ∧
  (∀ s n f, Canonical s → Dispatches s n 4 f → arg f.packet 0 0 2 = 1 → arg f.packet 0 2 1 = 0 → arg f.packet 0 3 1 = 1 →
    arg f.packet 0 4 1 = 0 →
    Finishes (.cacheMaint n) s n f Code.success fun t =>
      ∀ line ∈ physLines (arg f.packet 1 0 56) (arg f.packet 2 0 44), ∀ key,
        (s.cluster (homeOfLine line)).find line = some key → ((t.cluster (homeOfLine line)).way key).dirty = 0 ∧
          ((t.cluster (homeOfLine line)).way key).data = ((s.cluster (homeOfLine line)).way key).data)

/-- R348 to R350, R338 and R358 to R361: contexts are created and torn down, MAP adds its leaves, UNMAP and PROTECT change theirs and
complete when earlier accesses have ended, and CARREL_SET is accepted for the next boundary. -/
def Obligations.ContextsAndMappings : Prop :=
  (∀ s n f, Canonical s → Dispatches s n 0x40 f →
    let c := arg f.packet 0 0 10
    (s.ctx c).state = .free → carrelAdmits s (arg f.packet 0 24 4) (arg f.packet 0 16 8) = true →
    takeRun (openCur s n f) (arg f.packet 0 24 4) 8 c (.node 0 0) ≠ none →
    Finishes (.contextCreate n) s n f Code.success fun t => (t.ctx c).state = .live ∧ (t.ctx c).tenant = arg f.packet 0 16 8 ∧
      (t.ctx c).carrel = arg f.packet 0 24 4 ∧ (t.ctx c).migSession = arg f.packet 0 32 8 ∧
      (t.ctx c).dirtyTrack = decide (arg f.packet 0 40 1 = 1) ∧ (t.ctx c).loaned = decide (arg f.packet 0 41 1 = 1) ∧
      (t.ctx c).faultStatus = 0 ∧ (t.ctx c).faultRecord = 0) ∧
  (∀ s n f, Canonical s → Dispatches s n 0x41 f →
    let c := arg f.packet 0 0 10
    (c = 0 → Finishes (.contextTeardown n) s n f Code.contextBusy fun t => (t.ctx c).state = (s.ctx c).state) ∧
    (c ≠ 0 → (s.ctx c).state = .live ∨ (s.ctx c).state = .lost → folioNames s c = false →
      ∃ t b, exec (.contextTeardown n) s = .next t ∧ (t.ctx c).state = .teardown ∧ t.desk.teardowns = s.desk.teardowns ++ [⟨n, f.pos, c, b⟩] ∧
        ∀ k, (t.queue k).ctx = c → (t.queue k).state = .stopped ∨ (t.queue k).state = .disabled)) ∧
  (∀ s c x, Canonical s → (s.desk.teardowns.find? fun y => y.ctx == c) = some x → deskUp s = true → teardownReady s x = true →
    ∃ t, exec (.contextTeardownComplete c) s = .next t ∧ (t.ctx c).state = .free ∧ leavesOf t c = [] ∧
      (∀ k, (t.queue k).ctx = c → (t.queue k).state = .disabled) ∧
      (∀ m, (s.tally m).assigned = true → (s.tally m).owner = c → (t.tally m).abandoned = true) ∧
      (∀ w ∈ t.hub.watches, w.ctx ≠ c) ∧ ∀ y ∈ t.desk.teardowns, y.ctx ≠ c) ∧
  (∀ s n f ctx size va count, Canonical s → Dispatches s n 0x42 f → mappingFree s n = true → mapArgs f.packet = (ctx, size, va, count) →
    let image := BitVec.ofNat 64 (arg f.packet 3 0 64)
    mapRangeOk size va count = true → leafFormOk image size = true → leafAddr image + count * pageBytes size ≤ 2 ^ 44 →
    (s.ctx ctx).state = .live →
    (∀ l ∈ mapLeaves f.packet, (∀ o ∈ leavesOf s ctx, leafOverlaps l o = false) ∧ leafPlaceOk s ctx l = true ∧
      leafReserved l = false ∧ ∀ p ∈ leafPages l, s.dram.retired p = false ∧ mapCount s p < 65535) →
    addLeaves (openCur s n f) ctx (mapLeaves f.packet) ≠ none →
    Finishes (.mapPages n) s n f Code.success fun t => (∀ l ∈ mapLeaves f.packet, findLeaf t ctx l.va = some l) ∧
      (∀ l ∈ leavesOf s ctx, l ∈ leavesOf t ctx) ∧ ∀ c, c ≠ ctx → leavesOf t c = leavesOf s c) ∧
  (∀ s n f ctx size va count, Canonical s → mappingFree s n = true → mapArgs f.packet = (ctx, size, va, count) →
    mapRangeOk size va count = true → (s.ctx ctx).state = .live →
    (∀ x ∈ rangeVas f.packet, ∃ l, exactLeaf s ctx x size = some l ∧ bit l.word 7 = false ∧ ownLeaf ctx l = false) →
    let Changed (t : State) := t.xlat.changes = s.xlat.changes ++ [⟨n, f.pos, ctx, s.nextAcc, Code.success⟩] ∧
      (∃ c ∈ (t.queue n).opened, c.pos = f.pos) ∧ ∀ c, c ≠ ctx → leavesOf t c = leavesOf s c
    (Dispatches s n 0x43 f → ∃ t, exec (.unmapPages n) s = .next t ∧ Changed t ∧
      ∀ l, l ∈ leavesOf t ctx ↔ l ∈ leavesOf s ctx ∧ ¬ (l.size = size ∧ l.va ∈ rangeVas f.packet)) ∧
    (Dispatches s n 0x44 f → (∀ x ∈ rangeVas f.packet, ∀ l, exactLeaf s ctx x size = some l →
        leafFormOk (setBit (protectLeaf f.packet l).word 7 false) size = true ∧ leafPlaceOk s ctx (protectLeaf f.packet l) = true) →
      ∃ t, exec (.protect n) s = .next t ∧ Changed t ∧
        leavesOf t ctx = (leavesOf s ctx).map fun l => if l.size = size ∧ l.va ∈ rangeVas f.packet then protectLeaf f.packet l else l)) ∧
  (∀ s n c p, Canonical s → (s.xlat.changes.find? fun x => x.queue == n) = some c → deskUp s = true →
    (∀ a ∈ s.accesses, translatedBefore c a = false) → ((s.queue n).opened.find? fun x => x.pos == c.pos) = some p → stampedLate s n = false →
    ∃ t, exec (.mappingChangeComplete n) s = .next t ∧ t.xlat.changes = s.xlat.changes.erase c ∧ Completed s t n c.pos p.packet c.status) ∧
  (∀ s n f, Canonical s → Dispatches s n 0x45 f →
    (∀ st, carrelRefusal (projected (openCur s n f)) (carrelArgs f.packet).1 (carrelArgs f.packet).2 = some st →
      Finishes (.carrelSet n) s n f st fun t => t.xlat.carrels = s.xlat.carrels) ∧
    (carrelRefusal (projected (openCur s n f)) (carrelArgs f.packet).1 (carrelArgs f.packet).2 = none →
      ∃ t x, exec (.carrelSet n) s = .next t ∧ t.desk.txns = s.desk.txns ++ [x] ∧ x.stamp = s.power.now ∧ x.queue = some (n, f.pos) ∧
        t.xlat.carrels = s.xlat.carrels))

/-- R47 to R50, R311, R314, R315, R371, R385 and R388: tallies are assigned, released and read, pages are retired, and queues are
created, destroyed, resumed, halted and flushed. -/
def Obligations.TalliesPagesQueues : Prop :=
  (∀ s n f, Canonical s → Dispatches s n 0x46 f → NoSignal f →
    let first := arg f.packet 0 0 16
    let count := arg f.packet 0 16 17
    let ctx := arg f.packet 0 40 10
    1 ≤ count → first + count ≤ 65536 → (s.ctx ctx).state = .live → (∀ m, first ≤ m → m < first + count → (s.tally m).assigned = false) →
    Finishes (.tallyAssign n) s n f Code.success fun t =>
      (∀ m, first ≤ m → m < first + count → t.tally m = newTally s ctx (arg f.packet 1 0 63)) ∧
      ∀ m, ¬ (first ≤ m ∧ m < first + count) → t.tally m = s.tally m) ∧
  (∀ s n f, Canonical s → Dispatches s n 0x47 f → NoSignal f →
    let first := arg f.packet 0 0 16
    let count := arg f.packet 0 16 17
    1 ≤ count → first + count ≤ 65536 →
    Finishes (.tallyRelease n) s n f Code.success fun t =>
      (∀ m, first ≤ m → m < first + count → (s.tally m).assigned = true → t.tally m = Tally.free) ∧
      (∀ m, ¬ (first ≤ m ∧ m < first + count) → t.tally m = s.tally m)) ∧
  (∀ s n f u, Canonical s → Dispatches s n 0x48 f →
    virtWrite (openCur s n f) .desk 0 (arg f.packet 1 0 56) (leBytes 16 (s.tally (arg f.packet 0 0 16)).image.toNat) deskMayUse = .ok u →
    Finishes (.tallyRead n) s n f Code.success fun t => t.dram = u.dram ∧ t.clusters = u.clusters) ∧
  (∀ s n f, Canonical s → Dispatches s n 0x49 f →
    let page := arg f.packet 0 0 25
    (384 ≤ page / 65536 → Finishes (.pageRetire n) s n f Code.reservedAddress fun t => t.dram = s.dram) ∧
    (page / 65536 < 384 → s.dram.retired page = true → Finishes (.pageRetire n) s n f Code.success fun t => t.dram = s.dram) ∧
    (page / 65536 < 384 → s.dram.retired page = false → mapCount s page ≠ 0 →
      Finishes (.pageRetire n) s n f Code.pageMapped fun t => t.dram = s.dram) ∧
    (page / 65536 < 384 → s.dram.retired page = false → mapCount s page = 0 → s.dram.fieldRetired.length < 8192 →
      (∀ c i, carrelOf s page = some (c, i) → inTableArea s.dram (s.carrel c) i = false) →
      Finishes (.pageRetire n) s n f Code.success fun t => t.dram = { s.dram with fieldRetired := s.dram.fieldRetired ++ [page] })) ∧
  (∀ s n f cls, Canonical s → Dispatches s n 0x4A f →
    let k := arg f.packet 0 0 12
    let ctx := arg f.packet 0 16 10
    (s.queue k).state = .disabled → (s.ctx ctx).state = .live → classOf (arg f.packet 0 12 2) = some cls → classFits s cls ctx = true →
    (cls = .serving → (s.slot (arg f.packet 0 32 8)).queue = 0xFFFF) → arg f.packet 0 32 8 ≤ 191 → 4 ≤ arg f.packet 0 48 5 →
    arg f.packet 0 48 5 ≤ 16 → arg f.packet 1 0 56 % 64 = 0 → arg f.packet 2 0 56 % 64 = 0 →
    Finishes (.queueCreate n) s n f Code.success fun t => let q := t.queue k
      q.state = .idle ∧ q.cls = cls ∧ q.ctx = ctx ∧ q.ring = arg f.packet 1 0 56 ∧ q.record = arg f.packet 2 0 56 ∧
      q.log2 = arg f.packet 0 48 5 ∧ q.session = arg f.packet 0 40 8 ∧ q.readPos = 0 ∧ q.writePos = 0 ∧ q.retiredPos = 0 ∧
      (cls = .serving → (t.slot (arg f.packet 0 32 8)).queue = k)) ∧
  (∀ s n f, Canonical s → Dispatches s n 0x4B f →
    let k := arg f.packet 0 0 12
    (k = 0 → Finishes (.queueDestroy n) s n f Code.queueBusy fun t => (t.queue k).state = (s.queue k).state) ∧
    (k ≠ 0 → (s.queue k).state = .stopped → Finishes (.queueDestroy n) s n f Code.success fun t => t.queue k = Queue.disabled)) ∧
  (∀ s n f, Canonical s → Dispatches s n 0x4F f →
    let k := arg f.packet 0 0 12
    (arg f.packet 0 12 2 = 0 → (s.queue k).state = .halted → Finishes (.queueResume n) s n f Code.success fun t =>
      (t.queue k).state = if (s.queue k).readPos = (s.queue k).writePos then .idle else .active) ∧
    (arg f.packet 0 12 2 = 1 → (s.queue k).state = .idle ∨ (s.queue k).state = .active ∨ (s.queue k).state = .waiting →
      Finishes (.queueHalt n) s n f Code.success fun t => (t.queue k).state = .halted ∧ (t.queue k).pre = [] ∧
        ∀ w ∈ t.hub.watches, w.kind ≠ .queue k) ∧
    (arg f.packet 0 12 2 = 2 → (s.queue k).state = .halted → Finishes (.queueFlush n) s n f Code.success fun t =>
      (t.queue k).readPos = (s.queue k).writePos ∧ (t.queue k).state = .halted))

/-! ## Steeps, Folio and migration (R351 to R354, R364 to R368, R461 to R486, R571, R572) -/

/-- R364 to R367, R272, R571, R572 and R467: a boundary opens the next Steep at the end of the period, or at the first aligned time
from there on, steps the arithmetic clock within its cap and its least step, puts CC_DISABLE_MASK in force, and freezes the context
of the Folio command that waits for it. -/
def Obligations.SteepBoundary : Prop :=
  ∀ s, Canonical s → bit s.power.clocks 1 = true → s.power.devState = .running → s.desk.txns = [] → 0 < s.desk.periodUs →
    let p := 1000 * s.desk.periodUs
    ∃ t, exec .steepBoundary s = .next t ∧ t.desk.steepNumber = s.desk.steepNumber + 1 ∧
      (s.desk.align = false → t.desk.steepStart = s.desk.steepStart + p) ∧
      (s.desk.align = true → s.desk.steepStart + p ≤ t.desk.steepStart ∧ t.desk.steepStart < s.desk.steepStart + 2 * p ∧
        t.desk.steepStart % p = s.desk.phaseNs % p) ∧
      t.power.now = Nat.max s.power.now t.desk.steepStart ∧
      t.power.arithMHz = Nat.max 800 (Nat.min (governorStep s.power) s.power.capMHz) ∧ t.power.ccDisable = s.power.ccDisableNext ∧
      (∀ r, s.folio.run = some r → r.phase = .waitBoundary → (s.ctx r.cmd.ctx).state = .live → s.folio.thaws = [] →
        t.folio.run = some { r with phase := .freezing, freezeAt := t.desk.steepStart, steep := t.desk.steepNumber } ∧
        ∀ k, (t.queue k).ctx = r.cmd.ctx → (t.queue k).state = .frozen ∨ (t.queue k).state = .disabled)

namespace Sys2Proof.Says

/-- The Folio command that packet `f` of queue `n` asks for, with its locators. -/
def folioOf (kind : FolioKind) (n : Nat) (f : Fetched) (ls : List (BitVec 256)) : FolioCmd :=
  { kind := kind, queue := n, pos := f.pos, packet := f.packet, ctx := arg f.packet 0 0 10, locs := ls }

/-- What a dispatched Folio command does when its `count` locators can be read at `va`: it joins the Folio queue, where `place`
puts it, or completes with the refusal. -/
def JoinsFolio (c : Instr) (s : State) (n cmd va count : Nat) (f : Fetched) (kind : FolioKind)
    (refusal : State → List (BitVec 256) → Option Status) (place : List FolioCmd → FolioCmd → List FolioCmd) : Prop :=
  ∀ bs u, Dispatches s n cmd f → va % 32 = 0 → 1 ≤ count → count ≤ 64 → deskRead (openCur s n f) n f.pos va (32 * count) = .ok (bs, u) →
    let ls := locatorsOf bs
    (∀ st, refusal u ls = some st → Finishes c s n f st fun t => t.folio.waiting = s.folio.waiting) ∧
    (refusal u ls = none → ∃ t, exec c s = .next t ∧ t.folio.waiting = place s.folio.waiting (folioOf kind n f ls) ∧
      ∃ o ∈ (t.queue n).opened, o.pos = f.pos)

/-- A RECALL stands before every command that is no RECALL (R462). -/
def recallPlace (w : List FolioCmd) (c : FolioCmd) : List FolioCmd :=
  w.filter (fun x => x.kind == .recall) ++ [c] ++ w.filter fun x => x.kind != .recall

/-- The thaw that the end of a Folio command leaves to the next boundary. -/
def thawOf (r : FolioRun) (st : Status) : FolioThaw :=
  { ctx := r.cmd.ctx, queue := r.cmd.queue, pos := r.cmd.pos, status := st, stamp := r.freezeAt, steep := r.steep }

/-- The image of a running FOLIO_WRITE has ended with `st`: its context is thawed at the next boundary (R480). -/
def WriteEnds (s t : State) (r : FolioRun) (st : Status) : Prop :=
  t.folio.run = none ∧ t.folio.thaws = s.folio.thaws ++ [thawOf r st]

/-- A restore has failed (R487). -/
def RestoreFails (s t : State) : Prop :=
  t.folio.run = none ∧ t.folio.restoreFails = Nat.min (s.folio.restoreFails + 1) (2 ^ 64 - 1)

end Sys2Proof.Says

/-- R461 to R467: the Folio commands join the Folio queue or are refused; the first one starts when nothing runs, claims its engines
or is refused; and when the frozen context's saves have ended its items are listed and the writing begins. -/
def Obligations.FolioCommands : Prop :=
  (∀ s n f, Canonical s → s.folio.run = none → JoinsFolio (.recall n) s n 0x4C (arg f.packet 2 0 56) 1 f .recall
    (fun u ls => sinkRefusal u true f.packet (ls.headD 0)) recallPlace) ∧
  (∀ s n f, Canonical s → JoinsFolio (.folioWrite n) s n 0x4D (arg f.packet 2 0 56) 1 f .write
    (fun u ls => sinkRefusal u false f.packet (ls.headD 0)) fun w c => w ++ [c]) ∧
  (∀ s n f, Canonical s → JoinsFolio (.folioRestore n) s n 0x4E (arg f.packet 1 0 56) (arg f.packet 0 16 7) f .restore
    (fun u ls => sourceRefusal u f.packet ls) fun w c => w ++ [c]) ∧
  (∀ s c rest, Canonical s → deskUp s = true → s.folio.run = none → s.folio.waiting = c :: rest →
    (claimsOk s c = false → ∃ t, exec .folioCommandStart s = .next t ∧ t.folio.run = none ∧ t.folio.waiting = rest) ∧
    (claimsOk s c = true → (s.ctx c.ctx).state = .live → s.folio.thaws = [] →
      ∃ t r, exec .folioCommandStart s = .next t ∧ t.folio.waiting = rest ∧ t.folio.run = some r ∧ r.cmd = c ∧
        r.phase = (if c.kind = .restore then .fetching else .waitBoundary) ∧ t.ports.digHolder = .folio ∧
        (t.ctx c.ctx).folioState = c.kind.code ∧ (t.ctx c.ctx).state = .live)) ∧
  (∀ s r, Canonical s → s.folio.run = some r → bit s.power.clocks 1 = true → r.phase = .freezing → r.cmd.kind ≠ .restore →
    (s.ctx r.cmd.ctx).state = .live → frozenDone s r.cmd.ctx = true →
    ∃ t x, exec .folioFreezeComplete s = .next t ∧ (t.ctx r.cmd.ctx).state = .frozen ∧ t.folio.run = some x ∧ x.phase = .writing ∧
      x.items = imageItems t r.cmd.ctx r.cmd.full ∧ x.total = imageLength x.items.length ∧
      (∀ n l, t.launch n = some l → l.ctx = r.cmd.ctx → l.channels = []) ∧
      (locLength r.cmd.sink < x.total → x.failure = r.failure.or (some Code.folioSinkSmall)))

/-- R232, R475, R478 to R482: a digest engine hashes one of its first eight items, the seal follows the last item, and an image
that is stored or has failed ends its command. -/
def Obligations.FolioImages : Prop :=
  (∀ s cluster i q r x, Canonical s → clusterUp s cluster = true → s.folio.run = some r → r.phase = .writing →
    ((sget (fun _ => []) s.folio.digests cluster).take 8)[i]? = some q → r.items[q.item]? = some x →
    let u := { s with folio := { s.folio with
      digests := sput (fun _ => []) s.folio.digests cluster ((sget (fun _ => []) s.folio.digests cluster).eraseIdx i) } }
    let g := (itemContent u r.cmd.ctx x).1
    (x.kind ≠ 0x10 → g = { bytes := stateItem s r.cmd.ctx x.kind x.key, poison := stateItemPoison s r.cmd.ctx x.kind x.key }) ∧
    ∃ t y z, exec (.digestComplete cluster i) s = .next t ∧ t.folio.run = some y ∧ y.items[q.item]? = some z ∧ z.hashed = true ∧
      z.kind = x.kind ∧ z.key = x.key ∧ z.poison = g.bad ∧ z.digest = shake 32 (q.head ++ g.bytes) ∧
      sget (fun _ => []) t.folio.digests cluster = (sget (fun _ => []) s.folio.digests cluster).eraseIdx i ∧
      ∀ j, j ≠ q.item → y.items[j]? = r.items[j]?) ∧
  (∀ s r, Canonical s → s.folio.run = some r → bit s.power.clocks 1 = true → r.phase = .writing ∨ r.phase = .stored →
    (∀ st, r.failure = some st → st ≠ Code.success → r.cmd.kind = .write → ∃ t, exec .folioImageComplete s = .next t ∧ WriteEnds s t r st ∧
      t.folio.written = s.folio.written ∧ (t.ctx r.cmd.ctx).folioLastId = (s.ctx r.cmd.ctx).folioLastId) ∧
    (∀ st, r.failure = some st → r.cmd.kind = .recall → ∃ t, exec .folioImageComplete s = .next t ∧ t.folio.run = none ∧
      (t.ctx r.cmd.ctx).state = .free ∧ t.folio.recalls = Nat.min (s.folio.recalls + 1) (2 ^ 64 - 1) ∧
      ∀ k, (t.queue k).ctx = r.cmd.ctx → (t.queue k).state = .disabled) ∧
    (r.failure = none → r.cmd.kind ≠ .restore → r.phase = .writing → (∀ x ∈ r.items, x.hashed = true) → sinkDone s r = true →
      ∃ t x, exec .folioImageComplete s = .next t ∧ t.folio.run = some x ∧ x.phase = .stored ∧ x.cmd = r.cmd) ∧
    (r.failure = none → r.cmd.kind = .write → r.phase = .stored → (∀ x ∈ r.items, x.hashed = true) → sinkDone s r = true →
      (locKind r.cmd.sink = 3 → ∀ k ∈ locSessions r.cmd.sink, k ∈ r.storedBy) →
      ∃ t, exec .folioImageComplete s = .next t ∧ WriteEnds s t r Code.success ∧
        t.folio.written = Nat.min (s.folio.written + 1) (2 ^ 64 - 1) ∧ (t.ctx r.cmd.ctx).folioLastId = r.cmd.folioId ∧
        (t.ctx r.cmd.ctx).folioSteep = r.steep ∧ sget (fun _ => []) t.xlat.dirty r.cmd.ctx = []))

/-- R478, R484 to R487: what a host's answers note in the running Folio command, and how a restore goes on, is refused by a check,
loses its target to a digest that differs, or installs the last image; it reads every image again once its target is frozen. -/
def Obligations.FolioAnswers : Prop :=
  (∀ s m u x r, Canonical s → Delivered s m false u x → u.folio.run = some r →
    (m.arg0 = 0 → m.payload.length = 8 → r.cmd.kind ≠ .restore → r.phase = .stored → r.cmd.usesSession m.session.toNat = true →
      leNat m.payload = r.cmd.folioId → ∃ t y, exec (.folioStored m) s = .next t ∧ t.folio.run = some y ∧ m.session.toNat ∈ y.storedBy) ∧
    (m.arg0 = 0 → m.payload.length = 8 → r.cmd.usesSession m.session.toNat = true → leNat m.payload = r.cmd.folioId → r.failure = none →
      ∃ t y, exec (.folioRefuse m) s = .next t ∧ t.folio.run = some y ∧ y.failure = some Code.folioSinkFailed) ∧
    (fld m.arg0 48 16 = 0 → m.payload.length = 8192 → r.cmd.kind = .restore → r.phase = .fetching ∨ r.phase = .reading → swf (fun _ => []) r.got = true →
      locKind (r.loc r.image) = 3 → m.session.toNat ∈ locSessions (r.loc r.image) → fld m.arg0 0 48 % 8192 = 0 →
      fld m.arg0 0 48 < locUnits (r.loc r.image) * 65536 →
      ∃ t y, exec (.folioReadData m) s = .next t ∧ t.folio.run = some y ∧ y.bytes = r.bytes + 8192 ∧
        sget (fun _ => []) y.got (gotKey r.image (fld m.arg0 0 48)) = m.payload)) ∧
  (∀ s r, Canonical s → s.folio.run = some r → bit s.power.clocks 1 = true → r.cmd.kind = .restore →
    (r.phase = .fetching →
      (∀ st, r.failure = some st → ∃ t, exec .folioRestoreComplete s = .next t ∧ RestoreFails s t) ∧
      (r.failure = none → r.imageGot r.image = true → r.image + 1 = r.cmd.locs.length →
        (∀ st, chainRefusal s r = some st → ∃ t, exec .folioRestoreComplete s = .next t ∧ RestoreFails s t ∧
          (t.ctx r.cmd.ctx).state = (s.ctx r.cmd.ctx).state) ∧
        (chainRefusal s r = none → ∃ t, exec .folioRestoreComplete s = .next t ∧ t.folio.run = some { r with phase := .waitBoundary }))) ∧
    (r.phase = .freezing → frozenDone s r.cmd.ctx = true → (s.ctx r.cmd.ctx).state = .live → r.failure = none →
      ∃ t y, exec .folioRestoreComplete s = .next t ∧ t.folio.run = some y ∧ y.phase = .reading ∧ y.image = 0 ∧ y.cmd = r.cmd ∧
        y.roots = (List.range r.cmd.locs.length).map r.rootOf ∧ (t.ctx r.cmd.ctx).state = .frozen) ∧
    (r.phase = .reading → r.failure = none → r.imageGot r.image = true →
      let a := restoreImage s r r.image
      (a.1 = false → (s.ctx r.cmd.ctx).state = .frozen → ∃ t, exec .folioRestoreComplete s = .next t ∧ t.folio.run = none ∧
        (t.ctx r.cmd.ctx).state = .lost ∧ (t.ctx r.cmd.ctx).faultStatus = Code.folioDigest) ∧
      (a.1 = true → r.image + 1 < r.cmd.locs.length → ∃ t y, exec .folioRestoreComplete s = .next t ∧ t.folio.run = some y ∧
        y.phase = .reading ∧ y.image = r.image + 1) ∧
      ∀ w, a.1 = true → r.image + 1 = r.cmd.locs.length → installState a.2 r = .ok w → ∃ t, exec .folioRestoreComplete s = .next t ∧
        t.folio.run = none ∧ t.folio.restores = Nat.min (w.folio.restores + 1) (2 ^ 64 - 1) ∧
        (t.ctx r.cmd.ctx).folioLastId = r.idOf r.last ∧ t.folio.thaws = w.folio.thaws ++ [thawOf r Code.success]))

namespace Sys2Proof.Says

/-- A migration record is free again and its page is no longer asked for. -/
def RecordFreed (t : State) (r : Nat) : Prop := oget t.xlat.records r = none ∧ ∀ a ∈ t.accesses, a.stage ≠ .migrating r

end Sys2Proof.Says

/-- R353, R354 and R423: a supplied page is read with one RDMA READ of 65,536 bytes, a refusal fails the migration and loses the
context, and the arrived page becomes a DRAM page that is no longer MIGRATING; its record is free, no other record changes, and the
engines that waited go on in the order of its queue. -/
def Obligations.Migrations : Prop :=
  (∀ s m u x r y, Canonical s → Delivered s m false u x → fld m.arg0 58 6 = 0 → answeredRecord u m = some r →
    oget u.xlat.records r = some y →
    (∀ k c, m.payload.length = 16 → leNat (sub m.payload 12 2) = k → leNat (sub m.payload 14 2) = 0 → u.conn k = some c →
      c.session = m.session.toNat → c.error = false → c.reqs = [] →
      ∃ t d q, exec (.migrateSupply m) s = .next t ∧ oget t.xlat.records r = some { y with stage := .reading k } ∧ t.conn k = some d ∧
        d.reqs = [q] ∧ q.psn = c.txPsn ∧ q.write = false ∧ q.va = leNat (sub m.payload 0 8) ∧ q.length = 65536 ∧ q.sent = true ∧
        q.use = .migration r ∧ q.rkey = BitVec.ofNat 32 (leNat (sub m.payload 8 4))) ∧
    (m.payload = [] → (u.ctx y.first.ctx).state = .live →
      ∃ t, exec (.migrateRefuse m) s = .next t ∧ RecordFreed t r ∧ (t.ctx y.first.ctx).state = .lost ∧
        (t.ctx y.first.ctx).faultStatus = y.first.status)) ∧
  (∀ s r x bytes l, Canonical s → oget s.xlat.records r = some x → x.stage = .arrived bytes → bytes.length = 65536 →
    bit s.power.clocks 1 = true → findLeaf s x.ctx (x.page * 65536) = some l →
    ∃ u, exec (.migrationComplete r) s = .next (resumeQueue u x) ∧ oget u.xlat.records r = none ∧
      (∀ k, k ≠ r → oget u.xlat.records k = oget s.xlat.records k) ∧
      (∃ l' ∈ leavesOf u x.ctx, l'.va = l.va ∧ l'.size = l.size ∧ leafKind l'.word = 1 ∧ bit l'.word 7 = false) ∧
      (u.ctx x.ctx).migrations = Nat.min ((s.ctx x.ctx).migrations + 1) (2 ^ 64 - 1))

/-! ## Sessions (R407, R414 to R421) -/

namespace Sys2Proof.Says

/-- The last message that session `n` has sent or holds back is `msg`, but for its sequence number. -/
def LastMsg (t : State) (n : Nat) (msg : OutMsg) : Prop :=
  ∃ y m, t.session n = some y ∧ y.unacked.getLast? = some m ∧ { m with seq := msg.seq } = msg

/-- What the ports were given to send, the newest first, but for their own requests for addresses (R406). -/
def given (s : State) : List Sent := s.ports.sent.filter fun x => match x with | .solicit _ _ => false | _ => true

/-- The messages of a session's window go on the wire again, and nothing else. -/
def Resent (s t : State) (n : Nat) (ms : List OutMsg) : Prop := given t = (ms.map fun m => Sent.smt n m).reverse ++ given s

/-- The message `m` arrives on a host port that is up, on its VLAN and within MTU, and its header is well formed (R405, R407, R415). -/
structure Comes (s : State) (m : Msg) (cat opens : Bool) : Prop where
  up   : portUp s m.port = true
  host : m.port < 2
  fits : admits s m.port m.vlan.toNat (ownBytes m.srcIp m.payload.length) = true
  vlan : vlanOk s m cat opens = true
  good : msgOk m = true

/-- Session `n` has ended: it is closed now, and its connections and event watches are gone. -/
structure SessionEnded (s t : State) (n : Nat) : Prop where
  closed  : t.session n = none
  when    : oget t.ports.closedAt n = some s.power.now
  conns   : ∀ c y, t.conn c = some y → y.session ≠ n
  watches : ∀ w ∈ t.hub.watches, w.kind ≠ .once n ∧ w.kind ≠ .every n

end Sys2Proof.Says

/-- R407 and R415 to R418: a message in order is accepted and counted, OPEN opens a session or is refused, CLOSE and twelve resends
without progress end one, an ACK removes what it acknowledges, and the timers send an ACK or the window again. -/
def Obligations.Sessions : Prop :=
  (∀ s m cat x, Canonical s → s.power.devState = .running → 8 ≤ s.power.step → Comes s m cat false →
    sessionOf s m = some x → m.seq = x.rxNext → m.ackValid = false →
    ∃ u, Delivered s m cat u x ∧ u = { s with ports := u.ports } ∧
      (u.session m.session.toNat).map (·.rxNext) = some (x.rxNext + 1) ∧ ∀ k, k ≠ m.session.toNat → u.session k = s.session k) ∧
  (∀ s m, Canonical s → Comes s m false true → m.arg0 = 0 → m.payload = [] → m.session = 0xFFFF →
    (∀ st, openGrant s m = .error st → ∃ t r, exec (.openSession m) s = .next t ∧ t.ports.sessions = s.ports.sessions ∧
      given t = .unseq m.port 0xFFFF m.srcIp m.srcUdp r 0 false :: given s ∧ r.typ = 2 ∧ r.status = st ∧ r.tag = m.tag) ∧
    (∀ ten op n, openGrant s m = .ok (ten, op) → freeSession s = some n → ∃ t r x, exec (.openSession m) s = .next t ∧
      t.session n = some x ∧ (∀ k, k ≠ n → t.session k = s.session k) ∧ x.port = m.port ∧ x.ip = m.srcIp ∧ x.udp = m.srcUdp ∧
      x.tenant = ten ∧ x.operator = op ∧ x.rxNext = 0 ∧ x.txNext = 0 ∧ x.unacked = [] ∧
      given t = .unseq m.port n m.srcIp m.srcUdp r 0 false :: given s ∧ r.typ = 2 ∧ r.status = Code.success ∧ r.tag = m.tag ∧
      fld r.arg0 0 22 = x.keyTag.toNat ∧ fld r.arg0 22 8 = ten ∧ bit r.arg0 30 = op ∧ fld r.arg0 31 33 = 0)) ∧
  (∀ s m u x, Canonical s → Delivered s m false u x → m.arg0 = 0 → m.payload = [] →
    ∃ t, exec (.closeSession m) s = .next t ∧ SessionEnded s t m.session.toNat) ∧
  (∀ s m x, Canonical s → Comes s m false false → m.arg0 = 0 → m.payload = [] →
    sessionOf s m = some x → m.ackValid = true → m.gap = false →
    let k := (m.ack - (x.txNext - BitVec.ofNat 32 x.unacked.length)).toNat
    k ≤ x.unacked.length → k ≤ 256 → ∃ t y, exec (.ack m) s = .next t ∧ t.session m.session.toNat = some y ∧
      y.unacked = x.unacked.drop k ∧ y.rxNext = x.rxNext ∧ y.txNext = x.txNext ∧ (0 < k → y.resends = 0)) ∧
  (∀ s n x, Canonical s → s.session n = some x → bit s.power.clocks 1 = true →
    (0 < x.owed → ∃ t r, exec (.smtAckTimer n) s = .next t ∧ t.session n = some { x with owed := 0 } ∧ r.typ = 4 ∧
      given t = .unseq x.port n x.ip x.udp r x.rxNext false :: given s) ∧
    (x.unacked ≠ [] → x.resends < 12 → ∃ t, exec (.smtResendTimer n) s = .next t ∧ Resent s t n (x.unacked.take 256) ∧
      ∃ o, (o = x.owed ∨ o = 0) ∧
        t.session n = some { x with resends := x.resends + 1, backoff := Nat.min 1000000 (2 * x.backoff), owed := o }) ∧
    (x.unacked ≠ [] → 12 ≤ x.resends → ∃ t, exec (.sessionLost n) s = .next t ∧ SessionEnded s t n))

/-- R410, R414, R420 and R421: COMMAND places its packets in queue 0 and rings its doorbell, CONNECT makes a connection or is refused,
and DISCONNECT removes one of the session's own. -/
def Obligations.SessionRequests : Prop :=
  ∀ s m u x, Canonical s → Delivered s m false u x →
    let n := m.session.toNat
    (let k := m.payload.length
     let q := u.queue 0
     let w := q.writePos + BitVec.ofNat 32 (k / 64)
     m.arg0 = 0 →
      (k % 64 ≠ 0 ∨ k < 64 ∨ 4096 < k → ∃ t, exec (.command m) s = .next t ∧ Told u t m Code.formatError) ∧
      (∀ v, k % 64 = 0 → 64 ≤ k → k ≤ 4096 → q.state = .idle ∨ q.state = .active ∨ q.state = .waiting ∨ q.state = .halted → MayRing u 0 x →
        (w - q.retiredPos).toNat ≤ 2 ^ q.log2 → (q.writePos - q.readPos).toNat < (w - q.readPos).toNat → writeRing u 0 m.payload = .ok v →
        ∃ t, exec (.command m) s = .next t ∧ (t.queue 0).writePos = w ∧ (t.queue 0).pendingBit = true ∧ t = ringDoorbell v 0 w ∧
          (t.queue 0).state = if q.state = .idle then .active else q.state)) ∧
    (fld m.arg0 13 51 = 0 → connectOk m = true → (bit m.arg0 12 = true → mayBind u (fld m.arg0 0 12) x = true) →
      (∀ k, k < 1024 → (∀ j, j < k → u.conn j ≠ none) → u.conn k = none →
        ∃ t c, exec (.connect m) s = .next t ∧ t.conn k = some c ∧ (∀ j, j ≠ k → t.conn j = u.conn j) ∧ c.session = n ∧
          c.qpn.toNat = leNat (sub m.payload 0 3) ∧ c.rxPsn.toNat = leNat (sub m.payload 4 3) ∧ c.error = false ∧ c.reqs = [] ∧
          c.pmtu = 1024 * 2 ^ (m.payload.getD 8 0).toNat ∧ c.bound = (if bit m.arg0 12 then some (fld m.arg0 0 12) else none) ∧
          LastMsg t n (OutMsg.plain 0x41 Code.success m.tag (BitVec.ofNat 64 (k + (0x10000 + k) * 2 ^ 16 + c.txPsn.toNat * 2 ^ 40)))) ∧
      ((∀ k, k < 1024 → u.conn k ≠ none) → ∃ t, exec (.connect m) s = .next t ∧ t.ports.conns = u.ports.conns ∧
        LastMsg t n (OutMsg.plain 0x41 Code.connectionTableFull m.tag 0))) ∧
    (fld m.arg0 10 54 = 0 → m.payload = [] → ∀ c, u.conn (fld m.arg0 0 10) = some c →
      (c.session = n → ∃ t, exec (.disconnect m) s = .next t ∧ t.conn (fld m.arg0 0 10) = none) ∧
      (c.session ≠ n → exec (.disconnect m) s = .next u))

/-! ## The Catalogue (R489 to R511, R530 to R532, R541, R543, R545) -/

namespace Sys2Proof.Says

/-- A CAT_REQUEST of `row` is accepted in its session `x` and passes the common checks; `u` is the state in which the server
performs it. -/
structure Requests (s : State) (m : Msg) (row : CatRow) (u : State) (x : Session) : Prop where
  got   : Delivered s m true u x
  row   : catRowOf m = row
  clear : fld m.arg0 28 4 = 0
  gate  : catGate u x m = none
  runs  : catOp m = 4 ∨ catStopped u (catIdx m) = false

/-- A request to write or invoke that the entry's own rules allow at once. -/
structure Performs (s : State) (m : Msg) (row : CatRow) (u : State) (x : Session) : Prop extends Requests s m row u x where
  allowed : itemRefusal u .now (itemOf m) = none

/-- The server has answered with a CAT_REPLY that echoes INDEX, SUBINDEX, OP and TAG (R496). -/
def Replied (t : State) (m : Msg) (st : Status) (off : Nat) (more : Bool) (bytes : List Byte) : Prop :=
  LastMsg t m.session.toNat
    { OutMsg.plain 0x21 st m.tag (BitVec.ofNat 64 (fld m.arg0 0 28 + off * 2 ^ 32)) with more := more, payload := bytes }

/-- The server has refused a request: it is counted and answered and does nothing else (R499). -/
def Refuses (u t : State) (m : Msg) (st : Status) : Prop :=
  (∃ off, Replied t m st off false []) ∧ t.desk.catRefused = Nat.min (u.desk.catRefused + 1) (2 ^ 64 - 1) ∧
  t.desk.txns = u.desk.txns ∧ t.dram = u.dram ∧ t.power = u.power ∧ t.xlat = u.xlat ∧ t.hub = u.hub ∧ t.plans = u.plans

/-- The commands of the Catalogue, each with the requests that belong to it. -/
def catCommands : List ((Msg → Instr) × CatRow) :=
  [(.catRead, .read), (.catWrite, .write), (.describe, .describe), (.txn, .txn), (.writeSeg, .segment), (.fwStageWrite, .lastSegment),
   (.scrubPeriodHWrite, .scrubPeriod), (.carrelEntryWrite, .carrel), (.steepAlignWrite, .steepAlign), (.linkModeWrite, .linkMode),
   (.ptpModeWrite, .ptpMode), (.dramCountersClear, .dramClear), (.tallyCountersClear, .tallyClear), (.ccMaintClean, .ccMaint 1),
   (.ccMaintInvalidate, .ccMaint 2), (.ccMaintCleanInvalidate, .ccMaint 3), (.peerSet, .peerSet), (.planSet, .planSet),
   (.planClear, .planClear), (.warmReset, .warmReset), (.powerDown, .powerDown), (.domainReset, .domainReset), (.keyRevoke, .keyRevoke),
   (.fwCommit, .fwCommit), (.attest, .attest)]

/-- A stamped write waits for the next boundary (R510). -/
def Stamped (u t : State) (m : Msg) (items : List TxnItem) : Prop :=
  t.desk.txns = u.desk.txns ++ [{ stamp := u.power.now, session := m.session.toNat, tag := m.tag, queue := none, items := items }] ∧
  t.xlat = u.xlat ∧ t.power = u.power ∧ t.hub = u.hub ∧ t.desk.slots = u.desk.slots ∧ t.desk.align = u.desk.align

end Sys2Proof.Says

/-- R494, R496 to R499, R501, R513, R515, R543 and R545: every request that fails the common checks is refused, a session without
OPERATOR reads only what R494 lets it read, READ answers with a segment of the value in force, DESCRIBE with 48 bytes, and ATTEST
with the report. -/
def Obligations.CatalogueReads : Prop :=
  (∀ p ∈ catCommands, ∀ s m u x st, Canonical s → Delivered s m true u x → catRowOf m = p.2 → fld m.arg0 28 4 = 0 → catGate u x m = some st →
    ∃ t, exec (p.1 m) s = .next t ∧ Refuses u t m st) ∧
  (∀ s x m, x.operator = false → catOp m < 6 → m.payload = [] → catOff m = 0 → (catOp m = 4 → catIdx m = 0 ∧ catSub m = 0) →
    (catOp m ≠ 0 ∨ mayRead s x.tenant (catIdx m) = false) → catGate s x m = some Code.accessDenied) ∧
  (∀ s m u x e, Canonical s → Requests s m .read u x → catEntry u (catIdx m) (catSub m) = some e →
    (e.acc = .wo → ∃ t, exec (.catRead m) s = .next t ∧ Refuses u t m Code.accessDenied) ∧
    (let v := catValue u (catIdx m) e
     e.acc ≠ .wo → ownSegments u m = false →
      (catOff m % 8192 = 0 → catOff m ≤ v.length → ∃ t, exec (.catRead m) s = .next t ∧ t.desk = u.desk ∧ t.power = u.power ∧
        Replied t m Code.success (catOff m) (decide (catOff m + 8192 < v.length)) ((v.drop (catOff m)).take 8192)) ∧
      (catOff m % 8192 ≠ 0 ∨ v.length < catOff m → ∃ t, exec (.catRead m) s = .next t ∧ Refuses u t m Code.segmentOutOfRange))) ∧
  (∀ s m u x e, Canonical s → Requests s m .describe u x → catEntry u (catIdx m) (catSub m) = some e →
    ∃ t d, exec (.describe m) s = .next t ∧ Replied t m Code.success 0 false d ∧ d.length = 48 ∧ d[0]? = some (BitVec.ofNat 8 e.typ) ∧
      d[1]? = some (BitVec.ofNat 8 e.acc.code) ∧ leNat ((d.drop 4).take 4) = (catValue u (catIdx m) e).length % 2 ^ 32) ∧
  (∀ s m u x, Canonical s → Requests s m .attest u x → 32 ≤ m.payload.length → m.payload.length ≤ 64 →
    (u.ports.digHolder = .none → ∃ t, exec (.attest m) s = .next t ∧ Replied t m Code.success 0 false (report u m.payload)) ∧
    (u.ports.digHolder ≠ .none → ∃ t, exec (.attest m) s = .next t ∧ Refuses u t m Code.resourceHeld)) ∧
  (∀ s e, (catEntry s 0x1000 1 = some e → catValue s 0x1000 e = asciiBytes "Tarhiros") ∧
    (catEntry s 0x1100 1 = some e → catValue s 0x1100 e = leBytes 1 s.power.devState.code) ∧
    (catEntry s 0x3000 1 = some e → catValue s 0x3000 e = leBytes 8 s.desk.steepNumber) ∧
    (catEntry s 0x7000 1 = some e → catValue s 0x7000 e = leBytes 2 s.power.arithMHz) ∧
    (catEntry s 0x7800 6 = some e → catValue s 0x7800 e = leBytes 8 s.dram.corrected) ∧
    ∀ n, n < 1024 → catEntry s (0x5000 + n) 0x0A = some e → catValue s (0x5000 + n) e = leBytes 64 (s.ctx n).faultRecord.toNat)

/-- R492, R493, R495, R502 and R505 to R511: an allowed WRITE of an entry that takes effect at once makes the entry read as written,
one of an RWS entry and a TXN wait for the next boundary or are refused whole, and segments gather a firmware image. -/
def Obligations.CatalogueWrites : Prop :=
  (∀ s m u x e, Canonical s → Performs s m .write u x → catEntry u (catIdx m) (catSub m) = some e → e.acc = .rw ∨ e.acc = .rwp →
    catIdx m ≠ 0x2800 → ¬ (catIdx m = 0xA000 ∧ catSub m = 0x20) → ownSegments u m = false →
    ∃ t, exec (.catWrite m) s = .next t ∧ Replied t m Code.success 0 false [] ∧ catValue t (catIdx m) e = m.payload ∧
      t.dram = u.dram ∧ t.desk = u.desk) ∧
  (∀ s m u x st, Canonical s → Requests s m .write u x → itemRefusal u .now (itemOf m) = some st → namesRws u m = false →
    ownSegments u m = false → ∃ t, exec (.catWrite m) s = .next t ∧ Refuses u t m st) ∧
  (∀ s m u x v, Canonical s → catOp m = 1 → acceptItems u m [itemOf m] = .ok v →
    (Requests s m .write u x → namesRws u m = true → ownSegments u m = false →
      ∃ t, exec (.catWrite m) s = .next t ∧ Replied t m Code.success 0 false [] ∧ Stamped u t m [itemOf m]) ∧
    (Requests s m .carrel u x →
      ∃ t, exec (.carrelEntryWrite m) s = .next t ∧ Replied t m Code.success 0 false [] ∧ Stamped u t m [itemOf m]) ∧
    (Requests s m .steepAlign u x →
      ∃ t, exec (.steepAlignWrite m) s = .next t ∧ Replied t m Code.success 0 false [] ∧ Stamped u t m [itemOf m])) ∧
  (∀ s m u x items, Canonical s → Requests s m .txn u x → (parseItems 64 m.payload).1 = items →
    (∀ v, acceptItems u m items = .ok v → (parseItems 64 m.payload).2 = true → items ≠ [] →
      ∃ t, exec (.txn m) s = .next t ∧ Replied t m Code.success 0 false (leBytes 8 (u.desk.steepNumber + 1)) ∧ Stamped u t m items) ∧
    (∀ k st, acceptItems u m items = .error (k, st) → ∃ t, exec (.txn m) s = .next t ∧ Refuses u t m st ∧ Replied t m st k false [])) ∧
  (∀ s m u x bs, Canonical s → u.sec.commit = none → (u.sec.fwSeg = some (m.session.toNat, bs) ∨ u.sec.fwSeg = none ∧ bs = []) →
    catOff m = bs.length →
    (Requests s m .segment u x → catIdx m = 0x9000 → catSub m = 0x0A → m.payload.length = 8192 → bs.length + 8192 ≤ 2 ^ 25 →
      ∃ t, exec (.writeSeg m) s = .next t ∧ t.sec = { u.sec with fwSeg := some (m.session.toNat, bs ++ m.payload) } ∧
        Replied t m Code.success (catOff m) false []) ∧
    (Requests s m .lastSegment u x → m.payload ≠ [] → presenceOpen u = true →
      let img := bs ++ m.payload
      img.length ≤ 2 ^ 25 → imgMagicOk img = true → img.length = 256 + imgBody img →
      ∃ t, exec (.fwStageWrite m) s = .next t ∧ t.sec = { u.sec with fwSeg := none, fwStage := img } ∧
        Replied t m Code.success (catOff m) false []))

namespace Sys2Proof.Says

/-- The port that a port's Catalogue index names: H0 and H1 as 0 and 1, P0 to P7 as 2 to 9. -/
def portOf (i : Nat) : Nat := if i < 0x2100 then i - 0x2000 else i - 0x2100 + 2

/-- What a warm reset leaves (R558, R559): start-up goes on after step 2, domains 0 and 2 run, and sessions, queues, launches, tallies
and contexts are gone while carrels and the time base stay. -/
structure WarmReset (s t : State) : Prop where
  power    : t.power.devState = .starting ∧ t.power.step = 2 ∧ t.power.clocks = 5 ∧ t.power.now = s.power.now
  sessions : ∀ k, t.session k = none ∧ t.conn k = none
  queues   : ∀ k, t.queue k = Queue.disabled
  launches : ∀ k, t.launch k = none
  tallies  : ∀ k, t.tally k = Tally.free
  contexts : ∀ k, (t.ctx k).state = .free ∧ (t.ctx k).faultRecord = (s.ctx k).faultRecord
  carrels  : t.xlat.carrels = s.xlat.carrels
  caches   : t.clusters = [] ∧ t.cores = []

end Sys2Proof.Says

/-- R56, R57, R334, R404, R425, R432, R436, R439, R514, R531, R541, R558, R561 and R576: what the actions of the Catalogue and the
entries with an effect of their own do. -/
def Obligations.CatalogueActions : Prop :=
  (∀ s m u x, Canonical s → Performs s m .scrubPeriod u x → let v := leNat m.payload
    ∃ t, exec (.scrubPeriodHWrite m) s = .next t ∧ Replied t m Code.success 0 false [] ∧ t.dram.scrubPeriodH = v ∧
      t.dram.bytes = u.dram.bytes ∧ (u.dram.scrubPeriodH ≠ 0 ∨ v = 0 → t.dram.scrub = u.dram.scrub) ∧
      (u.dram.scrubPeriodH = 0 → v ≠ 0 → ∀ k, k < 384 → oget t.dram.scrub k = some ((oget u.dram.scrub k).getD 0))) ∧
  (∀ s m u x, Canonical s → Performs s m .linkMode u x →
    ∃ t, exec (.linkModeWrite m) s = .next t ∧ Replied t m Code.success 0 false [] ∧ (t.port (portOf (catIdx m))).linkMode = leNat m.payload ∧
      (t.port (portOf (catIdx m))).linkState = 1 ∧ ∀ k, k ≠ portOf (catIdx m) → t.port k = u.port k) ∧
  (∀ s m u x, Canonical s → Performs s m .ptpMode u x → u.desk.txns = [] → let p := portOf (catIdx m)
    ∃ t, exec (.ptpModeWrite m) s = .next t ∧ Replied t m Code.success 0 false [] ∧ (t.port p).ptpMode = leNat m.payload ∧
      (leNat m.payload ≠ 0 → t.ports.ptpPort = some p) ∧ (leNat m.payload = 2 → t.ports.stepHolder = .ptp ∧ t.ports.stepPort = p) ∧
      (leNat m.payload = 0 → t.ports.ptpPort ≠ some p)) ∧
  (∀ s m u x, Canonical s → Performs s m .dramClear u x →
    ∃ t, exec (.dramCountersClear m) s = .next t ∧ Replied t m Code.success 0 false [] ∧
      t.dram = { u.dram with corrected := 0, uncorrectable := 0, poisonReads := 0, layerCorrected := [] }) ∧
  (∀ s m u x, Canonical s → Performs s m .tallyClear u x →
    ∃ t, exec (.tallyCountersClear m) s = .next t ∧ Replied t m Code.success 0 false [] ∧
      t.hub = { u.hub with blocked := 0, lastBlocked := 0, ignored := 0, outOfRange := 0, watchFull := 0 }) ∧
  (∀ q ∈ [(Instr.ccMaintClean, 1), (Instr.ccMaintInvalidate, 2), (Instr.ccMaintCleanInvalidate, 3)], ∀ s m u x, Canonical s →
    Performs s m (.ccMaint q.2) u x →
    ∃ t, exec (q.1 m) s = .next t ∧ Replied t m Code.success 0 false [] ∧ t.clusters = u.clusters ∧ t.cores = u.cores ∧
      t.dram = u.dram ∧
      t.power.ccMaint = u.power.ccMaint ++ [{ op := q.2, l1 := (leNat m.payload).testBit 2, next := 0, owner := none }]) ∧
  (∀ s w, Canonical s → bit s.power.clocks 1 = true → (s.power.ccMaint.find? fun w => w.owner.isNone) = some w → w.next = 0 →
    (∀ k, (s.cluster k).evict.length ≤ 32) →
    ∃ t, exec .ccMaintComplete s = .next t ∧ t.power.ccMaint = s.power.ccMaint.erase w ∧
      (∀ k, k < 24 → (t.cluster k).evict = [] ∧ ∀ key, key < 65536 →
        (w.op = 1 → ((t.cluster k).way key).valid = ((s.cluster k).way key).valid ∧
          ((t.cluster k).way key).data = ((s.cluster k).way key).data ∧
          (((t.cluster k).way key).valid ≠ 0 → ((t.cluster k).way key).dirty = 0)) ∧
        (w.op ≠ 1 → ((t.cluster k).way key).valid = 0)) ∧
      (w.op ≠ 1 → w.l1 = true → ∀ k key, key < 16384 → (t.core k).l1Way key = L1Line.none)) ∧
  (∀ s m u x, Canonical s → Performs s m .peerSet u x → let n := leNat (m.payload.take 2)
    ∃ t, exec (.peerSet m) s = .next t ∧ Replied t m Code.success 0 false [] ∧ (∀ p, t.chan n p = Chan.fresh) ∧ (t.peer n).state = 0 ∧
      (t.peer n).entry = setFld (BitVec.ofNat 512 (leNat (m.payload.drop 2))) 2 2 0) ∧
  (∀ s m u x, Canonical s → Performs s m .planSet u x → let n := leNat (m.payload.take 1)
    ∃ t, exec (.planSet m) s = .next t ∧ Replied t m Code.success 0 false [] ∧
      (t.plan n).raw = BitVec.ofNat 1024 (leNat (m.payload.drop 1)) ∧ (t.plan n).running = false ∧ (t.plan n).step = 0 ∧
      (∀ i, i < 8 → (i ∈ (t.plan n).pools ↔ (t.plan n).kind = 1 ∧ ∃ k ∈ (t.plan n).peers, (u.peer k).mask.testBit i = true)) ∧
      (∀ i ∈ (t.plan n).pools, sget (fun _ => Holder.none) t.ports.staging i = .reduction) ∧ ∀ k, k ≠ n → t.plan k = u.plan k) ∧
  (∀ s m u x, Canonical s → Performs s m .planClear u x → let n := leNat m.payload
    ∃ t, exec (.planClear m) s = .next t ∧ Replied t m Code.success 0 false [] ∧ t.plan n = Plan.unused ∧
      (∀ y ∈ t.plans.staged, y.plan ≠ n) ∧ ∀ k, k ≠ n → t.plan k = u.plan k) ∧
  (∀ s m u x, Canonical s → Performs s m .keyRevoke u x →
    ∃ t, exec (.keyRevoke m) s = .next t ∧ Replied t m Code.success 0 false [] ∧
      t.sec = { u.sec with keyRevoked := setBit u.sec.keyRevoked (leNat m.payload) true }) ∧
  (∀ s m u x, Canonical s → Performs s m .fwCommit u x →
    ∃ t, exec (.fwCommit m) s = .next t ∧ Replied t m Code.success 0 false [] ∧
      t.sec = { u.sec with commit := some (m.session.toNat, m.tag) }) ∧
  (∀ s m u x, Canonical s → Performs s m .domainReset u x → let d := leNat m.payload
    ∃ t, exec (.domainReset m) s = .next t ∧ t.session m.session.toNat = u.session m.session.toNat ∧
      t.power.resets = u.power.resets ++ [⟨d, m.session.toNat, m.tag, decide (27 ≤ d)⟩] ∧
      (d < 27 → ∀ c, c / 16 + 3 = d → (t.core c).held = true) ∧ (27 ≤ d → bit t.power.clocks d = false)) ∧
  (∀ s m u x, Canonical s → Performs s m .powerDown u x →
    ∃ t, exec (.powerDown m) s = .next t ∧ t.power = { u.power with devState := .stopping }) ∧
  (∀ s m u x, Canonical s → Performs s m .warmReset u x → ∃ t, exec (.warmReset m) s = .next t ∧ WarmReset u t)

/-! ## Start-up, resets and pins (R309, R523, R531 to R538, R548 to R566, R576, R577, R593) -/

namespace Sys2Proof.Says

/-- Start-up has failed with a status: recovery mode, in which of the links only H0 comes up (R525, R566). -/
def Recovers (t : State) (st : Status) : Prop :=
  t.power.devState = .recovery ∧ t.power.startFail = st ∧ t.sec.fwImage = [] ∧ ∀ p, 1 ≤ p → p < 10 → (t.port p).linkState = 0

/-- Start-up step `k` has ended at the time that the state gives. -/
def StepEnded (s t : State) (k : Nat) : Prop :=
  t.power.step = k ∧ sget (fun _ => 0) t.power.stepDone k = (s.power.now - s.power.releaseAt) / 1000

/-- A cold reset: PORST_N low, only domain 0 clocked, nothing of DRAM kept, every register at its default but the fuses, the tamper
latch and the pages retired in the factory. -/
def ColdReset (s t : State) (lastTrip : Word) (powered : Bool) : Prop :=
  t.power = { Power.cold lastTrip s.power.ethRef (s.power.epoch + 1) with powered := powered } ∧
  t.sec.keyRevoked = s.sec.keyRevoked ∧ t.sec.keyDigests = s.sec.keyDigests ∧ t.sec.sealBroken = s.sec.sealBroken ∧ t.sec.presenceEnd = none ∧
  t.sec.flash = (if s.sec.commit.isSome then [] else s.sec.flash) ∧
  t.dram = Dram.lost (s.power.epoch + 1) s.dram.factoryRetired ∧ t.ctxs = [] ∧ t.desk = Desk.reset ∧ t.hub = SyncHub.reset ∧
  t.xlat = Xlat.reset ∧ t.folio = Folio.reset ∧ t.plans = Plans.reset ∧ t.clusters = [] ∧ t.cores = [] ∧ t.accesses = []

end Sys2Proof.Says

/-- R309, R370, R521 to R526, R549, R557, R564 to R566 and R590: PORST_N and the loss of power reset the device, and each start-up
step ends as its conditions say, in the next step or in recovery mode. -/
def Obligations.StartUp : Prop :=
  (∀ s, s.power.porstLow = false → ∃ t, exec .porstNAssert s = .next t ∧ ColdReset s t s.power.lastTrip true) ∧
  (∀ s, ∃ t, exec .powerLoss s = .next t ∧ ColdReset s t 0 false) ∧
  (∀ s flash, s.power.porstLow = true → ∃ t, exec (.porstNRelease flash) s = .next t ∧ t.power.porstLow = false ∧ t.power.step = 1 ∧
    t.power.now = 0 ∧ t.sec.flash = flash ∧ t.power.clocks = s.power.clocks ∧ t.dram = s.dram) ∧
  (∀ s e, Canonical s → startupRuns s = true →
    (s.power.step = 1 → e.ok = true → ∃ t, exec (.startupStepComplete e) s = .next t ∧ StepEnded s t 2 ∧ t.power.straps = e.straps ∧
      t.power.stoppedLow = false ∧ t.sec.sealBroken = !e.sealOk) ∧
    (s.power.step = 2 → ∃ t, exec (.startupStepComplete e) s = .next t ∧
      if e.ok then StepEnded s t 3 ∧ ∀ d, d < 27 → bit t.power.clocks d = true else Recovers t Code.fuseFailed) ∧
    (s.power.step = 3 → s.power.memReady = false → ∃ t, exec (.startupStepComplete e) s = .next t ∧
      if e.ok then StepEnded s t 4 else Recovers t Code.vaultFailed) ∧
    (s.power.step = 4 → ∃ t, exec (.startupStepComplete e) s = .next t ∧
      if e.ok then StepEnded s t 5 ∧ (∀ k, t.dram.data k = 0 ∧ t.dram.decode k = .clean) else Recovers t Code.vaultFailed) ∧
    (s.power.step = 5 ∨ s.power.step = 3 ∧ s.power.memReady = true → ∃ t, exec (.startupStepComplete e) s = .next t ∧
      let img := flashImage s.sec.flash
      if e.ok then (if verifyImage s.sec img = Code.success then StepEnded s t 6 ∧ t.sec.fwImage = img
        else Recovers t (verifyImage s.sec img)) else Recovers t Code.flashFailed) ∧
    (s.power.step = 6 → ∃ t, exec (.startupStepComplete e) s = .next t ∧ StepEnded s t 7 ∧
      ∀ p, p < 10 → (t.port p).linkState =
        if bit s.power.clocks (27 + p) && ((s.port p).linkState == 2 || linkRuns (s.port p).linkMode (e.partners.extractLsb' (3 * p) 3) != 0)
        then 2 else 0) ∧
    (s.power.step = 7 → ∃ t, exec (.startupStepComplete e) s = .next t ∧ StepEnded s t 8) ∧
    (s.power.step = 8 → s.desk.txns = [] → ∃ t, exec (.startupStepComplete e) s = .next t ∧ StepEnded s t 9 ∧
      t.power.devState = .running ∧ t.desk.steepNumber = 0 ∧ t.desk.steepStart = s.power.now ∧ (t.ctx 0).state = .live ∧
      (t.queue 0).state = .idle ∧ (t.queue 0).cls = .kernel ∧ (t.queue 0).ctx = 0 ∧ (t.queue 0).log2 = 10))

/-- R533 to R538, R548, R551, R555, R560 to R562, R576, R577 and R593: what the pins, the ends of resets, commits and the power-down, and
the reference clocks do. -/
def Obligations.ResetsAndPins : Prop :=
  (∀ s, Canonical s → warmIgnored s = false →
    (s.sec.commit = none → ∃ t, exec .warmrstNRise s = .next t ∧ WarmReset s t) ∧
    (s.sec.commit ≠ none → exec .warmrstNRise s = .next { s with power := { s.power with warmHeld := true } })) ∧
  (∀ s, Canonical s → s.power.devState = .stopping → s.power.clocks ≠ 1 → writesPending s = false →
    (∀ k, (s.cluster k).evict.length ≤ 32) →
    ∃ t, exec .powerDownComplete s = .next t ∧ t.power.clocks = 1 ∧ t.power.stoppedLow = true ∧ t.power.now = s.power.now ∧
      t.folio.run = none ∧ ∀ k, k < 24 → (t.cluster k).evict = [] ∧
        ∀ key, ((t.cluster k).way key).valid ≠ 0 → ((t.cluster k).way key).dirty = 0) ∧
  (∀ s d r, Canonical s → 3 ≤ d → d ≤ 36 → (s.power.resets.find? fun x => x.dom == d) = some r → bit s.power.clocks 1 = true →
    r.stopped = true → (d < 27 → domainIdle s d = true) →
    ∃ t, exec (.domainResetComplete d) s = .next t ∧ (∀ x ∈ t.power.resets, x.dom ≠ d) ∧
      (d < 27 → (t.cluster (d - 3)).lines = [] ∧ (t.cluster (d - 3)).evict = [] ∧ ∀ c, c / 16 + 3 = d → (t.core c).held = false) ∧
      (27 ≤ d → bit t.power.clocks d = bit s.power.ethRef (if d - 27 ∈ refPorts 0 then 0 else 1)) ∧
      (s.session r.session ≠ none → LastMsg t r.session
        (OutMsg.plain 0x21 Code.success r.tag (BitVec.ofNat 64 (0x1100 + 0x10 * 2 ^ 16 + 2 * 2 ^ 24))))) ∧
  (∀ s ok n tag, Canonical s → s.sec.commit = some (n, tag) → bit s.power.clocks 1 = true → s.power.warmHeld = false →
    s.power.devState = .running →
    let good := ok && verifyImage s.sec s.sec.fwStage == Code.success
    ∃ t, exec (.fwCommitComplete ok) s = .next t ∧ t.sec.commit = none ∧
      t.sec.flash = (if good then s.sec.fwStage ++ s.sec.flash.drop s.sec.fwStage.length else []) ∧
      (s.session n ≠ none → LastMsg t n (OutMsg.plain 5 (if good then Code.success else Code.flashFailed) tag 0))) ∧
  (∀ s, aonUp s = true →
    (s.sec.sealBroken = false → ∃ t, exec .presenceWindowOpen s = .next t ∧ presenceOpen t = true ∧
      t.sec.presenceEnd = some (s.power.now + 300000000000)) ∧
    (∀ e, s.sec.presenceEnd = some e → ∃ t, exec .presenceWindowClose s = .next t ∧ presenceOpen t = false ∧ t.sec.presenceEnd = none ∧
      t.power.now = Nat.max s.power.now e) ∧
    (∀ a b, ∃ t, exec (.sealPeriod a b) s = .next t ∧ t.sec.lfsr = Config.lfsrNext s.sec.lfsr ∧
      t.sec.mismatches = if a = bit t.sec.lfsr 0 ∧ b = !bit t.sec.lfsr 0 then 0 else s.sec.mismatches + 1) ∧
    (3 ≤ s.sec.mismatches → ∃ t, exec .sealBrokenLatch s = .next t ∧ t.sec.sealBroken = true ∧ presenceOpen t = false)) ∧
  (∀ s, (∃ t, exec (.jtagInstruction .bypass) s = .next t ∧ t.sec.jtagIr = .bypass) ∧
    (∃ t, exec (.jtagInstruction .idcode) s = .next t ∧ t.sec.jtagIr = .idcode) ∧
    (∀ code, s.sec.jtagUnlock ≠ 1 → ∃ t, exec (.jtagInstruction (.other code)) s = .next t ∧ t.sec.jtagIr = .bypass) ∧
    ∀ code, s.sec.jtagUnlock = 1 → exec (.jtagInstruction (.other code)) s = .refused (.jtagUnspecified code)) ∧
  (∀ s n, Canonical s → n < 2 →
    (∃ t, exec (.ethRefclkLoss n) s = .next t ∧ bit t.power.ethRef n = false ∧
      ∀ p ∈ refPorts n, bit t.power.clocks (27 + p) = false ∧ (t.port p).linkState = 0) ∧
    (bit s.power.ethRef n = false → bit s.power.clocks 1 = true →
      ∃ t, exec (.ethRefclkReturn n) s = .next t ∧ bit t.power.ethRef n = true ∧
        ∀ p ∈ refPorts n, bit t.power.clocks (27 + p) = true ∧ (t.port p).linkState = 1))

/-! ## The ports (R402 to R414, R424 to R432, R444 to R457) -/

namespace Sys2Proof.Says

/-- A packet on connection `c` of session `x` is accepted by a host port that is up: its VLAN is one of the port's, and a packet with
`ext` bytes of extension header is within MTU (R402, R405, R407). -/
structure RoceComes (s : State) (p : RocePacket) (ext : Nat) (c : Conn) (x : Session) : Prop where
  conn    : s.conn p.conn = some c
  session : s.session c.session = some x
  up      : portUp s p.port = true
  host    : p.port < 2
  fits    : admits s p.port p.vlan.toNat (roceBytes x.ip ext (Nat.min p.payload.length c.pmtu)) = true
  port    : x.port = p.port
  good    : c.error = false

/-- A request packet arrives in order. -/
structure RoceInOrder (s : State) (p : RocePacket) (ext : Nat) (c : Conn) (x : Session) : Prop extends RoceComes s p ext c x where
  running : s.power.devState = .running
  order   : p.psn = c.rxPsn

/-- A request packet has been performed: `y` is on the wire and the connection expects the packet behind it. -/
def RocePerformed (v t : State) (p : RocePacket) (c : Conn) (y : Sent) (n : Nat) : Prop :=
  given t = y :: given v ∧ t.dram = v.dram ∧ t.clusters = v.clusters ∧
  (t.conn p.conn).map (·.rxPsn) = some (c.rxPsn + BitVec.ofNat 24 (psnSpan c.pmtu n))

/-- The requests of a connection, by sequence number. -/
def requestsAre (t : State) (n : Nat) (rs : List RdmaReq) : Prop := ∃ d, t.conn n = some d ∧ d.reqs.map (·.psn) = rs.map (·.psn)

/-- The requests of a connection that were sent go on the wire again, counted as one retry. -/
def RoceResent (s t : State) (n : Nat) (c : Conn) : Prop :=
  t.conn n = some { c with retries := c.retries + 1 } ∧
  given t = ((c.reqs.filter (·.sent)).map fun r => Sent.rdma n r).reverse ++ given s

/-- The connection is in the error state and owes and expects nothing. -/
def ConnFailed (t : State) (n : Nat) : Prop := ∃ d, t.conn n = some d ∧ d.error = true ∧ d.reqs = []

end Sys2Proof.Says

/-- R409 to R414 and R353: a host's write, read and send in order are performed and answered, one out of order or without right is
refused, and the answers, refusals and time limits of the device's own requests complete, repeat or fail them; a packet marked
Congestion Experienced makes the device send a CNP, at most one per connection every 50 µs. `u` is the state after that. -/
def Obligations.RoceRequests : Prop :=
  (∀ s p c, Canonical s → roceHears s p = some c →
    let u := congested s p
    let due := p.marked && c.cnpSent.all fun t => decide (t + 50000 ≤ s.power.now)
    (due = true → u = { s with ports := u.ports } ∧ given u = .cnp p.conn :: given s ∧
      u.conn p.conn = some { c with cnpSent := some s.power.now }) ∧
    (due = false → u = s)) ∧
  (∀ s p c x, Canonical s → let u := congested s p
    (∀ v, RoceInOrder s p 16 c x → p.length = p.payload.length → keyOk s x p.rkey = true →
      virtWrite u (.port p.port) (keyCtx p.rkey) p.va.toNat p.payload hostMayUse = .ok v →
      ∃ t, exec (.rdmaWrite p) s = .next t ∧ RocePerformed v t p c (.roceAck p.conn (lastPsn p.psn c.pmtu p.payload.length)) p.payload.length) ∧
    (∀ g v, RoceInOrder s p 16 c x → p.payload = [] → keyOk s x p.rkey = true →
      virtRead u (.port p.port) (keyCtx p.rkey) p.va.toNat p.length hostMayUse = .ok (g, v) →
      ∃ t, exec (.rdmaRead p) s = .next t ∧ RocePerformed v t p c (.roceRead p.conn p.psn g.bytes) p.length) ∧
    (∀ q v, RoceInOrder s p 0 c x → c.bound = some q → p.payload.length % 64 = 0 → 64 ≤ p.payload.length → p.payload.length ≤ 4096 →
      submit u q p.payload x.tenant x.operator = .ok v →
      ∃ t, exec (.send p) s = .next t ∧ RocePerformed v t p c (.roceAck p.conn (lastPsn p.psn c.pmtu p.payload.length)) p.payload.length ∧
        t.desk = v.desk) ∧
    (RoceInOrder s p 16 c x → p.payload = [] → p.length = 0 → keyOk s x p.rkey = false → c.reqs = [] →
      ∀ d ∈ [Instr.rdmaWrite p, Instr.rdmaRead p], ∃ t, exec d s = .next t ∧ ConnFailed t p.conn ∧
        given t = .roceNak p.conn p.psn 2 :: given u ∧ t.dram = s.dram ∧
        (t.port p.port).nakSent = Nat.min ((s.port p.port).nakSent + 1) (2 ^ 64 - 1)) ∧
    (RoceInOrder s p 0 c x → c.bound = none → c.reqs = [] → ∃ t, exec (.send p) s = .next t ∧ ConnFailed t p.conn ∧ t.dram = s.dram ∧
      given t = .roceNak p.conn p.psn 3 :: given u)) ∧
  (∀ s p c x, Canonical s → s.power.devState = .running → p.psn ≠ c.rxPsn → (p.psn - c.rxPsn).toNat < 2 ^ 23 →
    let u := congested s p
    ∀ d ∈ [(Instr.rdmaWrite p, 16), (Instr.rdmaRead p, 16), (Instr.send p, 0)], RoceComes s p d.2 c x →
      ∃ t, exec d.1 s = .next t ∧ (t.conn p.conn).map (·.rxPsn) = some c.rxPsn ∧
        given t = .roceNak p.conn c.rxPsn 0 :: given u ∧ t.dram = s.dram) ∧
  (∀ s p c x, Canonical s → RoceComes s p 4 c x → let u := congested s p
    (let k := (ackedWrites c.pmtu p.psn c.reqs).length
     ∃ t, exec (.roceAck p) s = .next t ∧ requestsAre t p.conn (c.reqs.drop k) ∧
      ∀ r ∈ c.reqs.take k, ∀ id, r.use = .access id → t.access id = none) ∧
    (∀ r rest n y, c.reqs = r :: rest → r.write = false → r.sent = true → r.psn = p.psn → r.length = p.payload.length →
      r.use = .migration n → oget s.xlat.records n = some y →
      ∃ t, exec (.rdmaReadResponse p) s = .next t ∧ requestsAre t p.conn rest ∧
        oget t.xlat.records n = some { y with stage := .arrived p.payload }) ∧
    (p.syndrome = 0 → c.retries < 7 → ∃ t d, exec (.roceNak p) s = .next t ∧ u.conn p.conn = some d ∧ RoceResent u t p.conn d) ∧
    (p.syndrome ≠ 0 ∨ 7 ≤ c.retries → ∃ t, exec (.roceNak p) s = .next t ∧ ConnFailed t p.conn)) ∧
  (∀ s n c, Canonical s → s.conn n = some c →
    (bit s.power.clocks 1 = true → c.error = false → (∃ r ∈ c.reqs, r.sent = true) →
      (c.retries < 7 → ∃ t, exec (.roceRetryTimer n) s = .next t ∧ RoceResent s t n c) ∧
      (7 ≤ c.retries → ∃ t, exec (.connectionFailed n) s = .next t ∧ ConnFailed t n)) ∧
    (let r := Nat.min 65536 (c.rate + (65536 - c.rate) * (s.power.now - c.cnpAt) / 100000)
     ∀ x, s.session c.session = some x → portUp s x.port = true →
     ∃ t, exec (.cnp n) s = .next t ∧ t = { s with ports := t.ports } ∧ t.conn n = some { c with rate := r / 2, cnpAt := s.power.now }))

/-- R402 to R408, R415, R432, R433, R450 and R526: priority flow control, address resolution on a port's own address, which without
IP_ADDR is the link-local one of its MAC address, echoes, the precision time protocol, links and what leaves on one that comes up, and
the frames that a port discards. How a delay request-response gives the offset is the model's choice (LOG 145). -/
def Obligations.PortFrames : Prop :=
  (∀ s port mask quanta, Canonical s → portUp s port = true → ∃ t, exec (.pfcFrame port mask quanta) s = .next t ∧
    ∀ i, i < 8 → let w := pauseNs (s.port port).runMode (quanta.getD i 0)
      sget (fun _ => 0) (t.port port).paused i =
        if bit mask i then (if w = 0 then 0 else s.power.now + w) else sget (fun _ => 0) (s.port port).paused i) ∧
  (∀ s port prio w, Canonical s → sget (fun _ => 0) (s.port port).paused prio = w → w ≠ 0 →
    ∃ t, exec (.pfcPauseExpiry port prio) s = .next t ∧ sget (fun _ => 0) (t.port port).paused prio = 0 ∧
      t.power.now = Nat.max s.power.now w) ∧
  (∀ s a, Canonical s → portUp s a.port = true → admits s a.port a.vlan.toNat 0 = true →
    ∀ c ∈ [Instr.arp a, Instr.neighborDiscovery a],
    (a.request = true → ownIp s a.port = some a.targetIp → ∃ t, exec c s = .next t ∧
      given t = .neighbour a.port a.senderIp a.senderMac :: given s) ∧
    (a.request = true → ownIp s a.port ≠ some a.targetIp → exec c s = .next s) ∧
    (a.request = false → ∃ t rest, exec c s = .next t ∧ (t.port a.port).resolved = (a.senderIp, a.senderMac) :: rest ∧
      rest.length < 256 ∧ ∀ e ∈ rest, e ∈ (s.port a.port).resolved ∧ e.1 ≠ a.senderIp)) ∧
  (∀ s n, ((s.port n).ip ≠ 0 → ownIp s n = some (s.port n).ip) ∧
    ((s.port n).ip = 0 → n < 2 → ∃ ip, ownIp s n = some ip ∧ fld ip 64 64 = 0xFE80 * 2 ^ 48 ∧
      fld ip 40 24 = fld (Config.macAddr n) 24 24 ^^^ 0x020000 ∧ fld ip 24 16 = 0xFFFE ∧ fld ip 0 24 = fld (Config.macAddr n) 0 24)) ∧
  (∀ s e, portUp s e.port = true → admits s e.port e.vlan.toNat (ipHeader e.srcIp + 8 + e.payload.length) = true → e.request = true →
    ownIp s e.port = some e.targetIp →
    ∃ t, exec (.icmpEcho e) s = .next t ∧ given t = .echo e.port e.srcIp e.payload :: given s) ∧
  (∀ s port m, portUp s port = true → admits s port m.vlan.toNat 0 = true → port < 2 → s.ports.ptpPort = some port →
    (s.port port).ptpMode ≠ 0 →
    (∀ t1, m.kind = .sync (some t1) → ∃ t, exec (.ptpMessage port m) s = .next t ∧ given t = .delayReq port :: given s ∧
      t.ports.ptpSync = some { t1 := some t1, t2 := s.power.now, t3 := some s.power.now } ∧ t.power = s.power) ∧
    (m.kind = .sync none → ∃ t, exec (.ptpMessage port m) s = .next t ∧
      t.ports.ptpSync = some { t1 := none, t2 := s.power.now, t3 := none } ∧ t.power = s.power) ∧
    (∀ t1 y, m.kind = .followUp t1 → s.ports.ptpSync = some y → y.t1 = none → ∃ t, exec (.ptpMessage port m) s = .next t ∧
      given t = .delayReq port :: given s ∧ t.ports.ptpSync = some { t1 := some t1, t2 := y.t2, t3 := some s.power.now }) ∧
    (∀ t1 t2 t3 t4, m.kind = .delayResp t4 → s.ports.ptpSync = some { t1 := some t1, t2 := t2, t3 := some t3 } →
      let off : Int := (((t1 : Int) - t2) + ((t4 : Int) - t3)) / 2
      ∃ t, exec (.ptpMessage port m) s = .next t ∧ t.ports.ptpSync = none ∧
        if (s.port port).ptpMode = 2 ∧ 1000 < off.natAbs then t.power.now = ((s.power.now : Int) + off).toNat ∧ t.power.slew = 0
        else t.power.now = s.power.now ∧ t.power.slew = off)) ∧
  (∀ s port, Canonical s → portUp s port = true →
    (∀ k, (k = .foreign ∨ (∃ n, k = .tooLong n ∧ (s.port port).mtu < n) ∨ ∃ v, k = .wrongVlan v ∧ admits s port v.toNat 0 = false) →
      ∃ t, exec (.unsupportedFrame ⟨port, k⟩) s = .next t ∧
        (t.port port).rxDropped = Nat.min ((s.port port).rxDropped + 1) (2 ^ 64 - 1) ∧ t.ports.sent = s.ports.sent) ∧
    (2 ≤ port → ∃ t, exec (.unsupportedFrame ⟨port, .reductionUnknown⟩) s = .next t ∧
      t.plans = { s.plans with discarded := Nat.min (s.plans.discarded + 1) (2 ^ 64 - 1) }) ∧
    (∀ n tag x, port < 2 → s.session n.toNat = some x → x.port = port →
      ∃ t, exec (.unsupportedFrame ⟨port, .smtUnknown n tag⟩) s = .next t ∧ LastMsg t n.toNat (OutMsg.plain 5 Code.formatError tag 0))) ∧
  (∀ s port st partner, Canonical s → port < 10 → st ≤ 2 → bit s.power.clocks (27 + port) = true →
    let run := linkRuns (s.port port).linkMode partner
    st ≠ 2 ∨ run ≠ 0 →
    ∃ t, exec (.linkStateChange port ⟨st, partner⟩) s = .next t ∧ (t.port port).linkState = st ∧
      (t.port port).runMode = (if st = 2 then run else 0) ∧ (∀ k, (t.session k).isSome = (s.session k).isSome) ∧
      t.ports.conns = s.ports.conns ∧ (∀ k, k ≠ port → t.port k = s.port k) ∧
      ∀ x r mac, st = 2 → s.ports.held = [x] → routeOf s x = some r → r.port = port → r.bytes ≤ (s.port port).mtu →
        bit s.power.clocks 1 = true → (∀ p, r.prio = some p → sget (fun _ => 0) (s.port port).paused p = 0) →
        r.mac.or (resolvedMac s port (nextHop s port r.ip)) = some mac →
        ∃ w, t.ports.held = [] ∧ t.ports.wire = w :: s.ports.wire ∧ w.what = x ∧ w.port = port ∧ w.dstMac = mac ∧ w.prio = r.prio ∧
          w.vlan = if r.prio.isNone then 0 else (vlansOf s port).1)

namespace Sys2Proof.Says

/-- A sequenced Peer Transport frame is in order: what its type does is done in state `u`, which counts it, and one that its type
declines leaves what the type does of it in state `w`, which does not; `up` asks for an entry that is up. -/
structure Arrives (s : State) (p : PeerFrame) (up : Bool) (u w : State) : Prop where
  run     : ∀ refuse take declined v, take u = some v → peerTakes s p up refuse take declined = v
  back    : ∀ refuse take declined, take u = none → peerTakes s p up refuse take declined = declined w
  running : u.power.devState = .running

/-- A Peer Transport frame reaches its port, which is up and takes its VLAN and length, from a peer that is known. -/
structure FrameComes (s : State) (p : PeerFrame) : Prop where
  up    : portUp s (2 + p.port) = true
  fits  : admits s (2 + p.port) p.vlan.toNat (ownBytes p.srcIp p.payload.length) = true
  known : peerKnown s p = true

/-- The last frame that a channel has sent or holds back is `f`, but for its sequence number. -/
def LastFrame (t : State) (n port : Nat) (f : OutFrame) : Prop :=
  ∃ g, (t.chan n port).unacked.getLast? = some g ∧ { g with seq := f.seq } = f

/-- A peer's request has been answered: the answer echoes TAG, OPX and ADDR (LOG 45). -/
def Answers (t : State) (p : PeerFrame) (typ : Nat) (st : Status) (bytes : List Byte) (poison : List Bool) : Prop :=
  LastFrame t p.src.toNat p.port
    { typ := typ, seq := 0, tag := p.tag, opx := p.opx, addr := p.addr.toNat, length := bytes.length, status := st,
      context := p.context.toNat, tenant := p.tenant.toNat, dst := p.src.toNat, poison := poison, payload := bytes }

/-- An access whose answer arrives: one lane of a resident group. -/
structure Awaits (u : State) (p : PeerFrame) (a : Access) (c k : Nat) (g : Group) (x : LaneAcc) : Prop where
  tagged : taggedAccess u p = some a
  good   : p.status = Code.success
  clean  : ∀ b ∈ p.poison, b = false
  engine : a.engine = .group c k
  slot   : k < 64
  group  : u.group c k = some g
  launch : g.launch = a.launch
  lanes  : a.lanes = [x]
  lane   : x.lane < 32
  alone  : ∀ b ∈ u.accesses, b.sibling a = true → b = a

end Sys2Proof.Says

/-- R12, R301 and R424 to R430: a frame in order from a known peer is accepted, a peer's request is performed at its end point or
refused, one with a reserved header bit is refused with the format status, an answer completes the access that waits for it, and
keepalives, resends and their silence keep or lose the peer. -/
def Obligations.PeerFrames : Prop :=
  (∀ s p up, Canonical s → s.power.devState = .running → FrameComes s p → (s.peer p.src.toNat).state = 1 →
    p.seq.toNat = (s.chan p.src.toNat p.port).rxNext →
    (p.rsv = false → ∃ u w, Arrives s p up u w ∧ u = { s with ports := u.ports } ∧ w = { s with ports := w.ports } ∧
      (u.chan p.src.toNat p.port).rxNext = ((s.chan p.src.toNat p.port).rxNext + 1) % 2 ^ 32 ∧
      (w.chan p.src.toNat p.port).rxNext = (s.chan p.src.toNat p.port).rxNext) ∧
    (p.rsv = true → ∀ q ∈ [(Instr.peerWrite p, 6), (Instr.peerRead p, 3), (Instr.peerAtomic p, 5)],
      ∃ t, exec q.1 s = .next t ∧ Answers t p q.2 Code.formatError [] [] ∧ t.dram = s.dram ∧ t.clusters = s.clusters)) ∧
  (∀ s p u w, Canonical s → Canonical u → Arrives s p true u w →
    (∀ st, peerWriteAt u p = .error st → ∃ t, exec (.peerWrite p) s = .next t ∧ Answers t p 6 st [] [] ∧ t.dram = u.dram) ∧
    (∀ v, peerWriteAt u p = .ok v → ∃ t, exec (.peerWrite p) s = .next t ∧ Answers t p 6 Code.success [] [] ∧ t.dram = v.dram ∧
      t.clusters = v.clusters ∧ t.cores = v.cores) ∧
    (∀ st, p.length ≤ 4096 → peerCheck u p p.length false = some st →
      ∃ t, exec (.peerRead p) s = .next t ∧ Answers t p 3 st [] [] ∧ t.dram = u.dram) ∧
    (∀ g v, p.length ≤ 4096 → peerCheck u p p.length false = none →
      physRead u p.addr.toNat p.length p.tenant.toNat (bit p.opx 0) = .ok (g, v) →
      ∃ t, exec (.peerRead p) s = .next t ∧ Answers t p 3 Code.success g.bytes g.poison) ∧
    (let size := if bit p.opx 5 then 8 else 4
     let r := if bit (p.payload.getD 0 0) 7 then vaultGet u p.addr.toNat size else dramRead u p.addr.toNat size false
     (∀ st, peerCheck u p size true = some st → ∃ t, exec (.peerAtomic p) s = .next t ∧ Answers t p 5 st [] [] ∧ t.dram = u.dram) ∧
     (∀ x, peerCheck u p size true = none → r.1.bad = false → atomOperands p.payload size = [x] →
       ∃ t, exec (.peerAtomic p) s = .next t ∧ Answers t p 5 Code.success (leBytes size (leNat r.1.bytes)) [false]))) ∧
  (∀ s p u w a c k g x, Canonical s → Canonical u → Arrives s p false u w → Awaits u p a c k g x →
    (a.kind = .load → vDst a → a.dst.toNat % regsFor a.size = 0 → a.size ∈ [1, 2, 4, 8, 16] → ∃ t h, exec (.readResp p) s = .next t ∧
      t.group c k = some h ∧ InstrGone u t a ∧ h.pc = g.pc ∧
      h.run x.lane ⟨a.dst, regsFor a.size⟩ = extendLoad a (leNat (p.payload.take a.size)) % 2 ^ (32 * regsFor a.size)) ∧
    (∀ op ty, a.kind = .atomic op ty → vDst a → a.dst.toNat % regsFor a.size = 0 → a.size = 4 ∨ a.size = 8 →
      ∃ t h, exec (.atomicResp p) s = .next t ∧ t.group c k = some h ∧ InstrGone u t a ∧ h.pc = g.pc ∧
        h.run x.lane ⟨a.dst, regsFor a.size⟩ = leNat (p.payload.take a.size)) ∧
    (a.kind = .store → a.acq = false → ∃ t, exec (.writeAck p) s = .next t ∧ Gone u t a ∧ t.group c k = some g)) ∧
  (∀ s p, Canonical s → FrameComes s p → p.rsv = false → ∃ t, exec (.keepalive p) s = .next t ∧
    (t.chan p.src.toNat p.port).misses = 0 ∧ (t.chan p.src.toNat p.port).seen = true ∧ (t.chan p.src.toNat p.port).ever = true ∧
    (t.chan p.src.toNat p.port).rxNext = (s.chan p.src.toNat p.port).rxNext) ∧
  (∀ s n port, Canonical s → chanRuns s n port = true → let c := s.chan n port
    (portUp s (2 + port) = true → ∃ t, exec (.keepaliveTimer n port) s = .next t ∧ given t = .keepalive n port :: given s) ∧
    (∃ t, exec (.keepaliveCheck n port) s = .next t ∧
      t.chan n port = if c.seen then { c with seen := false } else { c with misses := c.misses + 1 }) ∧
    (∃ t, exec (.peerResendTimer n port) s = .next t ∧
      given t = ((c.unacked.take 1024).map fun f => Sent.peer n port f).reverse ++ given s) ∧
    (0 < c.owed → ∃ t, exec (.peerAckTimer n port) s = .next t ∧ given t = .keepalive n port :: given s ∧
      t.chan n port = { c with owed := 0 }) ∧
    (3 ≤ c.misses → (s.accesses.map (·.id)).Nodup → ∃ t, exec (.peerLost n) s = .next t ∧ (t.peer n).state = 2 ∧
      t.ports.peersLost = Nat.min (s.ports.peersLost + 1) (2 ^ 64 - 1) ∧
      ∀ a ∈ t.accesses, a.target = .remote n → ∀ y, a.stage ≠ .sent y))

/-- R441 to R444, R448, R450 and R453 to R457: the control block starts steps, a step's end is written to it, a reduction frame is
gathered, discarded, or by a full staging pool neither taken nor acknowledged, a re-shard write is performed in its step alone, ABORT
fails the step, and the Strainer sends K elements. A REDUCE for no plan is not acknowledged, which is the model's choice (LOG 146). -/
def Obligations.PlanEngines : Prop :=
  (∀ s n g v, Canonical s → (s.plan n).kind ≠ 0 → bit s.power.clocks 1 = true → (s.plan n).failed = false →
    planRead s (s.plan n).ctx (s.plan n).ctrl 8 = .ok (g, v) → let start := leNat (g.1.take 4)
    let ahead := (start + 2 ^ 32 - (s.plan n).step) % 2 ^ 32
    ∃ t, exec (.planControlPoll n) s = .next t ∧ (t.plan n).start = start ∧
      (ahead = 0 ∨ 2 ^ 31 < ahead → (s.plan n).running = false → t.plan n = { s.plan n with start := start }) ∧
      (0 < ahead → ahead ≤ 2 ^ 31 → (t.plan n).running = true ∨ (t.plan n).failed = true)) ∧
  (∀ s n v, Canonical s → stepDone s n = true → let p := s.plan n
    planWrite s p.ctx (p.ctrl + 4) (leBytes 4 ((p.step + 1) % 2 ^ 32)) (fun _ => false) = .ok v →
    ∃ t, exec (.planStepComplete n) s = .next t ∧ t.dram = v.dram ∧ t.clusters = v.clusters ∧ (t.plan n).running = false ∧
      (t.plan n).step = (p.step + 1) % 2 ^ 32 ∧ t.plans.done = Nat.min (s.plans.done + 1) (2 ^ 64 - 1)) ∧
  (∀ s p u w, Canonical s → Canonical u → Arrives s p false u w → let n := fld p.opx 0 6
    let x := u.plan n
    let Discards (c : Instr) : Prop := ∃ t, exec c s = .next t ∧ t.plans.discarded = Nat.min (u.plans.discarded + 1) (2 ^ 64 - 1) ∧
      t.plans.staged = u.plans.staged ∧ t.plans.plans = u.plans.plans
    (x.kind ≠ 0 → x.kind ≠ 1 → Discards (.reduce p)) ∧
    (x.kind = 0 → w.plans = u.plans → exec (.reduce p) s = .next w) ∧
    (x.kind = 1 → x.failed = false → p.src.toNat = x.prev → p.tenant.toNat = tenantOf u x.ctx → fld p.opx 6 2 ≠ 3 → fld p.context 2 8 = 0 →
      (stepAge x p.tag.toNat = .past → Discards (.reduce p)) ∧
      (stepAge x p.tag.toNat ≠ .past → w.plans = u.plans → 2 ^ 22 < poolUsed u p.port + p.payload.length →
        exec (.reduce p) s = .next { w with plans := { w.plans with drops := Nat.min (w.plans.drops + 1) (2 ^ 64 - 1) } }) ∧
      (stepAge x p.tag.toNat = .later → x.running = false → poolUsed u p.port + p.payload.length ≤ 2 ^ 22 →
        ∃ t y, exec (.reduce p) s = .next t ∧ y ∈ t.plans.staged ∧ y.plan = n ∧ y.step = p.tag.toNat ∧
          y.bucket = fld p.addr 0 43 / 4096 ∧ t.plans.plans = u.plans.plans)) ∧
    (x.kind = 0 → Discards (.abort p)) ∧
    (x.kind ≠ 0 → x.failed = false → stepAge x p.tag.toNat = .now → ∃ t, exec (.abort p) s = .next t ∧ (t.plan n).failed = true ∧
      (t.plan n).running = false ∧ (t.plan n).step = p.tag.toNat)) ∧
  (∀ s p u w, Canonical s → Canonical u → Arrives s p true u w → let n := fld p.opx 0 6
    let x := u.plan n
    x.kind = 2 → x.failed = false →
    (∀ v, stepAge x p.tag.toNat = .now → peerWriteAt u p = .ok v → ∃ t, exec (.reshardWrite p) s = .next t ∧ t.dram = v.dram ∧
      t.clusters = v.clusters ∧ (t.plan n).received = (v.plan n).received + p.payload.length ∧ Answers t p 6 Code.success [] []) ∧
    (stepAge x p.tag.toNat = .later → exec (.reshardWrite p) s = .next w) ∧
    (stepAge x p.tag.toNat = .past → ∃ t, exec (.reshardWrite p) s = .next t ∧ t.dram = u.dram ∧
      t.plans.discarded = Nat.min (u.plans.discarded + 1) (2 ^ 64 - 1))) ∧
  (∀ f k gs rs, gs.length = rs.length → k ≤ gs.length → (strainBucket f k gs rs).1.length = k ∧ (strainBucket f k gs rs).2.length = gs.length)

/-! ## The machine as a whole -/

/-- One step runs the command at the front of the queue on the state with the queue's rest; on an empty queue, with no offset
left to slew, one nanosecond passes, in which without a walk of the caches only the ports, the caches of the control cores and the
count of free values go on (LOG 3, the model's choice). -/
def Obligations.StepRunsFront : Prop :=
  (∀ c rest s, s.pending = c :: rest → step s = exec c { s with pending := rest }) ∧
  (∀ s, s.pending = [] → s.power.slew = 0 → ∃ t, step s = .next t ∧ t.pending = [] ∧ t.power.now = s.power.now + 1 ∧
    (s.power.ccMaint = [] →
      t = { s with power := { s.power with now := s.power.now + 1 }, ports := t.ports, ctl := t.ctl, fresh := t.fresh }))

/-- R490, R557 and R586: in cold reset the maps are canonical, domain 0 alone runs its clock, THERMTRIP_N is released, every tally
is free, every queue DISABLED and every context FREE; and every fixed-width entry that may be written reads its default. -/
def Obligations.ResetState : Prop :=
  Canonical State.reset ∧ State.reset.pending = [] ∧ State.reset.power.porstLow = true ∧ State.reset.power.thermtrip = false ∧
  (∀ i, i < 64 → bit State.reset.power.clocks i = decide (i = 0)) ∧
  (∀ n, State.reset.tally n = Tally.free ∧ (State.reset.queue n).state = .disabled ∧ (State.reset.ctx n).state = .free) ∧
  ∀ i sub e w, catEntry State.reset i sub = some e → e.acc = .rw ∨ e.acc = .rws ∨ e.acc = .rwp → typWidth e.typ = some w →
    leNat (catValue State.reset i e) = e.dflt

/-- Every command answers a next state and leaves the rest of the queue alone; VAULT_READ of an address outside DRAM and a JTAG
instruction whose action the spec does not give on an unlocked port are the only stops. -/
def Obligations.EveryCommandAnswers : Prop :=
  ∀ c s, (∃ t, exec c s = .next t ∧ t.pending = s.pending) ∨
    (∃ pa, c = .vaultRead pa ∧ dramEnd ≤ pa ∧ exec c s = .fault (.noSuchAddress pa)) ∨
    (∃ code, c = .jtagInstruction (.other code) ∧ s.sec.jtagUnlock = 1 ∧ exec c s = .refused (.jtagUnspecified code))

/-- R98 to R107: the word of a well-formed core instruction decodes to that instruction with every field at every value, and
every word is the word of the instruction that it decodes to. -/
def Obligations.DecodeAndEncodeAgree : Prop :=
  (∀ i w, i.wf = true → encodeWord i = some w → ∃ g, decodeWord g w = i) ∧
  (∀ g w, encodeWord (decodeWord g w) = some w ∧ (g.ok = true → (decodeWord g w).wf = true))

/-- DRAM and its stored check symbols keep their canonical form in every step. -/
def Obligations.MemoryStaysCanonical : Prop :=
  ∀ s t, Memory.wf s.dram → Memory.checksWf s.dram → step s = .next t → Memory.wf t.dram ∧ Memory.checksWf t.dram

/-- Every map of the machine keeps its canonical form in every step. -/
def Obligations.MapsStayCanonical : Prop :=
  ∀ s t, Canonical s → step s = .next t → Canonical t
end

