-- ==== Sys2Proof/Laws/Sparse.lean ====
section
/-! SUPPORT. Sparse maps: reading after writing, and the canonical form kept by every operation on them. -/

namespace Sys2Proof.Machine

variable {α : Type} [DecidableEq α] {d : Nat → α}

/-- Below the first key that a canonical map may list, it reads as its default. -/
theorem sget_of_lt {m : List (Nat × α)} {lo k : Nat} (h : swfFrom d lo m = true) (hk : k < lo) : sget d m k = d k := by
  cases m with
  | nil => rfl
  | cons e m =>
    obtain ⟨j, v⟩ := e
    simp only [swfFrom, Bool.and_eq_true, decide_eq_true_eq] at h
    have h1 : k ≠ j := by omega
    have h2 : k < j := by omega
    simp [sget, h1, h2]

/-- A canonical form from `lo` is one from any smaller bound. -/
theorem swfFrom_mono {m : List (Nat × α)} {lo lo' : Nat} (h : swfFrom d lo m = true) (hl : lo' ≤ lo) :
    swfFrom d lo' m = true := by
  cases m with
  | nil => rfl
  | cons e m =>
    simp only [swfFrom, Bool.and_eq_true, decide_eq_true_eq] at h ⊢
    exact ⟨⟨by omega, h.1.2⟩, h.2⟩

/-- Writing keeps the canonical form, from any bound that the key respects. -/
theorem swfFrom_sput {m : List (Nat × α)} {lo k : Nat} {v : α} (h : swfFrom d lo m = true) (hk : lo ≤ k) :
    swfFrom d lo (sput d m k v) = true := by
  induction m generalizing lo with
  | nil => by_cases hv : v = d k <;> simp [sput, swfFrom, hv, hk]
  | cons e m ih =>
    obtain ⟨j, w⟩ := e
    simp only [swfFrom, Bool.and_eq_true, decide_eq_true_eq] at h
    obtain ⟨⟨hj, hw⟩, hm⟩ := h
    unfold sput
    split
    · rename_i hkj
      split
      · simp [swfFrom, hj, hw, hm]
      · rename_i hv
        have : k + 1 ≤ j := hkj
        simp [swfFrom, hk, hv, hw, hm, this]
    · split
      · subst_vars
        split
        · exact swfFrom_mono hm (by omega)
        · rename_i hv; simp [swfFrom, hj, hv, hm]
      · simp only [swfFrom, Bool.and_eq_true, decide_eq_true_eq]
        exact ⟨⟨hj, hw⟩, ih hm (by omega)⟩

/-- Writing keeps the canonical form. -/
theorem swf_sput {m : List (Nat × α)} {k : Nat} {v : α} (h : swf d m = true) : swf d (sput d m k v) = true :=
  swfFrom_sput h (Nat.zero_le k)

/-- The empty map is canonical. -/
@[simp] theorem swf_nil : swf d ([] : List (Nat × α)) = true := rfl

theorem sget_sput_same_from {m : List (Nat × α)} {lo k : Nat} {v : α} (h : swfFrom d lo m = true) :
    sget d (sput d m k v) k = v := by
  induction m generalizing lo with
  | nil => by_cases hv : v = d k <;> simp [sput, sget, hv]
  | cons e m ih =>
    obtain ⟨j, w⟩ := e
    simp only [swfFrom, Bool.and_eq_true, decide_eq_true_eq] at h
    unfold sput
    split
    · rename_i hkj
      split
      · rename_i hv
        have : k ≠ j := by omega
        simp [sget, this, hkj, hv]
      · simp [sget]
    · split
      · subst_vars
        split
        · rename_i hv; rw [hv]; exact sget_of_lt h.2 (by omega)
        · simp [sget]
      · rename_i h1 h2; simp only [sget, h1, h2, if_false]; exact ih h.2

theorem sget_sput_ne_from {m : List (Nat × α)} {lo k i : Nat} {v : α} (h : swfFrom d lo m = true) (hi : i ≠ k) :
    sget d (sput d m k v) i = sget d m i := by
  induction m generalizing lo with
  | nil => by_cases hv : v = d k <;> simp [sput, sget, hv, hi]
  | cons e m ih =>
    obtain ⟨j, w⟩ := e
    simp only [swfFrom, Bool.and_eq_true, decide_eq_true_eq] at h
    unfold sput
    split
    · rename_i hkj
      split
      · rfl
      · simp only [sget, hi, if_false]
        by_cases hik : i < k
        · have h1 : i ≠ j := by omega
          have h2 : i < j := by omega
          simp [hik, h1, h2]
        · simp [hik]
    · split
      · subst_vars
        split
        · simp only [sget, hi, if_false]
          split
          · exact sget_of_lt h.2 (by omega)
          · rfl
        · simp [sget, hi]
      · simp only [sget]
        split
        · rfl
        · split
          · rfl
          · exact ih h.2

/-- Reading back what was written. -/
theorem sget_sput_same {m : List (Nat × α)} {k : Nat} {v : α} (h : swf d m = true) : sget d (sput d m k v) k = v :=
  sget_sput_same_from h

/-- A write leaves every other key alone. -/
theorem sget_sput_ne {m : List (Nat × α)} {k i : Nat} {v : α} (h : swf d m = true) (hi : i ≠ k) :
    sget d (sput d m k v) i = sget d m i := sget_sput_ne_from h hi

/-- Reading after a write, in one line. -/
theorem sget_sput {m : List (Nat × α)} {k i : Nat} {v : α} (h : swf d m = true) :
    sget d (sput d m k v) i = if i = k then v else sget d m i := by
  split
  · rename_i hi; rw [hi, sget_sput_same h]
  · rename_i hi; exact sget_sput_ne h hi

theorem swfFrom_filter {m : List (Nat × α)} {lo : Nat} (p : Nat × α → Bool) (h : swfFrom d lo m = true) :
    swfFrom d lo (m.filter p) = true := by
  induction m generalizing lo with
  | nil => rfl
  | cons e m ih =>
    simp only [swfFrom, Bool.and_eq_true, decide_eq_true_eq] at h
    by_cases hp : p e
    · simp only [List.filter_cons_of_pos hp, swfFrom, Bool.and_eq_true, decide_eq_true_eq]
      exact ⟨h.1, ih h.2⟩
    · rw [List.filter_cons_of_neg hp]
      exact swfFrom_mono (ih h.2) (by omega)

/-- Filtering keeps the canonical form. -/
theorem swf_sfilter {m : List (Nat × α)} (p : Nat → α → Bool) (h : swf d m = true) : swf d (sfilter p m) = true :=
  swfFrom_filter _ h

theorem swf_foldl_sput {β : Type} (l : List β) (key : β → Nat) (val : List (Nat × α) → β → α) {m : List (Nat × α)}
    (h : swf d m = true) : swf d (l.foldl (fun r e => sput d r (key e) (val r e)) m) = true := by
  induction l generalizing m with
  | nil => exact h
  | cons e l ih => exact ih (swf_sput h)

/-- Applying a function to every value gives a canonical map. -/
theorem swf_smap (f : Nat → α → α) (m : List (Nat × α)) : swf d (smap d f m) = true :=
  swf_foldl_sput m (·.1) (fun _ e => f e.1 e.2) rfl

/-- A map whose default is `none`: reading back what was written. -/
theorem oget_oput {β : Type} [DecidableEq β] {m : List (Nat × Option β)} {k i : Nat} {v : Option β}
    (h : swf (fun _ => none) m = true) : oget (oput m k v) i = if i = k then v else oget m i := sget_sput h

end Sys2Proof.Machine
end

