-- ==== Sys2Proof/Laws/State.lean ====
section
/-! SUPPORT. The accessors of State: what each update leaves alone, field by field, and what a member reads as after a write to
a canonical map. -/

namespace Sys2Proof.Machine

variable (s : State)

@[simp] theorem State.modCore_power (c : Nat) (f : Core → Core) : (s.modCore c f).power = s.power := rfl
@[simp] theorem State.modCore_sec (c : Nat) (f : Core → Core) : (s.modCore c f).sec = s.sec := rfl
@[simp] theorem State.modCore_dram (c : Nat) (f : Core → Core) : (s.modCore c f).dram = s.dram := rfl
@[simp] theorem State.modCore_clusters (c : Nat) (f : Core → Core) : (s.modCore c f).clusters = s.clusters := rfl
@[simp] theorem State.modCore_ctl (c : Nat) (f : Core → Core) : (s.modCore c f).ctl = s.ctl := rfl
@[simp] theorem State.modCore_accesses (c : Nat) (f : Core → Core) : (s.modCore c f).accesses = s.accesses := rfl
@[simp] theorem State.modCore_nextAcc (c : Nat) (f : Core → Core) : (s.modCore c f).nextAcc = s.nextAcc := rfl
@[simp] theorem State.modCore_hub (c : Nat) (f : Core → Core) : (s.modCore c f).hub = s.hub := rfl
@[simp] theorem State.modCore_xlat (c : Nat) (f : Core → Core) : (s.modCore c f).xlat = s.xlat := rfl
@[simp] theorem State.modCore_ctxs (c : Nat) (f : Core → Core) : (s.modCore c f).ctxs = s.ctxs := rfl
@[simp] theorem State.modCore_desk (c : Nat) (f : Core → Core) : (s.modCore c f).desk = s.desk := rfl
@[simp] theorem State.modCore_ports (c : Nat) (f : Core → Core) : (s.modCore c f).ports = s.ports := rfl
@[simp] theorem State.modCore_plans (c : Nat) (f : Core → Core) : (s.modCore c f).plans = s.plans := rfl
@[simp] theorem State.modCore_folio (c : Nat) (f : Core → Core) : (s.modCore c f).folio = s.folio := rfl
@[simp] theorem State.modCore_fresh (c : Nat) (f : Core → Core) : (s.modCore c f).fresh = s.fresh := rfl
@[simp] theorem State.modCore_pending (c : Nat) (f : Core → Core) : (s.modCore c f).pending = s.pending := rfl

@[simp] theorem State.modWork_power (c : Nat) (f : CoreWork → CoreWork) : (s.modWork c f).power = s.power := rfl
@[simp] theorem State.modWork_sec (c : Nat) (f : CoreWork → CoreWork) : (s.modWork c f).sec = s.sec := rfl
@[simp] theorem State.modWork_dram (c : Nat) (f : CoreWork → CoreWork) : (s.modWork c f).dram = s.dram := rfl
@[simp] theorem State.modWork_clusters (c : Nat) (f : CoreWork → CoreWork) : (s.modWork c f).clusters = s.clusters := rfl
@[simp] theorem State.modWork_ctl (c : Nat) (f : CoreWork → CoreWork) : (s.modWork c f).ctl = s.ctl := rfl
@[simp] theorem State.modWork_accesses (c : Nat) (f : CoreWork → CoreWork) : (s.modWork c f).accesses = s.accesses := rfl
@[simp] theorem State.modWork_nextAcc (c : Nat) (f : CoreWork → CoreWork) : (s.modWork c f).nextAcc = s.nextAcc := rfl
@[simp] theorem State.modWork_hub (c : Nat) (f : CoreWork → CoreWork) : (s.modWork c f).hub = s.hub := rfl
@[simp] theorem State.modWork_xlat (c : Nat) (f : CoreWork → CoreWork) : (s.modWork c f).xlat = s.xlat := rfl
@[simp] theorem State.modWork_ctxs (c : Nat) (f : CoreWork → CoreWork) : (s.modWork c f).ctxs = s.ctxs := rfl
@[simp] theorem State.modWork_desk (c : Nat) (f : CoreWork → CoreWork) : (s.modWork c f).desk = s.desk := rfl
@[simp] theorem State.modWork_ports (c : Nat) (f : CoreWork → CoreWork) : (s.modWork c f).ports = s.ports := rfl
@[simp] theorem State.modWork_plans (c : Nat) (f : CoreWork → CoreWork) : (s.modWork c f).plans = s.plans := rfl
@[simp] theorem State.modWork_folio (c : Nat) (f : CoreWork → CoreWork) : (s.modWork c f).folio = s.folio := rfl
@[simp] theorem State.modWork_fresh (c : Nat) (f : CoreWork → CoreWork) : (s.modWork c f).fresh = s.fresh := rfl
@[simp] theorem State.modWork_pending (c : Nat) (f : CoreWork → CoreWork) : (s.modWork c f).pending = s.pending := rfl

@[simp] theorem State.modCluster_power (n : Nat) (f : Cluster → Cluster) : (s.modCluster n f).power = s.power := rfl
@[simp] theorem State.modCluster_sec (n : Nat) (f : Cluster → Cluster) : (s.modCluster n f).sec = s.sec := rfl
@[simp] theorem State.modCluster_dram (n : Nat) (f : Cluster → Cluster) : (s.modCluster n f).dram = s.dram := rfl
@[simp] theorem State.modCluster_cores (n : Nat) (f : Cluster → Cluster) : (s.modCluster n f).cores = s.cores := rfl
@[simp] theorem State.modCluster_ctl (n : Nat) (f : Cluster → Cluster) : (s.modCluster n f).ctl = s.ctl := rfl
@[simp] theorem State.modCluster_accesses (n : Nat) (f : Cluster → Cluster) : (s.modCluster n f).accesses = s.accesses := rfl
@[simp] theorem State.modCluster_nextAcc (n : Nat) (f : Cluster → Cluster) : (s.modCluster n f).nextAcc = s.nextAcc := rfl
@[simp] theorem State.modCluster_hub (n : Nat) (f : Cluster → Cluster) : (s.modCluster n f).hub = s.hub := rfl
@[simp] theorem State.modCluster_xlat (n : Nat) (f : Cluster → Cluster) : (s.modCluster n f).xlat = s.xlat := rfl
@[simp] theorem State.modCluster_ctxs (n : Nat) (f : Cluster → Cluster) : (s.modCluster n f).ctxs = s.ctxs := rfl
@[simp] theorem State.modCluster_desk (n : Nat) (f : Cluster → Cluster) : (s.modCluster n f).desk = s.desk := rfl
@[simp] theorem State.modCluster_ports (n : Nat) (f : Cluster → Cluster) : (s.modCluster n f).ports = s.ports := rfl
@[simp] theorem State.modCluster_plans (n : Nat) (f : Cluster → Cluster) : (s.modCluster n f).plans = s.plans := rfl
@[simp] theorem State.modCluster_folio (n : Nat) (f : Cluster → Cluster) : (s.modCluster n f).folio = s.folio := rfl
@[simp] theorem State.modCluster_fresh (n : Nat) (f : Cluster → Cluster) : (s.modCluster n f).fresh = s.fresh := rfl
@[simp] theorem State.modCluster_pending (n : Nat) (f : Cluster → Cluster) : (s.modCluster n f).pending = s.pending := rfl

@[simp] theorem State.modCtl_power (n : Nat) (f : CtlCore → CtlCore) : (s.modCtl n f).power = s.power := rfl
@[simp] theorem State.modCtl_sec (n : Nat) (f : CtlCore → CtlCore) : (s.modCtl n f).sec = s.sec := rfl
@[simp] theorem State.modCtl_dram (n : Nat) (f : CtlCore → CtlCore) : (s.modCtl n f).dram = s.dram := rfl
@[simp] theorem State.modCtl_clusters (n : Nat) (f : CtlCore → CtlCore) : (s.modCtl n f).clusters = s.clusters := rfl
@[simp] theorem State.modCtl_cores (n : Nat) (f : CtlCore → CtlCore) : (s.modCtl n f).cores = s.cores := rfl
@[simp] theorem State.modCtl_accesses (n : Nat) (f : CtlCore → CtlCore) : (s.modCtl n f).accesses = s.accesses := rfl
@[simp] theorem State.modCtl_nextAcc (n : Nat) (f : CtlCore → CtlCore) : (s.modCtl n f).nextAcc = s.nextAcc := rfl
@[simp] theorem State.modCtl_hub (n : Nat) (f : CtlCore → CtlCore) : (s.modCtl n f).hub = s.hub := rfl
@[simp] theorem State.modCtl_xlat (n : Nat) (f : CtlCore → CtlCore) : (s.modCtl n f).xlat = s.xlat := rfl
@[simp] theorem State.modCtl_ctxs (n : Nat) (f : CtlCore → CtlCore) : (s.modCtl n f).ctxs = s.ctxs := rfl
@[simp] theorem State.modCtl_desk (n : Nat) (f : CtlCore → CtlCore) : (s.modCtl n f).desk = s.desk := rfl
@[simp] theorem State.modCtl_ports (n : Nat) (f : CtlCore → CtlCore) : (s.modCtl n f).ports = s.ports := rfl
@[simp] theorem State.modCtl_plans (n : Nat) (f : CtlCore → CtlCore) : (s.modCtl n f).plans = s.plans := rfl
@[simp] theorem State.modCtl_folio (n : Nat) (f : CtlCore → CtlCore) : (s.modCtl n f).folio = s.folio := rfl
@[simp] theorem State.modCtl_fresh (n : Nat) (f : CtlCore → CtlCore) : (s.modCtl n f).fresh = s.fresh := rfl
@[simp] theorem State.modCtl_pending (n : Nat) (f : CtlCore → CtlCore) : (s.modCtl n f).pending = s.pending := rfl

@[simp] theorem State.modCtx_power (n : Nat) (f : Ctx → Ctx) : (s.modCtx n f).power = s.power := rfl
@[simp] theorem State.modCtx_sec (n : Nat) (f : Ctx → Ctx) : (s.modCtx n f).sec = s.sec := rfl
@[simp] theorem State.modCtx_dram (n : Nat) (f : Ctx → Ctx) : (s.modCtx n f).dram = s.dram := rfl
@[simp] theorem State.modCtx_clusters (n : Nat) (f : Ctx → Ctx) : (s.modCtx n f).clusters = s.clusters := rfl
@[simp] theorem State.modCtx_cores (n : Nat) (f : Ctx → Ctx) : (s.modCtx n f).cores = s.cores := rfl
@[simp] theorem State.modCtx_ctl (n : Nat) (f : Ctx → Ctx) : (s.modCtx n f).ctl = s.ctl := rfl
@[simp] theorem State.modCtx_accesses (n : Nat) (f : Ctx → Ctx) : (s.modCtx n f).accesses = s.accesses := rfl
@[simp] theorem State.modCtx_nextAcc (n : Nat) (f : Ctx → Ctx) : (s.modCtx n f).nextAcc = s.nextAcc := rfl
@[simp] theorem State.modCtx_hub (n : Nat) (f : Ctx → Ctx) : (s.modCtx n f).hub = s.hub := rfl
@[simp] theorem State.modCtx_xlat (n : Nat) (f : Ctx → Ctx) : (s.modCtx n f).xlat = s.xlat := rfl
@[simp] theorem State.modCtx_desk (n : Nat) (f : Ctx → Ctx) : (s.modCtx n f).desk = s.desk := rfl
@[simp] theorem State.modCtx_ports (n : Nat) (f : Ctx → Ctx) : (s.modCtx n f).ports = s.ports := rfl
@[simp] theorem State.modCtx_plans (n : Nat) (f : Ctx → Ctx) : (s.modCtx n f).plans = s.plans := rfl
@[simp] theorem State.modCtx_folio (n : Nat) (f : Ctx → Ctx) : (s.modCtx n f).folio = s.folio := rfl
@[simp] theorem State.modCtx_fresh (n : Nat) (f : Ctx → Ctx) : (s.modCtx n f).fresh = s.fresh := rfl
@[simp] theorem State.modCtx_pending (n : Nat) (f : Ctx → Ctx) : (s.modCtx n f).pending = s.pending := rfl

@[simp] theorem State.modQueue_power (n : Nat) (f : Queue → Queue) : (s.modQueue n f).power = s.power := rfl
@[simp] theorem State.modQueue_sec (n : Nat) (f : Queue → Queue) : (s.modQueue n f).sec = s.sec := rfl
@[simp] theorem State.modQueue_dram (n : Nat) (f : Queue → Queue) : (s.modQueue n f).dram = s.dram := rfl
@[simp] theorem State.modQueue_clusters (n : Nat) (f : Queue → Queue) : (s.modQueue n f).clusters = s.clusters := rfl
@[simp] theorem State.modQueue_cores (n : Nat) (f : Queue → Queue) : (s.modQueue n f).cores = s.cores := rfl
@[simp] theorem State.modQueue_ctl (n : Nat) (f : Queue → Queue) : (s.modQueue n f).ctl = s.ctl := rfl
@[simp] theorem State.modQueue_accesses (n : Nat) (f : Queue → Queue) : (s.modQueue n f).accesses = s.accesses := rfl
@[simp] theorem State.modQueue_nextAcc (n : Nat) (f : Queue → Queue) : (s.modQueue n f).nextAcc = s.nextAcc := rfl
@[simp] theorem State.modQueue_hub (n : Nat) (f : Queue → Queue) : (s.modQueue n f).hub = s.hub := rfl
@[simp] theorem State.modQueue_xlat (n : Nat) (f : Queue → Queue) : (s.modQueue n f).xlat = s.xlat := rfl
@[simp] theorem State.modQueue_ctxs (n : Nat) (f : Queue → Queue) : (s.modQueue n f).ctxs = s.ctxs := rfl
@[simp] theorem State.modQueue_ports (n : Nat) (f : Queue → Queue) : (s.modQueue n f).ports = s.ports := rfl
@[simp] theorem State.modQueue_plans (n : Nat) (f : Queue → Queue) : (s.modQueue n f).plans = s.plans := rfl
@[simp] theorem State.modQueue_folio (n : Nat) (f : Queue → Queue) : (s.modQueue n f).folio = s.folio := rfl
@[simp] theorem State.modQueue_fresh (n : Nat) (f : Queue → Queue) : (s.modQueue n f).fresh = s.fresh := rfl
@[simp] theorem State.modQueue_pending (n : Nat) (f : Queue → Queue) : (s.modQueue n f).pending = s.pending := rfl

@[simp] theorem State.modSlot_power (n : Nat) (f : Slot → Slot) : (s.modSlot n f).power = s.power := rfl
@[simp] theorem State.modSlot_sec (n : Nat) (f : Slot → Slot) : (s.modSlot n f).sec = s.sec := rfl
@[simp] theorem State.modSlot_dram (n : Nat) (f : Slot → Slot) : (s.modSlot n f).dram = s.dram := rfl
@[simp] theorem State.modSlot_clusters (n : Nat) (f : Slot → Slot) : (s.modSlot n f).clusters = s.clusters := rfl
@[simp] theorem State.modSlot_cores (n : Nat) (f : Slot → Slot) : (s.modSlot n f).cores = s.cores := rfl
@[simp] theorem State.modSlot_ctl (n : Nat) (f : Slot → Slot) : (s.modSlot n f).ctl = s.ctl := rfl
@[simp] theorem State.modSlot_accesses (n : Nat) (f : Slot → Slot) : (s.modSlot n f).accesses = s.accesses := rfl
@[simp] theorem State.modSlot_nextAcc (n : Nat) (f : Slot → Slot) : (s.modSlot n f).nextAcc = s.nextAcc := rfl
@[simp] theorem State.modSlot_hub (n : Nat) (f : Slot → Slot) : (s.modSlot n f).hub = s.hub := rfl
@[simp] theorem State.modSlot_xlat (n : Nat) (f : Slot → Slot) : (s.modSlot n f).xlat = s.xlat := rfl
@[simp] theorem State.modSlot_ctxs (n : Nat) (f : Slot → Slot) : (s.modSlot n f).ctxs = s.ctxs := rfl
@[simp] theorem State.modSlot_ports (n : Nat) (f : Slot → Slot) : (s.modSlot n f).ports = s.ports := rfl
@[simp] theorem State.modSlot_plans (n : Nat) (f : Slot → Slot) : (s.modSlot n f).plans = s.plans := rfl
@[simp] theorem State.modSlot_folio (n : Nat) (f : Slot → Slot) : (s.modSlot n f).folio = s.folio := rfl
@[simp] theorem State.modSlot_fresh (n : Nat) (f : Slot → Slot) : (s.modSlot n f).fresh = s.fresh := rfl
@[simp] theorem State.modSlot_pending (n : Nat) (f : Slot → Slot) : (s.modSlot n f).pending = s.pending := rfl

@[simp] theorem State.modTally_power (n : Nat) (f : Tally → Tally) : (s.modTally n f).power = s.power := rfl
@[simp] theorem State.modTally_sec (n : Nat) (f : Tally → Tally) : (s.modTally n f).sec = s.sec := rfl
@[simp] theorem State.modTally_dram (n : Nat) (f : Tally → Tally) : (s.modTally n f).dram = s.dram := rfl
@[simp] theorem State.modTally_clusters (n : Nat) (f : Tally → Tally) : (s.modTally n f).clusters = s.clusters := rfl
@[simp] theorem State.modTally_cores (n : Nat) (f : Tally → Tally) : (s.modTally n f).cores = s.cores := rfl
@[simp] theorem State.modTally_ctl (n : Nat) (f : Tally → Tally) : (s.modTally n f).ctl = s.ctl := rfl
@[simp] theorem State.modTally_accesses (n : Nat) (f : Tally → Tally) : (s.modTally n f).accesses = s.accesses := rfl
@[simp] theorem State.modTally_nextAcc (n : Nat) (f : Tally → Tally) : (s.modTally n f).nextAcc = s.nextAcc := rfl
@[simp] theorem State.modTally_xlat (n : Nat) (f : Tally → Tally) : (s.modTally n f).xlat = s.xlat := rfl
@[simp] theorem State.modTally_ctxs (n : Nat) (f : Tally → Tally) : (s.modTally n f).ctxs = s.ctxs := rfl
@[simp] theorem State.modTally_desk (n : Nat) (f : Tally → Tally) : (s.modTally n f).desk = s.desk := rfl
@[simp] theorem State.modTally_ports (n : Nat) (f : Tally → Tally) : (s.modTally n f).ports = s.ports := rfl
@[simp] theorem State.modTally_plans (n : Nat) (f : Tally → Tally) : (s.modTally n f).plans = s.plans := rfl
@[simp] theorem State.modTally_folio (n : Nat) (f : Tally → Tally) : (s.modTally n f).folio = s.folio := rfl
@[simp] theorem State.modTally_fresh (n : Nat) (f : Tally → Tally) : (s.modTally n f).fresh = s.fresh := rfl
@[simp] theorem State.modTally_pending (n : Nat) (f : Tally → Tally) : (s.modTally n f).pending = s.pending := rfl

@[simp] theorem State.modPort_power (n : Nat) (f : Port → Port) : (s.modPort n f).power = s.power := rfl
@[simp] theorem State.modPort_sec (n : Nat) (f : Port → Port) : (s.modPort n f).sec = s.sec := rfl
@[simp] theorem State.modPort_dram (n : Nat) (f : Port → Port) : (s.modPort n f).dram = s.dram := rfl
@[simp] theorem State.modPort_clusters (n : Nat) (f : Port → Port) : (s.modPort n f).clusters = s.clusters := rfl
@[simp] theorem State.modPort_cores (n : Nat) (f : Port → Port) : (s.modPort n f).cores = s.cores := rfl
@[simp] theorem State.modPort_ctl (n : Nat) (f : Port → Port) : (s.modPort n f).ctl = s.ctl := rfl
@[simp] theorem State.modPort_accesses (n : Nat) (f : Port → Port) : (s.modPort n f).accesses = s.accesses := rfl
@[simp] theorem State.modPort_nextAcc (n : Nat) (f : Port → Port) : (s.modPort n f).nextAcc = s.nextAcc := rfl
@[simp] theorem State.modPort_hub (n : Nat) (f : Port → Port) : (s.modPort n f).hub = s.hub := rfl
@[simp] theorem State.modPort_xlat (n : Nat) (f : Port → Port) : (s.modPort n f).xlat = s.xlat := rfl
@[simp] theorem State.modPort_ctxs (n : Nat) (f : Port → Port) : (s.modPort n f).ctxs = s.ctxs := rfl
@[simp] theorem State.modPort_desk (n : Nat) (f : Port → Port) : (s.modPort n f).desk = s.desk := rfl
@[simp] theorem State.modPort_plans (n : Nat) (f : Port → Port) : (s.modPort n f).plans = s.plans := rfl
@[simp] theorem State.modPort_folio (n : Nat) (f : Port → Port) : (s.modPort n f).folio = s.folio := rfl
@[simp] theorem State.modPort_fresh (n : Nat) (f : Port → Port) : (s.modPort n f).fresh = s.fresh := rfl
@[simp] theorem State.modPort_pending (n : Nat) (f : Port → Port) : (s.modPort n f).pending = s.pending := rfl

@[simp] theorem State.setSession_power (n : Nat) (v : Option Session) : (s.setSession n v).power = s.power := rfl
@[simp] theorem State.setSession_sec (n : Nat) (v : Option Session) : (s.setSession n v).sec = s.sec := rfl
@[simp] theorem State.setSession_dram (n : Nat) (v : Option Session) : (s.setSession n v).dram = s.dram := rfl
@[simp] theorem State.setSession_clusters (n : Nat) (v : Option Session) : (s.setSession n v).clusters = s.clusters := rfl
@[simp] theorem State.setSession_cores (n : Nat) (v : Option Session) : (s.setSession n v).cores = s.cores := rfl
@[simp] theorem State.setSession_ctl (n : Nat) (v : Option Session) : (s.setSession n v).ctl = s.ctl := rfl
@[simp] theorem State.setSession_accesses (n : Nat) (v : Option Session) : (s.setSession n v).accesses = s.accesses := rfl
@[simp] theorem State.setSession_nextAcc (n : Nat) (v : Option Session) : (s.setSession n v).nextAcc = s.nextAcc := rfl
@[simp] theorem State.setSession_hub (n : Nat) (v : Option Session) : (s.setSession n v).hub = s.hub := rfl
@[simp] theorem State.setSession_xlat (n : Nat) (v : Option Session) : (s.setSession n v).xlat = s.xlat := rfl
@[simp] theorem State.setSession_ctxs (n : Nat) (v : Option Session) : (s.setSession n v).ctxs = s.ctxs := rfl
@[simp] theorem State.setSession_desk (n : Nat) (v : Option Session) : (s.setSession n v).desk = s.desk := rfl
@[simp] theorem State.setSession_plans (n : Nat) (v : Option Session) : (s.setSession n v).plans = s.plans := rfl
@[simp] theorem State.setSession_folio (n : Nat) (v : Option Session) : (s.setSession n v).folio = s.folio := rfl
@[simp] theorem State.setSession_fresh (n : Nat) (v : Option Session) : (s.setSession n v).fresh = s.fresh := rfl
@[simp] theorem State.setSession_pending (n : Nat) (v : Option Session) : (s.setSession n v).pending = s.pending := rfl

@[simp] theorem State.setConn_power (n : Nat) (v : Option Conn) : (s.setConn n v).power = s.power := rfl
@[simp] theorem State.setConn_sec (n : Nat) (v : Option Conn) : (s.setConn n v).sec = s.sec := rfl
@[simp] theorem State.setConn_dram (n : Nat) (v : Option Conn) : (s.setConn n v).dram = s.dram := rfl
@[simp] theorem State.setConn_clusters (n : Nat) (v : Option Conn) : (s.setConn n v).clusters = s.clusters := rfl
@[simp] theorem State.setConn_cores (n : Nat) (v : Option Conn) : (s.setConn n v).cores = s.cores := rfl
@[simp] theorem State.setConn_ctl (n : Nat) (v : Option Conn) : (s.setConn n v).ctl = s.ctl := rfl
@[simp] theorem State.setConn_accesses (n : Nat) (v : Option Conn) : (s.setConn n v).accesses = s.accesses := rfl
@[simp] theorem State.setConn_nextAcc (n : Nat) (v : Option Conn) : (s.setConn n v).nextAcc = s.nextAcc := rfl
@[simp] theorem State.setConn_hub (n : Nat) (v : Option Conn) : (s.setConn n v).hub = s.hub := rfl
@[simp] theorem State.setConn_xlat (n : Nat) (v : Option Conn) : (s.setConn n v).xlat = s.xlat := rfl
@[simp] theorem State.setConn_ctxs (n : Nat) (v : Option Conn) : (s.setConn n v).ctxs = s.ctxs := rfl
@[simp] theorem State.setConn_desk (n : Nat) (v : Option Conn) : (s.setConn n v).desk = s.desk := rfl
@[simp] theorem State.setConn_plans (n : Nat) (v : Option Conn) : (s.setConn n v).plans = s.plans := rfl
@[simp] theorem State.setConn_folio (n : Nat) (v : Option Conn) : (s.setConn n v).folio = s.folio := rfl
@[simp] theorem State.setConn_fresh (n : Nat) (v : Option Conn) : (s.setConn n v).fresh = s.fresh := rfl
@[simp] theorem State.setConn_pending (n : Nat) (v : Option Conn) : (s.setConn n v).pending = s.pending := rfl

@[simp] theorem State.modPeer_power (n : Nat) (f : Peer → Peer) : (s.modPeer n f).power = s.power := rfl
@[simp] theorem State.modPeer_sec (n : Nat) (f : Peer → Peer) : (s.modPeer n f).sec = s.sec := rfl
@[simp] theorem State.modPeer_dram (n : Nat) (f : Peer → Peer) : (s.modPeer n f).dram = s.dram := rfl
@[simp] theorem State.modPeer_clusters (n : Nat) (f : Peer → Peer) : (s.modPeer n f).clusters = s.clusters := rfl
@[simp] theorem State.modPeer_cores (n : Nat) (f : Peer → Peer) : (s.modPeer n f).cores = s.cores := rfl
@[simp] theorem State.modPeer_ctl (n : Nat) (f : Peer → Peer) : (s.modPeer n f).ctl = s.ctl := rfl
@[simp] theorem State.modPeer_accesses (n : Nat) (f : Peer → Peer) : (s.modPeer n f).accesses = s.accesses := rfl
@[simp] theorem State.modPeer_nextAcc (n : Nat) (f : Peer → Peer) : (s.modPeer n f).nextAcc = s.nextAcc := rfl
@[simp] theorem State.modPeer_hub (n : Nat) (f : Peer → Peer) : (s.modPeer n f).hub = s.hub := rfl
@[simp] theorem State.modPeer_xlat (n : Nat) (f : Peer → Peer) : (s.modPeer n f).xlat = s.xlat := rfl
@[simp] theorem State.modPeer_ctxs (n : Nat) (f : Peer → Peer) : (s.modPeer n f).ctxs = s.ctxs := rfl
@[simp] theorem State.modPeer_desk (n : Nat) (f : Peer → Peer) : (s.modPeer n f).desk = s.desk := rfl
@[simp] theorem State.modPeer_plans (n : Nat) (f : Peer → Peer) : (s.modPeer n f).plans = s.plans := rfl
@[simp] theorem State.modPeer_folio (n : Nat) (f : Peer → Peer) : (s.modPeer n f).folio = s.folio := rfl
@[simp] theorem State.modPeer_fresh (n : Nat) (f : Peer → Peer) : (s.modPeer n f).fresh = s.fresh := rfl
@[simp] theorem State.modPeer_pending (n : Nat) (f : Peer → Peer) : (s.modPeer n f).pending = s.pending := rfl

@[simp] theorem State.modChan_power (n p : Nat) (f : Chan → Chan) : (s.modChan n p f).power = s.power := rfl
@[simp] theorem State.modChan_sec (n p : Nat) (f : Chan → Chan) : (s.modChan n p f).sec = s.sec := rfl
@[simp] theorem State.modChan_dram (n p : Nat) (f : Chan → Chan) : (s.modChan n p f).dram = s.dram := rfl
@[simp] theorem State.modChan_clusters (n p : Nat) (f : Chan → Chan) : (s.modChan n p f).clusters = s.clusters := rfl
@[simp] theorem State.modChan_cores (n p : Nat) (f : Chan → Chan) : (s.modChan n p f).cores = s.cores := rfl
@[simp] theorem State.modChan_ctl (n p : Nat) (f : Chan → Chan) : (s.modChan n p f).ctl = s.ctl := rfl
@[simp] theorem State.modChan_accesses (n p : Nat) (f : Chan → Chan) : (s.modChan n p f).accesses = s.accesses := rfl
@[simp] theorem State.modChan_nextAcc (n p : Nat) (f : Chan → Chan) : (s.modChan n p f).nextAcc = s.nextAcc := rfl
@[simp] theorem State.modChan_hub (n p : Nat) (f : Chan → Chan) : (s.modChan n p f).hub = s.hub := rfl
@[simp] theorem State.modChan_xlat (n p : Nat) (f : Chan → Chan) : (s.modChan n p f).xlat = s.xlat := rfl
@[simp] theorem State.modChan_ctxs (n p : Nat) (f : Chan → Chan) : (s.modChan n p f).ctxs = s.ctxs := rfl
@[simp] theorem State.modChan_desk (n p : Nat) (f : Chan → Chan) : (s.modChan n p f).desk = s.desk := rfl
@[simp] theorem State.modChan_plans (n p : Nat) (f : Chan → Chan) : (s.modChan n p f).plans = s.plans := rfl
@[simp] theorem State.modChan_folio (n p : Nat) (f : Chan → Chan) : (s.modChan n p f).folio = s.folio := rfl
@[simp] theorem State.modChan_fresh (n p : Nat) (f : Chan → Chan) : (s.modChan n p f).fresh = s.fresh := rfl
@[simp] theorem State.modChan_pending (n p : Nat) (f : Chan → Chan) : (s.modChan n p f).pending = s.pending := rfl

@[simp] theorem State.modPlan_power (n : Nat) (f : Plan → Plan) : (s.modPlan n f).power = s.power := rfl
@[simp] theorem State.modPlan_sec (n : Nat) (f : Plan → Plan) : (s.modPlan n f).sec = s.sec := rfl
@[simp] theorem State.modPlan_dram (n : Nat) (f : Plan → Plan) : (s.modPlan n f).dram = s.dram := rfl
@[simp] theorem State.modPlan_clusters (n : Nat) (f : Plan → Plan) : (s.modPlan n f).clusters = s.clusters := rfl
@[simp] theorem State.modPlan_cores (n : Nat) (f : Plan → Plan) : (s.modPlan n f).cores = s.cores := rfl
@[simp] theorem State.modPlan_ctl (n : Nat) (f : Plan → Plan) : (s.modPlan n f).ctl = s.ctl := rfl
@[simp] theorem State.modPlan_accesses (n : Nat) (f : Plan → Plan) : (s.modPlan n f).accesses = s.accesses := rfl
@[simp] theorem State.modPlan_nextAcc (n : Nat) (f : Plan → Plan) : (s.modPlan n f).nextAcc = s.nextAcc := rfl
@[simp] theorem State.modPlan_hub (n : Nat) (f : Plan → Plan) : (s.modPlan n f).hub = s.hub := rfl
@[simp] theorem State.modPlan_xlat (n : Nat) (f : Plan → Plan) : (s.modPlan n f).xlat = s.xlat := rfl
@[simp] theorem State.modPlan_ctxs (n : Nat) (f : Plan → Plan) : (s.modPlan n f).ctxs = s.ctxs := rfl
@[simp] theorem State.modPlan_desk (n : Nat) (f : Plan → Plan) : (s.modPlan n f).desk = s.desk := rfl
@[simp] theorem State.modPlan_ports (n : Nat) (f : Plan → Plan) : (s.modPlan n f).ports = s.ports := rfl
@[simp] theorem State.modPlan_folio (n : Nat) (f : Plan → Plan) : (s.modPlan n f).folio = s.folio := rfl
@[simp] theorem State.modPlan_fresh (n : Nat) (f : Plan → Plan) : (s.modPlan n f).fresh = s.fresh := rfl
@[simp] theorem State.modPlan_pending (n : Nat) (f : Plan → Plan) : (s.modPlan n f).pending = s.pending := rfl

@[simp] theorem State.setLaunch_power (n : Nat) (v : Option Launch) : (s.setLaunch n v).power = s.power := rfl
@[simp] theorem State.setLaunch_sec (n : Nat) (v : Option Launch) : (s.setLaunch n v).sec = s.sec := rfl
@[simp] theorem State.setLaunch_dram (n : Nat) (v : Option Launch) : (s.setLaunch n v).dram = s.dram := rfl
@[simp] theorem State.setLaunch_clusters (n : Nat) (v : Option Launch) : (s.setLaunch n v).clusters = s.clusters := rfl
@[simp] theorem State.setLaunch_cores (n : Nat) (v : Option Launch) : (s.setLaunch n v).cores = s.cores := rfl
@[simp] theorem State.setLaunch_ctl (n : Nat) (v : Option Launch) : (s.setLaunch n v).ctl = s.ctl := rfl
@[simp] theorem State.setLaunch_accesses (n : Nat) (v : Option Launch) : (s.setLaunch n v).accesses = s.accesses := rfl
@[simp] theorem State.setLaunch_nextAcc (n : Nat) (v : Option Launch) : (s.setLaunch n v).nextAcc = s.nextAcc := rfl
@[simp] theorem State.setLaunch_hub (n : Nat) (v : Option Launch) : (s.setLaunch n v).hub = s.hub := rfl
@[simp] theorem State.setLaunch_xlat (n : Nat) (v : Option Launch) : (s.setLaunch n v).xlat = s.xlat := rfl
@[simp] theorem State.setLaunch_ctxs (n : Nat) (v : Option Launch) : (s.setLaunch n v).ctxs = s.ctxs := rfl
@[simp] theorem State.setLaunch_ports (n : Nat) (v : Option Launch) : (s.setLaunch n v).ports = s.ports := rfl
@[simp] theorem State.setLaunch_plans (n : Nat) (v : Option Launch) : (s.setLaunch n v).plans = s.plans := rfl
@[simp] theorem State.setLaunch_folio (n : Nat) (v : Option Launch) : (s.setLaunch n v).folio = s.folio := rfl
@[simp] theorem State.setLaunch_fresh (n : Nat) (v : Option Launch) : (s.setLaunch n v).fresh = s.fresh := rfl
@[simp] theorem State.setLaunch_pending (n : Nat) (v : Option Launch) : (s.setLaunch n v).pending = s.pending := rfl

@[simp] theorem State.setGroup_power (c k : Nat) (g : Option Group) : (s.setGroup c k g).power = s.power := rfl
@[simp] theorem State.setGroup_sec (c k : Nat) (g : Option Group) : (s.setGroup c k g).sec = s.sec := rfl
@[simp] theorem State.setGroup_dram (c k : Nat) (g : Option Group) : (s.setGroup c k g).dram = s.dram := rfl
@[simp] theorem State.setGroup_clusters (c k : Nat) (g : Option Group) : (s.setGroup c k g).clusters = s.clusters := rfl
@[simp] theorem State.setGroup_ctl (c k : Nat) (g : Option Group) : (s.setGroup c k g).ctl = s.ctl := rfl
@[simp] theorem State.setGroup_accesses (c k : Nat) (g : Option Group) : (s.setGroup c k g).accesses = s.accesses := rfl
@[simp] theorem State.setGroup_nextAcc (c k : Nat) (g : Option Group) : (s.setGroup c k g).nextAcc = s.nextAcc := rfl
@[simp] theorem State.setGroup_hub (c k : Nat) (g : Option Group) : (s.setGroup c k g).hub = s.hub := rfl
@[simp] theorem State.setGroup_xlat (c k : Nat) (g : Option Group) : (s.setGroup c k g).xlat = s.xlat := rfl
@[simp] theorem State.setGroup_ctxs (c k : Nat) (g : Option Group) : (s.setGroup c k g).ctxs = s.ctxs := rfl
@[simp] theorem State.setGroup_desk (c k : Nat) (g : Option Group) : (s.setGroup c k g).desk = s.desk := rfl
@[simp] theorem State.setGroup_ports (c k : Nat) (g : Option Group) : (s.setGroup c k g).ports = s.ports := rfl
@[simp] theorem State.setGroup_plans (c k : Nat) (g : Option Group) : (s.setGroup c k g).plans = s.plans := rfl
@[simp] theorem State.setGroup_folio (c k : Nat) (g : Option Group) : (s.setGroup c k g).folio = s.folio := rfl
@[simp] theorem State.setGroup_fresh (c k : Nat) (g : Option Group) : (s.setGroup c k g).fresh = s.fresh := rfl
@[simp] theorem State.setGroup_pending (c k : Nat) (g : Option Group) : (s.setGroup c k g).pending = s.pending := rfl

@[simp] theorem State.modStreamer_power (c n : Nat) (f : Streamer → Streamer) : (s.modStreamer c n f).power = s.power := rfl
@[simp] theorem State.modStreamer_sec (c n : Nat) (f : Streamer → Streamer) : (s.modStreamer c n f).sec = s.sec := rfl
@[simp] theorem State.modStreamer_dram (c n : Nat) (f : Streamer → Streamer) : (s.modStreamer c n f).dram = s.dram := rfl
@[simp] theorem State.modStreamer_clusters (c n : Nat) (f : Streamer → Streamer) : (s.modStreamer c n f).clusters = s.clusters := rfl
@[simp] theorem State.modStreamer_ctl (c n : Nat) (f : Streamer → Streamer) : (s.modStreamer c n f).ctl = s.ctl := rfl
@[simp] theorem State.modStreamer_accesses (c n : Nat) (f : Streamer → Streamer) : (s.modStreamer c n f).accesses = s.accesses := rfl
@[simp] theorem State.modStreamer_nextAcc (c n : Nat) (f : Streamer → Streamer) : (s.modStreamer c n f).nextAcc = s.nextAcc := rfl
@[simp] theorem State.modStreamer_hub (c n : Nat) (f : Streamer → Streamer) : (s.modStreamer c n f).hub = s.hub := rfl
@[simp] theorem State.modStreamer_xlat (c n : Nat) (f : Streamer → Streamer) : (s.modStreamer c n f).xlat = s.xlat := rfl
@[simp] theorem State.modStreamer_ctxs (c n : Nat) (f : Streamer → Streamer) : (s.modStreamer c n f).ctxs = s.ctxs := rfl
@[simp] theorem State.modStreamer_desk (c n : Nat) (f : Streamer → Streamer) : (s.modStreamer c n f).desk = s.desk := rfl
@[simp] theorem State.modStreamer_ports (c n : Nat) (f : Streamer → Streamer) : (s.modStreamer c n f).ports = s.ports := rfl
@[simp] theorem State.modStreamer_plans (c n : Nat) (f : Streamer → Streamer) : (s.modStreamer c n f).plans = s.plans := rfl
@[simp] theorem State.modStreamer_folio (c n : Nat) (f : Streamer → Streamer) : (s.modStreamer c n f).folio = s.folio := rfl
@[simp] theorem State.modStreamer_fresh (c n : Nat) (f : Streamer → Streamer) : (s.modStreamer c n f).fresh = s.fresh := rfl
@[simp] theorem State.modStreamer_pending (c n : Nat) (f : Streamer → Streamer) : (s.modStreamer c n f).pending = s.pending := rfl

@[simp] theorem State.modMx_power (c : Nat) (f : MxEngine → MxEngine) : (s.modMx c f).power = s.power := rfl
@[simp] theorem State.modMx_sec (c : Nat) (f : MxEngine → MxEngine) : (s.modMx c f).sec = s.sec := rfl
@[simp] theorem State.modMx_dram (c : Nat) (f : MxEngine → MxEngine) : (s.modMx c f).dram = s.dram := rfl
@[simp] theorem State.modMx_clusters (c : Nat) (f : MxEngine → MxEngine) : (s.modMx c f).clusters = s.clusters := rfl
@[simp] theorem State.modMx_ctl (c : Nat) (f : MxEngine → MxEngine) : (s.modMx c f).ctl = s.ctl := rfl
@[simp] theorem State.modMx_accesses (c : Nat) (f : MxEngine → MxEngine) : (s.modMx c f).accesses = s.accesses := rfl
@[simp] theorem State.modMx_nextAcc (c : Nat) (f : MxEngine → MxEngine) : (s.modMx c f).nextAcc = s.nextAcc := rfl
@[simp] theorem State.modMx_hub (c : Nat) (f : MxEngine → MxEngine) : (s.modMx c f).hub = s.hub := rfl
@[simp] theorem State.modMx_xlat (c : Nat) (f : MxEngine → MxEngine) : (s.modMx c f).xlat = s.xlat := rfl
@[simp] theorem State.modMx_ctxs (c : Nat) (f : MxEngine → MxEngine) : (s.modMx c f).ctxs = s.ctxs := rfl
@[simp] theorem State.modMx_desk (c : Nat) (f : MxEngine → MxEngine) : (s.modMx c f).desk = s.desk := rfl
@[simp] theorem State.modMx_ports (c : Nat) (f : MxEngine → MxEngine) : (s.modMx c f).ports = s.ports := rfl
@[simp] theorem State.modMx_plans (c : Nat) (f : MxEngine → MxEngine) : (s.modMx c f).plans = s.plans := rfl
@[simp] theorem State.modMx_folio (c : Nat) (f : MxEngine → MxEngine) : (s.modMx c f).folio = s.folio := rfl
@[simp] theorem State.modMx_fresh (c : Nat) (f : MxEngine → MxEngine) : (s.modMx c f).fresh = s.fresh := rfl
@[simp] theorem State.modMx_pending (c : Nat) (f : MxEngine → MxEngine) : (s.modMx c f).pending = s.pending := rfl

@[simp] theorem State.modAccess_power (n : Nat) (f : Access → Access) : (s.modAccess n f).power = s.power := rfl
@[simp] theorem State.modAccess_sec (n : Nat) (f : Access → Access) : (s.modAccess n f).sec = s.sec := rfl
@[simp] theorem State.modAccess_dram (n : Nat) (f : Access → Access) : (s.modAccess n f).dram = s.dram := rfl
@[simp] theorem State.modAccess_clusters (n : Nat) (f : Access → Access) : (s.modAccess n f).clusters = s.clusters := rfl
@[simp] theorem State.modAccess_cores (n : Nat) (f : Access → Access) : (s.modAccess n f).cores = s.cores := rfl
@[simp] theorem State.modAccess_ctl (n : Nat) (f : Access → Access) : (s.modAccess n f).ctl = s.ctl := rfl
@[simp] theorem State.modAccess_nextAcc (n : Nat) (f : Access → Access) : (s.modAccess n f).nextAcc = s.nextAcc := rfl
@[simp] theorem State.modAccess_hub (n : Nat) (f : Access → Access) : (s.modAccess n f).hub = s.hub := rfl
@[simp] theorem State.modAccess_xlat (n : Nat) (f : Access → Access) : (s.modAccess n f).xlat = s.xlat := rfl
@[simp] theorem State.modAccess_ctxs (n : Nat) (f : Access → Access) : (s.modAccess n f).ctxs = s.ctxs := rfl
@[simp] theorem State.modAccess_desk (n : Nat) (f : Access → Access) : (s.modAccess n f).desk = s.desk := rfl
@[simp] theorem State.modAccess_ports (n : Nat) (f : Access → Access) : (s.modAccess n f).ports = s.ports := rfl
@[simp] theorem State.modAccess_plans (n : Nat) (f : Access → Access) : (s.modAccess n f).plans = s.plans := rfl
@[simp] theorem State.modAccess_folio (n : Nat) (f : Access → Access) : (s.modAccess n f).folio = s.folio := rfl
@[simp] theorem State.modAccess_fresh (n : Nat) (f : Access → Access) : (s.modAccess n f).fresh = s.fresh := rfl
@[simp] theorem State.modAccess_pending (n : Nat) (f : Access → Access) : (s.modAccess n f).pending = s.pending := rfl

@[simp] theorem State.dropAccess_power (n : Nat) : (s.dropAccess n).power = s.power := rfl
@[simp] theorem State.dropAccess_sec (n : Nat) : (s.dropAccess n).sec = s.sec := rfl
@[simp] theorem State.dropAccess_dram (n : Nat) : (s.dropAccess n).dram = s.dram := rfl
@[simp] theorem State.dropAccess_clusters (n : Nat) : (s.dropAccess n).clusters = s.clusters := rfl
@[simp] theorem State.dropAccess_cores (n : Nat) : (s.dropAccess n).cores = s.cores := rfl
@[simp] theorem State.dropAccess_ctl (n : Nat) : (s.dropAccess n).ctl = s.ctl := rfl
@[simp] theorem State.dropAccess_nextAcc (n : Nat) : (s.dropAccess n).nextAcc = s.nextAcc := rfl
@[simp] theorem State.dropAccess_hub (n : Nat) : (s.dropAccess n).hub = s.hub := rfl
@[simp] theorem State.dropAccess_xlat (n : Nat) : (s.dropAccess n).xlat = s.xlat := rfl
@[simp] theorem State.dropAccess_ctxs (n : Nat) : (s.dropAccess n).ctxs = s.ctxs := rfl
@[simp] theorem State.dropAccess_desk (n : Nat) : (s.dropAccess n).desk = s.desk := rfl
@[simp] theorem State.dropAccess_ports (n : Nat) : (s.dropAccess n).ports = s.ports := rfl
@[simp] theorem State.dropAccess_plans (n : Nat) : (s.dropAccess n).plans = s.plans := rfl
@[simp] theorem State.dropAccess_folio (n : Nat) : (s.dropAccess n).folio = s.folio := rfl
@[simp] theorem State.dropAccess_fresh (n : Nat) : (s.dropAccess n).fresh = s.fresh := rfl
@[simp] theorem State.dropAccess_pending (n : Nat) : (s.dropAccess n).pending = s.pending := rfl

@[simp] theorem State.modQueue_desk_steepNumber (n : Nat) (f : Queue → Queue) : (s.modQueue n f).desk.steepNumber = s.desk.steepNumber := rfl
@[simp] theorem State.modQueue_desk_steepStart (n : Nat) (f : Queue → Queue) : (s.modQueue n f).desk.steepStart = s.desk.steepStart := rfl
@[simp] theorem State.modQueue_desk_overruns (n : Nat) (f : Queue → Queue) : (s.modQueue n f).desk.overruns = s.desk.overruns := rfl
@[simp] theorem State.modQueue_desk_promotedCtx (n : Nat) (f : Queue → Queue) : (s.modQueue n f).desk.promotedCtx = s.desk.promotedCtx := rfl
@[simp] theorem State.modQueue_desk_floorShare (n : Nat) (f : Queue → Queue) : (s.modQueue n f).desk.floorShare = s.desk.floorShare := rfl
@[simp] theorem State.modQueue_desk_align (n : Nat) (f : Queue → Queue) : (s.modQueue n f).desk.align = s.desk.align := rfl
@[simp] theorem State.modQueue_desk_periodUs (n : Nat) (f : Queue → Queue) : (s.modQueue n f).desk.periodUs = s.desk.periodUs := rfl
@[simp] theorem State.modQueue_desk_phaseNs (n : Nat) (f : Queue → Queue) : (s.modQueue n f).desk.phaseNs = s.desk.phaseNs := rfl
@[simp] theorem State.modQueue_desk_promoteSteeps (n : Nat) (f : Queue → Queue) : (s.modQueue n f).desk.promoteSteeps = s.desk.promoteSteeps := rfl
@[simp] theorem State.modQueue_desk_slots (n : Nat) (f : Queue → Queue) : (s.modQueue n f).desk.slots = s.desk.slots := rfl
@[simp] theorem State.modQueue_desk_launches (n : Nat) (f : Queue → Queue) : (s.modQueue n f).desk.launches = s.desk.launches := rfl
@[simp] theorem State.modQueue_desk_nextLaunch (n : Nat) (f : Queue → Queue) : (s.modQueue n f).desk.nextLaunch = s.desk.nextLaunch := rfl
@[simp] theorem State.modQueue_desk_rrLoan (n : Nat) (f : Queue → Queue) : (s.modQueue n f).desk.rrLoan = s.desk.rrLoan := rfl
@[simp] theorem State.modQueue_desk_promoOrder (n : Nat) (f : Queue → Queue) : (s.modQueue n f).desk.promoOrder = s.desk.promoOrder := rfl
@[simp] theorem State.modQueue_desk_txns (n : Nat) (f : Queue → Queue) : (s.modQueue n f).desk.txns = s.desk.txns := rfl
@[simp] theorem State.modQueue_desk_txnDiscarded (n : Nat) (f : Queue → Queue) : (s.modQueue n f).desk.txnDiscarded = s.desk.txnDiscarded := rfl
@[simp] theorem State.modQueue_desk_catRefused (n : Nat) (f : Queue → Queue) : (s.modQueue n f).desk.catRefused = s.desk.catRefused := rfl
@[simp] theorem State.modQueue_desk_control (n : Nat) (f : Queue → Queue) : (s.modQueue n f).desk.control = s.desk.control := rfl
@[simp] theorem State.modQueue_desk_record0 (n : Nat) (f : Queue → Queue) : (s.modQueue n f).desk.record0 = s.desk.record0 := rfl
@[simp] theorem State.modQueue_desk_teardowns (n : Nat) (f : Queue → Queue) : (s.modQueue n f).desk.teardowns = s.desk.teardowns := rfl

@[simp] theorem State.modSlot_desk_steepNumber (n : Nat) (f : Slot → Slot) : (s.modSlot n f).desk.steepNumber = s.desk.steepNumber := rfl
@[simp] theorem State.modSlot_desk_steepStart (n : Nat) (f : Slot → Slot) : (s.modSlot n f).desk.steepStart = s.desk.steepStart := rfl
@[simp] theorem State.modSlot_desk_overruns (n : Nat) (f : Slot → Slot) : (s.modSlot n f).desk.overruns = s.desk.overruns := rfl
@[simp] theorem State.modSlot_desk_promotedCtx (n : Nat) (f : Slot → Slot) : (s.modSlot n f).desk.promotedCtx = s.desk.promotedCtx := rfl
@[simp] theorem State.modSlot_desk_floorShare (n : Nat) (f : Slot → Slot) : (s.modSlot n f).desk.floorShare = s.desk.floorShare := rfl
@[simp] theorem State.modSlot_desk_align (n : Nat) (f : Slot → Slot) : (s.modSlot n f).desk.align = s.desk.align := rfl
@[simp] theorem State.modSlot_desk_periodUs (n : Nat) (f : Slot → Slot) : (s.modSlot n f).desk.periodUs = s.desk.periodUs := rfl
@[simp] theorem State.modSlot_desk_phaseNs (n : Nat) (f : Slot → Slot) : (s.modSlot n f).desk.phaseNs = s.desk.phaseNs := rfl
@[simp] theorem State.modSlot_desk_promoteSteeps (n : Nat) (f : Slot → Slot) : (s.modSlot n f).desk.promoteSteeps = s.desk.promoteSteeps := rfl
@[simp] theorem State.modSlot_desk_queues (n : Nat) (f : Slot → Slot) : (s.modSlot n f).desk.queues = s.desk.queues := rfl
@[simp] theorem State.modSlot_desk_launches (n : Nat) (f : Slot → Slot) : (s.modSlot n f).desk.launches = s.desk.launches := rfl
@[simp] theorem State.modSlot_desk_nextLaunch (n : Nat) (f : Slot → Slot) : (s.modSlot n f).desk.nextLaunch = s.desk.nextLaunch := rfl
@[simp] theorem State.modSlot_desk_rrLoan (n : Nat) (f : Slot → Slot) : (s.modSlot n f).desk.rrLoan = s.desk.rrLoan := rfl
@[simp] theorem State.modSlot_desk_promoOrder (n : Nat) (f : Slot → Slot) : (s.modSlot n f).desk.promoOrder = s.desk.promoOrder := rfl
@[simp] theorem State.modSlot_desk_txns (n : Nat) (f : Slot → Slot) : (s.modSlot n f).desk.txns = s.desk.txns := rfl
@[simp] theorem State.modSlot_desk_txnDiscarded (n : Nat) (f : Slot → Slot) : (s.modSlot n f).desk.txnDiscarded = s.desk.txnDiscarded := rfl
@[simp] theorem State.modSlot_desk_catRefused (n : Nat) (f : Slot → Slot) : (s.modSlot n f).desk.catRefused = s.desk.catRefused := rfl
@[simp] theorem State.modSlot_desk_control (n : Nat) (f : Slot → Slot) : (s.modSlot n f).desk.control = s.desk.control := rfl
@[simp] theorem State.modSlot_desk_record0 (n : Nat) (f : Slot → Slot) : (s.modSlot n f).desk.record0 = s.desk.record0 := rfl
@[simp] theorem State.modSlot_desk_teardowns (n : Nat) (f : Slot → Slot) : (s.modSlot n f).desk.teardowns = s.desk.teardowns := rfl

@[simp] theorem State.setLaunch_desk_steepNumber (n : Nat) (v : Option Launch) : (s.setLaunch n v).desk.steepNumber = s.desk.steepNumber := rfl
@[simp] theorem State.setLaunch_desk_steepStart (n : Nat) (v : Option Launch) : (s.setLaunch n v).desk.steepStart = s.desk.steepStart := rfl
@[simp] theorem State.setLaunch_desk_overruns (n : Nat) (v : Option Launch) : (s.setLaunch n v).desk.overruns = s.desk.overruns := rfl
@[simp] theorem State.setLaunch_desk_promotedCtx (n : Nat) (v : Option Launch) : (s.setLaunch n v).desk.promotedCtx = s.desk.promotedCtx := rfl
@[simp] theorem State.setLaunch_desk_floorShare (n : Nat) (v : Option Launch) : (s.setLaunch n v).desk.floorShare = s.desk.floorShare := rfl
@[simp] theorem State.setLaunch_desk_align (n : Nat) (v : Option Launch) : (s.setLaunch n v).desk.align = s.desk.align := rfl
@[simp] theorem State.setLaunch_desk_periodUs (n : Nat) (v : Option Launch) : (s.setLaunch n v).desk.periodUs = s.desk.periodUs := rfl
@[simp] theorem State.setLaunch_desk_phaseNs (n : Nat) (v : Option Launch) : (s.setLaunch n v).desk.phaseNs = s.desk.phaseNs := rfl
@[simp] theorem State.setLaunch_desk_promoteSteeps (n : Nat) (v : Option Launch) : (s.setLaunch n v).desk.promoteSteeps = s.desk.promoteSteeps := rfl
@[simp] theorem State.setLaunch_desk_slots (n : Nat) (v : Option Launch) : (s.setLaunch n v).desk.slots = s.desk.slots := rfl
@[simp] theorem State.setLaunch_desk_queues (n : Nat) (v : Option Launch) : (s.setLaunch n v).desk.queues = s.desk.queues := rfl
@[simp] theorem State.setLaunch_desk_nextLaunch (n : Nat) (v : Option Launch) : (s.setLaunch n v).desk.nextLaunch = s.desk.nextLaunch := rfl
@[simp] theorem State.setLaunch_desk_rrLoan (n : Nat) (v : Option Launch) : (s.setLaunch n v).desk.rrLoan = s.desk.rrLoan := rfl
@[simp] theorem State.setLaunch_desk_promoOrder (n : Nat) (v : Option Launch) : (s.setLaunch n v).desk.promoOrder = s.desk.promoOrder := rfl
@[simp] theorem State.setLaunch_desk_txns (n : Nat) (v : Option Launch) : (s.setLaunch n v).desk.txns = s.desk.txns := rfl
@[simp] theorem State.setLaunch_desk_txnDiscarded (n : Nat) (v : Option Launch) : (s.setLaunch n v).desk.txnDiscarded = s.desk.txnDiscarded := rfl
@[simp] theorem State.setLaunch_desk_catRefused (n : Nat) (v : Option Launch) : (s.setLaunch n v).desk.catRefused = s.desk.catRefused := rfl
@[simp] theorem State.setLaunch_desk_control (n : Nat) (v : Option Launch) : (s.setLaunch n v).desk.control = s.desk.control := rfl
@[simp] theorem State.setLaunch_desk_record0 (n : Nat) (v : Option Launch) : (s.setLaunch n v).desk.record0 = s.desk.record0 := rfl
@[simp] theorem State.setLaunch_desk_teardowns (n : Nat) (v : Option Launch) : (s.setLaunch n v).desk.teardowns = s.desk.teardowns := rfl

@[simp] theorem State.modPort_ports_sessions (n : Nat) (f : Port → Port) : (s.modPort n f).ports.sessions = s.ports.sessions := rfl
@[simp] theorem State.modPort_ports_closedAt (n : Nat) (f : Port → Port) : (s.modPort n f).ports.closedAt = s.ports.closedAt := rfl
@[simp] theorem State.modPort_ports_conns (n : Nat) (f : Port → Port) : (s.modPort n f).ports.conns = s.ports.conns := rfl
@[simp] theorem State.modPort_ports_allow (n : Nat) (f : Port → Port) : (s.modPort n f).ports.allow = s.ports.allow := rfl
@[simp] theorem State.modPort_ports_ownPeer (n : Nat) (f : Port → Port) : (s.modPort n f).ports.ownPeer = s.ports.ownPeer := rfl
@[simp] theorem State.modPort_ports_peers (n : Nat) (f : Port → Port) : (s.modPort n f).ports.peers = s.ports.peers := rfl
@[simp] theorem State.modPort_ports_peersLost (n : Nat) (f : Port → Port) : (s.modPort n f).ports.peersLost = s.ports.peersLost := rfl
@[simp] theorem State.modPort_ports_stepHolder (n : Nat) (f : Port → Port) : (s.modPort n f).ports.stepHolder = s.ports.stepHolder := rfl
@[simp] theorem State.modPort_ports_stepPort (n : Nat) (f : Port → Port) : (s.modPort n f).ports.stepPort = s.ports.stepPort := rfl
@[simp] theorem State.modPort_ports_ptpPort (n : Nat) (f : Port → Port) : (s.modPort n f).ports.ptpPort = s.ports.ptpPort := rfl
@[simp] theorem State.modPort_ports_digHolder (n : Nat) (f : Port → Port) : (s.modPort n f).ports.digHolder = s.ports.digHolder := rfl
@[simp] theorem State.modPort_ports_staging (n : Nat) (f : Port → Port) : (s.modPort n f).ports.staging = s.ports.staging := rfl
@[simp] theorem State.modPort_ports_sent (n : Nat) (f : Port → Port) : (s.modPort n f).ports.sent = s.ports.sent := rfl
@[simp] theorem State.modPort_ports_held (n : Nat) (f : Port → Port) : (s.modPort n f).ports.held = s.ports.held := rfl
@[simp] theorem State.modPort_ports_wire (n : Nat) (f : Port → Port) : (s.modPort n f).ports.wire = s.ports.wire := rfl
@[simp] theorem State.modPort_ports_ptpSync (n : Nat) (f : Port → Port) : (s.modPort n f).ports.ptpSync = s.ports.ptpSync := rfl

@[simp] theorem State.setSession_ports_ports (n : Nat) (v : Option Session) : (s.setSession n v).ports.ports = s.ports.ports := rfl
@[simp] theorem State.setSession_ports_closedAt (n : Nat) (v : Option Session) : (s.setSession n v).ports.closedAt = s.ports.closedAt := rfl
@[simp] theorem State.setSession_ports_conns (n : Nat) (v : Option Session) : (s.setSession n v).ports.conns = s.ports.conns := rfl
@[simp] theorem State.setSession_ports_allow (n : Nat) (v : Option Session) : (s.setSession n v).ports.allow = s.ports.allow := rfl
@[simp] theorem State.setSession_ports_ownPeer (n : Nat) (v : Option Session) : (s.setSession n v).ports.ownPeer = s.ports.ownPeer := rfl
@[simp] theorem State.setSession_ports_peers (n : Nat) (v : Option Session) : (s.setSession n v).ports.peers = s.ports.peers := rfl
@[simp] theorem State.setSession_ports_peersLost (n : Nat) (v : Option Session) : (s.setSession n v).ports.peersLost = s.ports.peersLost := rfl
@[simp] theorem State.setSession_ports_stepHolder (n : Nat) (v : Option Session) : (s.setSession n v).ports.stepHolder = s.ports.stepHolder := rfl
@[simp] theorem State.setSession_ports_stepPort (n : Nat) (v : Option Session) : (s.setSession n v).ports.stepPort = s.ports.stepPort := rfl
@[simp] theorem State.setSession_ports_ptpPort (n : Nat) (v : Option Session) : (s.setSession n v).ports.ptpPort = s.ports.ptpPort := rfl
@[simp] theorem State.setSession_ports_digHolder (n : Nat) (v : Option Session) : (s.setSession n v).ports.digHolder = s.ports.digHolder := rfl
@[simp] theorem State.setSession_ports_staging (n : Nat) (v : Option Session) : (s.setSession n v).ports.staging = s.ports.staging := rfl
@[simp] theorem State.setSession_ports_sent (n : Nat) (v : Option Session) : (s.setSession n v).ports.sent = s.ports.sent := rfl
@[simp] theorem State.setSession_ports_held (n : Nat) (v : Option Session) : (s.setSession n v).ports.held = s.ports.held := rfl
@[simp] theorem State.setSession_ports_wire (n : Nat) (v : Option Session) : (s.setSession n v).ports.wire = s.ports.wire := rfl
@[simp] theorem State.setSession_ports_ptpSync (n : Nat) (v : Option Session) : (s.setSession n v).ports.ptpSync = s.ports.ptpSync := rfl

@[simp] theorem State.setConn_ports_ports (n : Nat) (v : Option Conn) : (s.setConn n v).ports.ports = s.ports.ports := rfl
@[simp] theorem State.setConn_ports_sessions (n : Nat) (v : Option Conn) : (s.setConn n v).ports.sessions = s.ports.sessions := rfl
@[simp] theorem State.setConn_ports_closedAt (n : Nat) (v : Option Conn) : (s.setConn n v).ports.closedAt = s.ports.closedAt := rfl
@[simp] theorem State.setConn_ports_allow (n : Nat) (v : Option Conn) : (s.setConn n v).ports.allow = s.ports.allow := rfl
@[simp] theorem State.setConn_ports_ownPeer (n : Nat) (v : Option Conn) : (s.setConn n v).ports.ownPeer = s.ports.ownPeer := rfl
@[simp] theorem State.setConn_ports_peers (n : Nat) (v : Option Conn) : (s.setConn n v).ports.peers = s.ports.peers := rfl
@[simp] theorem State.setConn_ports_peersLost (n : Nat) (v : Option Conn) : (s.setConn n v).ports.peersLost = s.ports.peersLost := rfl
@[simp] theorem State.setConn_ports_stepHolder (n : Nat) (v : Option Conn) : (s.setConn n v).ports.stepHolder = s.ports.stepHolder := rfl
@[simp] theorem State.setConn_ports_stepPort (n : Nat) (v : Option Conn) : (s.setConn n v).ports.stepPort = s.ports.stepPort := rfl
@[simp] theorem State.setConn_ports_ptpPort (n : Nat) (v : Option Conn) : (s.setConn n v).ports.ptpPort = s.ports.ptpPort := rfl
@[simp] theorem State.setConn_ports_digHolder (n : Nat) (v : Option Conn) : (s.setConn n v).ports.digHolder = s.ports.digHolder := rfl
@[simp] theorem State.setConn_ports_staging (n : Nat) (v : Option Conn) : (s.setConn n v).ports.staging = s.ports.staging := rfl
@[simp] theorem State.setConn_ports_sent (n : Nat) (v : Option Conn) : (s.setConn n v).ports.sent = s.ports.sent := rfl
@[simp] theorem State.setConn_ports_held (n : Nat) (v : Option Conn) : (s.setConn n v).ports.held = s.ports.held := rfl
@[simp] theorem State.setConn_ports_wire (n : Nat) (v : Option Conn) : (s.setConn n v).ports.wire = s.ports.wire := rfl
@[simp] theorem State.setConn_ports_ptpSync (n : Nat) (v : Option Conn) : (s.setConn n v).ports.ptpSync = s.ports.ptpSync := rfl

@[simp] theorem State.modPeer_ports_ports (n : Nat) (f : Peer → Peer) : (s.modPeer n f).ports.ports = s.ports.ports := rfl
@[simp] theorem State.modPeer_ports_sessions (n : Nat) (f : Peer → Peer) : (s.modPeer n f).ports.sessions = s.ports.sessions := rfl
@[simp] theorem State.modPeer_ports_closedAt (n : Nat) (f : Peer → Peer) : (s.modPeer n f).ports.closedAt = s.ports.closedAt := rfl
@[simp] theorem State.modPeer_ports_conns (n : Nat) (f : Peer → Peer) : (s.modPeer n f).ports.conns = s.ports.conns := rfl
@[simp] theorem State.modPeer_ports_allow (n : Nat) (f : Peer → Peer) : (s.modPeer n f).ports.allow = s.ports.allow := rfl
@[simp] theorem State.modPeer_ports_ownPeer (n : Nat) (f : Peer → Peer) : (s.modPeer n f).ports.ownPeer = s.ports.ownPeer := rfl
@[simp] theorem State.modPeer_ports_peersLost (n : Nat) (f : Peer → Peer) : (s.modPeer n f).ports.peersLost = s.ports.peersLost := rfl
@[simp] theorem State.modPeer_ports_stepHolder (n : Nat) (f : Peer → Peer) : (s.modPeer n f).ports.stepHolder = s.ports.stepHolder := rfl
@[simp] theorem State.modPeer_ports_stepPort (n : Nat) (f : Peer → Peer) : (s.modPeer n f).ports.stepPort = s.ports.stepPort := rfl
@[simp] theorem State.modPeer_ports_ptpPort (n : Nat) (f : Peer → Peer) : (s.modPeer n f).ports.ptpPort = s.ports.ptpPort := rfl
@[simp] theorem State.modPeer_ports_digHolder (n : Nat) (f : Peer → Peer) : (s.modPeer n f).ports.digHolder = s.ports.digHolder := rfl
@[simp] theorem State.modPeer_ports_staging (n : Nat) (f : Peer → Peer) : (s.modPeer n f).ports.staging = s.ports.staging := rfl
@[simp] theorem State.modPeer_ports_sent (n : Nat) (f : Peer → Peer) : (s.modPeer n f).ports.sent = s.ports.sent := rfl
@[simp] theorem State.modPeer_ports_held (n : Nat) (f : Peer → Peer) : (s.modPeer n f).ports.held = s.ports.held := rfl
@[simp] theorem State.modPeer_ports_wire (n : Nat) (f : Peer → Peer) : (s.modPeer n f).ports.wire = s.ports.wire := rfl
@[simp] theorem State.modPeer_ports_ptpSync (n : Nat) (f : Peer → Peer) : (s.modPeer n f).ports.ptpSync = s.ports.ptpSync := rfl

@[simp] theorem State.modTally_hub_watches (n : Nat) (f : Tally → Tally) : (s.modTally n f).hub.watches = s.hub.watches := rfl
@[simp] theorem State.modTally_hub_wakes (n : Nat) (f : Tally → Tally) : (s.modTally n f).hub.wakes = s.hub.wakes := rfl
@[simp] theorem State.modTally_hub_quota (n : Nat) (f : Tally → Tally) : (s.modTally n f).hub.quota = s.hub.quota := rfl
@[simp] theorem State.modTally_hub_blocked (n : Nat) (f : Tally → Tally) : (s.modTally n f).hub.blocked = s.hub.blocked := rfl
@[simp] theorem State.modTally_hub_lastBlocked (n : Nat) (f : Tally → Tally) : (s.modTally n f).hub.lastBlocked = s.hub.lastBlocked := rfl
@[simp] theorem State.modTally_hub_ignored (n : Nat) (f : Tally → Tally) : (s.modTally n f).hub.ignored = s.hub.ignored := rfl
@[simp] theorem State.modTally_hub_outOfRange (n : Nat) (f : Tally → Tally) : (s.modTally n f).hub.outOfRange = s.hub.outOfRange := rfl
@[simp] theorem State.modTally_hub_watchFull (n : Nat) (f : Tally → Tally) : (s.modTally n f).hub.watchFull = s.hub.watchFull := rfl
@[simp] theorem State.modTally_hub_channels (n : Nat) (f : Tally → Tally) : (s.modTally n f).hub.channels = s.hub.channels := rfl
@[simp] theorem State.modTally_hub_phases (n : Nat) (f : Tally → Tally) : (s.modTally n f).hub.phases = s.hub.phases := rfl

theorem State.core_modCore {n i : Nat} {f : Core → Core} (h : swf (fun _ => Core.idle) s.cores = true) :
    (s.modCore n f).core i = if i = n then f (s.core n) else s.core i := sget_sput h

theorem State.cluster_modCluster {n i : Nat} {f : Cluster → Cluster} (h : swf (fun _ => Cluster.empty) s.clusters = true) :
    (s.modCluster n f).cluster i = if i = n then f (s.cluster n) else s.cluster i := sget_sput h

theorem State.ctlCore_modCtl {n i : Nat} {f : CtlCore → CtlCore} (h : swf (fun _ => CtlCore.empty) s.ctl = true) :
    (s.modCtl n f).ctlCore i = if i = n then f (s.ctlCore n) else s.ctlCore i := sget_sput h

theorem State.ctx_modCtx {n i : Nat} {f : Ctx → Ctx} (h : swf (fun _ => Ctx.fresh) s.ctxs = true) :
    (s.modCtx n f).ctx i = if i = n then f (s.ctx n) else s.ctx i := sget_sput h

theorem State.queue_modQueue {n i : Nat} {f : Queue → Queue} (h : swf (fun _ => Queue.disabled) s.desk.queues = true) :
    (s.modQueue n f).queue i = if i = n then f (s.queue n) else s.queue i := sget_sput h

theorem State.slot_modSlot {n i : Nat} {f : Slot → Slot} (h : swf (fun _ => Slot.reset) s.desk.slots = true) :
    (s.modSlot n f).slot i = if i = n then f (s.slot n) else s.slot i := sget_sput h

theorem State.tally_modTally {n i : Nat} {f : Tally → Tally} (h : swf (fun _ => Tally.free) s.hub.tallies = true) :
    (s.modTally n f).tally i = if i = n then f (s.tally n) else s.tally i := sget_sput h

theorem State.port_modPort {n i : Nat} {f : Port → Port} (h : swf Port.reset s.ports.ports = true) :
    (s.modPort n f).port i = if i = n then f (s.port n) else s.port i := sget_sput h

theorem State.peer_modPeer {n i : Nat} {f : Peer → Peer} (h : swf (fun _ => Peer.unused) s.ports.peers = true) :
    (s.modPeer n f).peer i = if i = n then f (s.peer n) else s.peer i := sget_sput h

theorem State.plan_modPlan {n i : Nat} {f : Plan → Plan} (h : swf (fun _ => Plan.unused) s.plans.plans = true) :
    (s.modPlan n f).plan i = if i = n then f (s.plan n) else s.plan i := sget_sput h

theorem State.session_setSession {n i : Nat} {v : Option Session} (h : swf (fun _ => none) s.ports.sessions = true) :
    (s.setSession n v).session i = if i = n then v else s.session i := oget_oput h

theorem State.conn_setConn {n i : Nat} {v : Option Conn} (h : swf (fun _ => none) s.ports.conns = true) :
    (s.setConn n v).conn i = if i = n then v else s.conn i := oget_oput h

theorem State.launch_setLaunch {n i : Nat} {v : Option Launch} (h : swf (fun _ => none) s.desk.launches = true) :
    (s.setLaunch n v).launch i = if i = n then v else s.launch i := oget_oput h

@[simp] theorem State.modCore_get_cluster (c : Nat) (f : Core → Core) (i : Nat) : (s.modCore c f).cluster i = s.cluster i := rfl
@[simp] theorem State.modCore_get_ctlCore (c : Nat) (f : Core → Core) (i : Nat) : (s.modCore c f).ctlCore i = s.ctlCore i := rfl
@[simp] theorem State.modCore_get_ctx (c : Nat) (f : Core → Core) (i : Nat) : (s.modCore c f).ctx i = s.ctx i := rfl
@[simp] theorem State.modCore_get_queue (c : Nat) (f : Core → Core) (i : Nat) : (s.modCore c f).queue i = s.queue i := rfl
@[simp] theorem State.modCore_get_slot (c : Nat) (f : Core → Core) (i : Nat) : (s.modCore c f).slot i = s.slot i := rfl
@[simp] theorem State.modCore_get_tally (c : Nat) (f : Core → Core) (i : Nat) : (s.modCore c f).tally i = s.tally i := rfl
@[simp] theorem State.modCore_get_port (c : Nat) (f : Core → Core) (i : Nat) : (s.modCore c f).port i = s.port i := rfl
@[simp] theorem State.modCore_get_session (c : Nat) (f : Core → Core) (i : Nat) : (s.modCore c f).session i = s.session i := rfl
@[simp] theorem State.modCore_get_conn (c : Nat) (f : Core → Core) (i : Nat) : (s.modCore c f).conn i = s.conn i := rfl
@[simp] theorem State.modCore_get_peer (c : Nat) (f : Core → Core) (i : Nat) : (s.modCore c f).peer i = s.peer i := rfl
@[simp] theorem State.modCore_get_plan (c : Nat) (f : Core → Core) (i : Nat) : (s.modCore c f).plan i = s.plan i := rfl
@[simp] theorem State.modCore_get_launch (c : Nat) (f : Core → Core) (i : Nat) : (s.modCore c f).launch i = s.launch i := rfl

@[simp] theorem State.modWork_get_cluster (c : Nat) (f : CoreWork → CoreWork) (i : Nat) : (s.modWork c f).cluster i = s.cluster i := rfl
@[simp] theorem State.modWork_get_ctlCore (c : Nat) (f : CoreWork → CoreWork) (i : Nat) : (s.modWork c f).ctlCore i = s.ctlCore i := rfl
@[simp] theorem State.modWork_get_ctx (c : Nat) (f : CoreWork → CoreWork) (i : Nat) : (s.modWork c f).ctx i = s.ctx i := rfl
@[simp] theorem State.modWork_get_queue (c : Nat) (f : CoreWork → CoreWork) (i : Nat) : (s.modWork c f).queue i = s.queue i := rfl
@[simp] theorem State.modWork_get_slot (c : Nat) (f : CoreWork → CoreWork) (i : Nat) : (s.modWork c f).slot i = s.slot i := rfl
@[simp] theorem State.modWork_get_tally (c : Nat) (f : CoreWork → CoreWork) (i : Nat) : (s.modWork c f).tally i = s.tally i := rfl
@[simp] theorem State.modWork_get_port (c : Nat) (f : CoreWork → CoreWork) (i : Nat) : (s.modWork c f).port i = s.port i := rfl
@[simp] theorem State.modWork_get_session (c : Nat) (f : CoreWork → CoreWork) (i : Nat) : (s.modWork c f).session i = s.session i := rfl
@[simp] theorem State.modWork_get_conn (c : Nat) (f : CoreWork → CoreWork) (i : Nat) : (s.modWork c f).conn i = s.conn i := rfl
@[simp] theorem State.modWork_get_peer (c : Nat) (f : CoreWork → CoreWork) (i : Nat) : (s.modWork c f).peer i = s.peer i := rfl
@[simp] theorem State.modWork_get_plan (c : Nat) (f : CoreWork → CoreWork) (i : Nat) : (s.modWork c f).plan i = s.plan i := rfl
@[simp] theorem State.modWork_get_launch (c : Nat) (f : CoreWork → CoreWork) (i : Nat) : (s.modWork c f).launch i = s.launch i := rfl

@[simp] theorem State.modCluster_get_core (n : Nat) (f : Cluster → Cluster) (i : Nat) : (s.modCluster n f).core i = s.core i := rfl
@[simp] theorem State.modCluster_get_ctlCore (n : Nat) (f : Cluster → Cluster) (i : Nat) : (s.modCluster n f).ctlCore i = s.ctlCore i := rfl
@[simp] theorem State.modCluster_get_ctx (n : Nat) (f : Cluster → Cluster) (i : Nat) : (s.modCluster n f).ctx i = s.ctx i := rfl
@[simp] theorem State.modCluster_get_queue (n : Nat) (f : Cluster → Cluster) (i : Nat) : (s.modCluster n f).queue i = s.queue i := rfl
@[simp] theorem State.modCluster_get_slot (n : Nat) (f : Cluster → Cluster) (i : Nat) : (s.modCluster n f).slot i = s.slot i := rfl
@[simp] theorem State.modCluster_get_tally (n : Nat) (f : Cluster → Cluster) (i : Nat) : (s.modCluster n f).tally i = s.tally i := rfl
@[simp] theorem State.modCluster_get_port (n : Nat) (f : Cluster → Cluster) (i : Nat) : (s.modCluster n f).port i = s.port i := rfl
@[simp] theorem State.modCluster_get_session (n : Nat) (f : Cluster → Cluster) (i : Nat) : (s.modCluster n f).session i = s.session i := rfl
@[simp] theorem State.modCluster_get_conn (n : Nat) (f : Cluster → Cluster) (i : Nat) : (s.modCluster n f).conn i = s.conn i := rfl
@[simp] theorem State.modCluster_get_peer (n : Nat) (f : Cluster → Cluster) (i : Nat) : (s.modCluster n f).peer i = s.peer i := rfl
@[simp] theorem State.modCluster_get_plan (n : Nat) (f : Cluster → Cluster) (i : Nat) : (s.modCluster n f).plan i = s.plan i := rfl
@[simp] theorem State.modCluster_get_launch (n : Nat) (f : Cluster → Cluster) (i : Nat) : (s.modCluster n f).launch i = s.launch i := rfl

@[simp] theorem State.modCtl_get_core (n : Nat) (f : CtlCore → CtlCore) (i : Nat) : (s.modCtl n f).core i = s.core i := rfl
@[simp] theorem State.modCtl_get_cluster (n : Nat) (f : CtlCore → CtlCore) (i : Nat) : (s.modCtl n f).cluster i = s.cluster i := rfl
@[simp] theorem State.modCtl_get_ctx (n : Nat) (f : CtlCore → CtlCore) (i : Nat) : (s.modCtl n f).ctx i = s.ctx i := rfl
@[simp] theorem State.modCtl_get_queue (n : Nat) (f : CtlCore → CtlCore) (i : Nat) : (s.modCtl n f).queue i = s.queue i := rfl
@[simp] theorem State.modCtl_get_slot (n : Nat) (f : CtlCore → CtlCore) (i : Nat) : (s.modCtl n f).slot i = s.slot i := rfl
@[simp] theorem State.modCtl_get_tally (n : Nat) (f : CtlCore → CtlCore) (i : Nat) : (s.modCtl n f).tally i = s.tally i := rfl
@[simp] theorem State.modCtl_get_port (n : Nat) (f : CtlCore → CtlCore) (i : Nat) : (s.modCtl n f).port i = s.port i := rfl
@[simp] theorem State.modCtl_get_session (n : Nat) (f : CtlCore → CtlCore) (i : Nat) : (s.modCtl n f).session i = s.session i := rfl
@[simp] theorem State.modCtl_get_conn (n : Nat) (f : CtlCore → CtlCore) (i : Nat) : (s.modCtl n f).conn i = s.conn i := rfl
@[simp] theorem State.modCtl_get_peer (n : Nat) (f : CtlCore → CtlCore) (i : Nat) : (s.modCtl n f).peer i = s.peer i := rfl
@[simp] theorem State.modCtl_get_plan (n : Nat) (f : CtlCore → CtlCore) (i : Nat) : (s.modCtl n f).plan i = s.plan i := rfl
@[simp] theorem State.modCtl_get_launch (n : Nat) (f : CtlCore → CtlCore) (i : Nat) : (s.modCtl n f).launch i = s.launch i := rfl

@[simp] theorem State.modCtx_get_core (n : Nat) (f : Ctx → Ctx) (i : Nat) : (s.modCtx n f).core i = s.core i := rfl
@[simp] theorem State.modCtx_get_cluster (n : Nat) (f : Ctx → Ctx) (i : Nat) : (s.modCtx n f).cluster i = s.cluster i := rfl
@[simp] theorem State.modCtx_get_ctlCore (n : Nat) (f : Ctx → Ctx) (i : Nat) : (s.modCtx n f).ctlCore i = s.ctlCore i := rfl
@[simp] theorem State.modCtx_get_queue (n : Nat) (f : Ctx → Ctx) (i : Nat) : (s.modCtx n f).queue i = s.queue i := rfl
@[simp] theorem State.modCtx_get_slot (n : Nat) (f : Ctx → Ctx) (i : Nat) : (s.modCtx n f).slot i = s.slot i := rfl
@[simp] theorem State.modCtx_get_tally (n : Nat) (f : Ctx → Ctx) (i : Nat) : (s.modCtx n f).tally i = s.tally i := rfl
@[simp] theorem State.modCtx_get_port (n : Nat) (f : Ctx → Ctx) (i : Nat) : (s.modCtx n f).port i = s.port i := rfl
@[simp] theorem State.modCtx_get_session (n : Nat) (f : Ctx → Ctx) (i : Nat) : (s.modCtx n f).session i = s.session i := rfl
@[simp] theorem State.modCtx_get_conn (n : Nat) (f : Ctx → Ctx) (i : Nat) : (s.modCtx n f).conn i = s.conn i := rfl
@[simp] theorem State.modCtx_get_peer (n : Nat) (f : Ctx → Ctx) (i : Nat) : (s.modCtx n f).peer i = s.peer i := rfl
@[simp] theorem State.modCtx_get_plan (n : Nat) (f : Ctx → Ctx) (i : Nat) : (s.modCtx n f).plan i = s.plan i := rfl
@[simp] theorem State.modCtx_get_launch (n : Nat) (f : Ctx → Ctx) (i : Nat) : (s.modCtx n f).launch i = s.launch i := rfl

@[simp] theorem State.modQueue_get_core (n : Nat) (f : Queue → Queue) (i : Nat) : (s.modQueue n f).core i = s.core i := rfl
@[simp] theorem State.modQueue_get_cluster (n : Nat) (f : Queue → Queue) (i : Nat) : (s.modQueue n f).cluster i = s.cluster i := rfl
@[simp] theorem State.modQueue_get_ctlCore (n : Nat) (f : Queue → Queue) (i : Nat) : (s.modQueue n f).ctlCore i = s.ctlCore i := rfl
@[simp] theorem State.modQueue_get_ctx (n : Nat) (f : Queue → Queue) (i : Nat) : (s.modQueue n f).ctx i = s.ctx i := rfl
@[simp] theorem State.modQueue_get_slot (n : Nat) (f : Queue → Queue) (i : Nat) : (s.modQueue n f).slot i = s.slot i := rfl
@[simp] theorem State.modQueue_get_tally (n : Nat) (f : Queue → Queue) (i : Nat) : (s.modQueue n f).tally i = s.tally i := rfl
@[simp] theorem State.modQueue_get_port (n : Nat) (f : Queue → Queue) (i : Nat) : (s.modQueue n f).port i = s.port i := rfl
@[simp] theorem State.modQueue_get_session (n : Nat) (f : Queue → Queue) (i : Nat) : (s.modQueue n f).session i = s.session i := rfl
@[simp] theorem State.modQueue_get_conn (n : Nat) (f : Queue → Queue) (i : Nat) : (s.modQueue n f).conn i = s.conn i := rfl
@[simp] theorem State.modQueue_get_peer (n : Nat) (f : Queue → Queue) (i : Nat) : (s.modQueue n f).peer i = s.peer i := rfl
@[simp] theorem State.modQueue_get_plan (n : Nat) (f : Queue → Queue) (i : Nat) : (s.modQueue n f).plan i = s.plan i := rfl
@[simp] theorem State.modQueue_get_launch (n : Nat) (f : Queue → Queue) (i : Nat) : (s.modQueue n f).launch i = s.launch i := rfl

@[simp] theorem State.modSlot_get_core (n : Nat) (f : Slot → Slot) (i : Nat) : (s.modSlot n f).core i = s.core i := rfl
@[simp] theorem State.modSlot_get_cluster (n : Nat) (f : Slot → Slot) (i : Nat) : (s.modSlot n f).cluster i = s.cluster i := rfl
@[simp] theorem State.modSlot_get_ctlCore (n : Nat) (f : Slot → Slot) (i : Nat) : (s.modSlot n f).ctlCore i = s.ctlCore i := rfl
@[simp] theorem State.modSlot_get_ctx (n : Nat) (f : Slot → Slot) (i : Nat) : (s.modSlot n f).ctx i = s.ctx i := rfl
@[simp] theorem State.modSlot_get_queue (n : Nat) (f : Slot → Slot) (i : Nat) : (s.modSlot n f).queue i = s.queue i := rfl
@[simp] theorem State.modSlot_get_tally (n : Nat) (f : Slot → Slot) (i : Nat) : (s.modSlot n f).tally i = s.tally i := rfl
@[simp] theorem State.modSlot_get_port (n : Nat) (f : Slot → Slot) (i : Nat) : (s.modSlot n f).port i = s.port i := rfl
@[simp] theorem State.modSlot_get_session (n : Nat) (f : Slot → Slot) (i : Nat) : (s.modSlot n f).session i = s.session i := rfl
@[simp] theorem State.modSlot_get_conn (n : Nat) (f : Slot → Slot) (i : Nat) : (s.modSlot n f).conn i = s.conn i := rfl
@[simp] theorem State.modSlot_get_peer (n : Nat) (f : Slot → Slot) (i : Nat) : (s.modSlot n f).peer i = s.peer i := rfl
@[simp] theorem State.modSlot_get_plan (n : Nat) (f : Slot → Slot) (i : Nat) : (s.modSlot n f).plan i = s.plan i := rfl
@[simp] theorem State.modSlot_get_launch (n : Nat) (f : Slot → Slot) (i : Nat) : (s.modSlot n f).launch i = s.launch i := rfl

@[simp] theorem State.modTally_get_core (n : Nat) (f : Tally → Tally) (i : Nat) : (s.modTally n f).core i = s.core i := rfl
@[simp] theorem State.modTally_get_cluster (n : Nat) (f : Tally → Tally) (i : Nat) : (s.modTally n f).cluster i = s.cluster i := rfl
@[simp] theorem State.modTally_get_ctlCore (n : Nat) (f : Tally → Tally) (i : Nat) : (s.modTally n f).ctlCore i = s.ctlCore i := rfl
@[simp] theorem State.modTally_get_ctx (n : Nat) (f : Tally → Tally) (i : Nat) : (s.modTally n f).ctx i = s.ctx i := rfl
@[simp] theorem State.modTally_get_queue (n : Nat) (f : Tally → Tally) (i : Nat) : (s.modTally n f).queue i = s.queue i := rfl
@[simp] theorem State.modTally_get_slot (n : Nat) (f : Tally → Tally) (i : Nat) : (s.modTally n f).slot i = s.slot i := rfl
@[simp] theorem State.modTally_get_port (n : Nat) (f : Tally → Tally) (i : Nat) : (s.modTally n f).port i = s.port i := rfl
@[simp] theorem State.modTally_get_session (n : Nat) (f : Tally → Tally) (i : Nat) : (s.modTally n f).session i = s.session i := rfl
@[simp] theorem State.modTally_get_conn (n : Nat) (f : Tally → Tally) (i : Nat) : (s.modTally n f).conn i = s.conn i := rfl
@[simp] theorem State.modTally_get_peer (n : Nat) (f : Tally → Tally) (i : Nat) : (s.modTally n f).peer i = s.peer i := rfl
@[simp] theorem State.modTally_get_plan (n : Nat) (f : Tally → Tally) (i : Nat) : (s.modTally n f).plan i = s.plan i := rfl
@[simp] theorem State.modTally_get_launch (n : Nat) (f : Tally → Tally) (i : Nat) : (s.modTally n f).launch i = s.launch i := rfl

@[simp] theorem State.modPort_get_core (n : Nat) (f : Port → Port) (i : Nat) : (s.modPort n f).core i = s.core i := rfl
@[simp] theorem State.modPort_get_cluster (n : Nat) (f : Port → Port) (i : Nat) : (s.modPort n f).cluster i = s.cluster i := rfl
@[simp] theorem State.modPort_get_ctlCore (n : Nat) (f : Port → Port) (i : Nat) : (s.modPort n f).ctlCore i = s.ctlCore i := rfl
@[simp] theorem State.modPort_get_ctx (n : Nat) (f : Port → Port) (i : Nat) : (s.modPort n f).ctx i = s.ctx i := rfl
@[simp] theorem State.modPort_get_queue (n : Nat) (f : Port → Port) (i : Nat) : (s.modPort n f).queue i = s.queue i := rfl
@[simp] theorem State.modPort_get_slot (n : Nat) (f : Port → Port) (i : Nat) : (s.modPort n f).slot i = s.slot i := rfl
@[simp] theorem State.modPort_get_tally (n : Nat) (f : Port → Port) (i : Nat) : (s.modPort n f).tally i = s.tally i := rfl
@[simp] theorem State.modPort_get_session (n : Nat) (f : Port → Port) (i : Nat) : (s.modPort n f).session i = s.session i := rfl
@[simp] theorem State.modPort_get_conn (n : Nat) (f : Port → Port) (i : Nat) : (s.modPort n f).conn i = s.conn i := rfl
@[simp] theorem State.modPort_get_peer (n : Nat) (f : Port → Port) (i : Nat) : (s.modPort n f).peer i = s.peer i := rfl
@[simp] theorem State.modPort_get_plan (n : Nat) (f : Port → Port) (i : Nat) : (s.modPort n f).plan i = s.plan i := rfl
@[simp] theorem State.modPort_get_launch (n : Nat) (f : Port → Port) (i : Nat) : (s.modPort n f).launch i = s.launch i := rfl

@[simp] theorem State.setSession_get_core (n : Nat) (v : Option Session) (i : Nat) : (s.setSession n v).core i = s.core i := rfl
@[simp] theorem State.setSession_get_cluster (n : Nat) (v : Option Session) (i : Nat) : (s.setSession n v).cluster i = s.cluster i := rfl
@[simp] theorem State.setSession_get_ctlCore (n : Nat) (v : Option Session) (i : Nat) : (s.setSession n v).ctlCore i = s.ctlCore i := rfl
@[simp] theorem State.setSession_get_ctx (n : Nat) (v : Option Session) (i : Nat) : (s.setSession n v).ctx i = s.ctx i := rfl
@[simp] theorem State.setSession_get_queue (n : Nat) (v : Option Session) (i : Nat) : (s.setSession n v).queue i = s.queue i := rfl
@[simp] theorem State.setSession_get_slot (n : Nat) (v : Option Session) (i : Nat) : (s.setSession n v).slot i = s.slot i := rfl
@[simp] theorem State.setSession_get_tally (n : Nat) (v : Option Session) (i : Nat) : (s.setSession n v).tally i = s.tally i := rfl
@[simp] theorem State.setSession_get_port (n : Nat) (v : Option Session) (i : Nat) : (s.setSession n v).port i = s.port i := rfl
@[simp] theorem State.setSession_get_conn (n : Nat) (v : Option Session) (i : Nat) : (s.setSession n v).conn i = s.conn i := rfl
@[simp] theorem State.setSession_get_peer (n : Nat) (v : Option Session) (i : Nat) : (s.setSession n v).peer i = s.peer i := rfl
@[simp] theorem State.setSession_get_plan (n : Nat) (v : Option Session) (i : Nat) : (s.setSession n v).plan i = s.plan i := rfl
@[simp] theorem State.setSession_get_launch (n : Nat) (v : Option Session) (i : Nat) : (s.setSession n v).launch i = s.launch i := rfl

@[simp] theorem State.setConn_get_core (n : Nat) (v : Option Conn) (i : Nat) : (s.setConn n v).core i = s.core i := rfl
@[simp] theorem State.setConn_get_cluster (n : Nat) (v : Option Conn) (i : Nat) : (s.setConn n v).cluster i = s.cluster i := rfl
@[simp] theorem State.setConn_get_ctlCore (n : Nat) (v : Option Conn) (i : Nat) : (s.setConn n v).ctlCore i = s.ctlCore i := rfl
@[simp] theorem State.setConn_get_ctx (n : Nat) (v : Option Conn) (i : Nat) : (s.setConn n v).ctx i = s.ctx i := rfl
@[simp] theorem State.setConn_get_queue (n : Nat) (v : Option Conn) (i : Nat) : (s.setConn n v).queue i = s.queue i := rfl
@[simp] theorem State.setConn_get_slot (n : Nat) (v : Option Conn) (i : Nat) : (s.setConn n v).slot i = s.slot i := rfl
@[simp] theorem State.setConn_get_tally (n : Nat) (v : Option Conn) (i : Nat) : (s.setConn n v).tally i = s.tally i := rfl
@[simp] theorem State.setConn_get_port (n : Nat) (v : Option Conn) (i : Nat) : (s.setConn n v).port i = s.port i := rfl
@[simp] theorem State.setConn_get_session (n : Nat) (v : Option Conn) (i : Nat) : (s.setConn n v).session i = s.session i := rfl
@[simp] theorem State.setConn_get_peer (n : Nat) (v : Option Conn) (i : Nat) : (s.setConn n v).peer i = s.peer i := rfl
@[simp] theorem State.setConn_get_plan (n : Nat) (v : Option Conn) (i : Nat) : (s.setConn n v).plan i = s.plan i := rfl
@[simp] theorem State.setConn_get_launch (n : Nat) (v : Option Conn) (i : Nat) : (s.setConn n v).launch i = s.launch i := rfl

@[simp] theorem State.modPeer_get_core (n : Nat) (f : Peer → Peer) (i : Nat) : (s.modPeer n f).core i = s.core i := rfl
@[simp] theorem State.modPeer_get_cluster (n : Nat) (f : Peer → Peer) (i : Nat) : (s.modPeer n f).cluster i = s.cluster i := rfl
@[simp] theorem State.modPeer_get_ctlCore (n : Nat) (f : Peer → Peer) (i : Nat) : (s.modPeer n f).ctlCore i = s.ctlCore i := rfl
@[simp] theorem State.modPeer_get_ctx (n : Nat) (f : Peer → Peer) (i : Nat) : (s.modPeer n f).ctx i = s.ctx i := rfl
@[simp] theorem State.modPeer_get_queue (n : Nat) (f : Peer → Peer) (i : Nat) : (s.modPeer n f).queue i = s.queue i := rfl
@[simp] theorem State.modPeer_get_slot (n : Nat) (f : Peer → Peer) (i : Nat) : (s.modPeer n f).slot i = s.slot i := rfl
@[simp] theorem State.modPeer_get_tally (n : Nat) (f : Peer → Peer) (i : Nat) : (s.modPeer n f).tally i = s.tally i := rfl
@[simp] theorem State.modPeer_get_port (n : Nat) (f : Peer → Peer) (i : Nat) : (s.modPeer n f).port i = s.port i := rfl
@[simp] theorem State.modPeer_get_session (n : Nat) (f : Peer → Peer) (i : Nat) : (s.modPeer n f).session i = s.session i := rfl
@[simp] theorem State.modPeer_get_conn (n : Nat) (f : Peer → Peer) (i : Nat) : (s.modPeer n f).conn i = s.conn i := rfl
@[simp] theorem State.modPeer_get_plan (n : Nat) (f : Peer → Peer) (i : Nat) : (s.modPeer n f).plan i = s.plan i := rfl
@[simp] theorem State.modPeer_get_launch (n : Nat) (f : Peer → Peer) (i : Nat) : (s.modPeer n f).launch i = s.launch i := rfl

@[simp] theorem State.modChan_get_core (n p : Nat) (f : Chan → Chan) (i : Nat) : (s.modChan n p f).core i = s.core i := rfl
@[simp] theorem State.modChan_get_cluster (n p : Nat) (f : Chan → Chan) (i : Nat) : (s.modChan n p f).cluster i = s.cluster i := rfl
@[simp] theorem State.modChan_get_ctlCore (n p : Nat) (f : Chan → Chan) (i : Nat) : (s.modChan n p f).ctlCore i = s.ctlCore i := rfl
@[simp] theorem State.modChan_get_ctx (n p : Nat) (f : Chan → Chan) (i : Nat) : (s.modChan n p f).ctx i = s.ctx i := rfl
@[simp] theorem State.modChan_get_queue (n p : Nat) (f : Chan → Chan) (i : Nat) : (s.modChan n p f).queue i = s.queue i := rfl
@[simp] theorem State.modChan_get_slot (n p : Nat) (f : Chan → Chan) (i : Nat) : (s.modChan n p f).slot i = s.slot i := rfl
@[simp] theorem State.modChan_get_tally (n p : Nat) (f : Chan → Chan) (i : Nat) : (s.modChan n p f).tally i = s.tally i := rfl
@[simp] theorem State.modChan_get_port (n p : Nat) (f : Chan → Chan) (i : Nat) : (s.modChan n p f).port i = s.port i := rfl
@[simp] theorem State.modChan_get_session (n p : Nat) (f : Chan → Chan) (i : Nat) : (s.modChan n p f).session i = s.session i := rfl
@[simp] theorem State.modChan_get_conn (n p : Nat) (f : Chan → Chan) (i : Nat) : (s.modChan n p f).conn i = s.conn i := rfl
@[simp] theorem State.modChan_get_plan (n p : Nat) (f : Chan → Chan) (i : Nat) : (s.modChan n p f).plan i = s.plan i := rfl
@[simp] theorem State.modChan_get_launch (n p : Nat) (f : Chan → Chan) (i : Nat) : (s.modChan n p f).launch i = s.launch i := rfl

@[simp] theorem State.modPlan_get_core (n : Nat) (f : Plan → Plan) (i : Nat) : (s.modPlan n f).core i = s.core i := rfl
@[simp] theorem State.modPlan_get_cluster (n : Nat) (f : Plan → Plan) (i : Nat) : (s.modPlan n f).cluster i = s.cluster i := rfl
@[simp] theorem State.modPlan_get_ctlCore (n : Nat) (f : Plan → Plan) (i : Nat) : (s.modPlan n f).ctlCore i = s.ctlCore i := rfl
@[simp] theorem State.modPlan_get_ctx (n : Nat) (f : Plan → Plan) (i : Nat) : (s.modPlan n f).ctx i = s.ctx i := rfl
@[simp] theorem State.modPlan_get_queue (n : Nat) (f : Plan → Plan) (i : Nat) : (s.modPlan n f).queue i = s.queue i := rfl
@[simp] theorem State.modPlan_get_slot (n : Nat) (f : Plan → Plan) (i : Nat) : (s.modPlan n f).slot i = s.slot i := rfl
@[simp] theorem State.modPlan_get_tally (n : Nat) (f : Plan → Plan) (i : Nat) : (s.modPlan n f).tally i = s.tally i := rfl
@[simp] theorem State.modPlan_get_port (n : Nat) (f : Plan → Plan) (i : Nat) : (s.modPlan n f).port i = s.port i := rfl
@[simp] theorem State.modPlan_get_session (n : Nat) (f : Plan → Plan) (i : Nat) : (s.modPlan n f).session i = s.session i := rfl
@[simp] theorem State.modPlan_get_conn (n : Nat) (f : Plan → Plan) (i : Nat) : (s.modPlan n f).conn i = s.conn i := rfl
@[simp] theorem State.modPlan_get_peer (n : Nat) (f : Plan → Plan) (i : Nat) : (s.modPlan n f).peer i = s.peer i := rfl
@[simp] theorem State.modPlan_get_launch (n : Nat) (f : Plan → Plan) (i : Nat) : (s.modPlan n f).launch i = s.launch i := rfl

@[simp] theorem State.setLaunch_get_core (n : Nat) (v : Option Launch) (i : Nat) : (s.setLaunch n v).core i = s.core i := rfl
@[simp] theorem State.setLaunch_get_cluster (n : Nat) (v : Option Launch) (i : Nat) : (s.setLaunch n v).cluster i = s.cluster i := rfl
@[simp] theorem State.setLaunch_get_ctlCore (n : Nat) (v : Option Launch) (i : Nat) : (s.setLaunch n v).ctlCore i = s.ctlCore i := rfl
@[simp] theorem State.setLaunch_get_ctx (n : Nat) (v : Option Launch) (i : Nat) : (s.setLaunch n v).ctx i = s.ctx i := rfl
@[simp] theorem State.setLaunch_get_queue (n : Nat) (v : Option Launch) (i : Nat) : (s.setLaunch n v).queue i = s.queue i := rfl
@[simp] theorem State.setLaunch_get_slot (n : Nat) (v : Option Launch) (i : Nat) : (s.setLaunch n v).slot i = s.slot i := rfl
@[simp] theorem State.setLaunch_get_tally (n : Nat) (v : Option Launch) (i : Nat) : (s.setLaunch n v).tally i = s.tally i := rfl
@[simp] theorem State.setLaunch_get_port (n : Nat) (v : Option Launch) (i : Nat) : (s.setLaunch n v).port i = s.port i := rfl
@[simp] theorem State.setLaunch_get_session (n : Nat) (v : Option Launch) (i : Nat) : (s.setLaunch n v).session i = s.session i := rfl
@[simp] theorem State.setLaunch_get_conn (n : Nat) (v : Option Launch) (i : Nat) : (s.setLaunch n v).conn i = s.conn i := rfl
@[simp] theorem State.setLaunch_get_peer (n : Nat) (v : Option Launch) (i : Nat) : (s.setLaunch n v).peer i = s.peer i := rfl
@[simp] theorem State.setLaunch_get_plan (n : Nat) (v : Option Launch) (i : Nat) : (s.setLaunch n v).plan i = s.plan i := rfl

@[simp] theorem State.setGroup_get_cluster (c k : Nat) (g : Option Group) (i : Nat) : (s.setGroup c k g).cluster i = s.cluster i := rfl
@[simp] theorem State.setGroup_get_ctlCore (c k : Nat) (g : Option Group) (i : Nat) : (s.setGroup c k g).ctlCore i = s.ctlCore i := rfl
@[simp] theorem State.setGroup_get_ctx (c k : Nat) (g : Option Group) (i : Nat) : (s.setGroup c k g).ctx i = s.ctx i := rfl
@[simp] theorem State.setGroup_get_queue (c k : Nat) (g : Option Group) (i : Nat) : (s.setGroup c k g).queue i = s.queue i := rfl
@[simp] theorem State.setGroup_get_slot (c k : Nat) (g : Option Group) (i : Nat) : (s.setGroup c k g).slot i = s.slot i := rfl
@[simp] theorem State.setGroup_get_tally (c k : Nat) (g : Option Group) (i : Nat) : (s.setGroup c k g).tally i = s.tally i := rfl
@[simp] theorem State.setGroup_get_port (c k : Nat) (g : Option Group) (i : Nat) : (s.setGroup c k g).port i = s.port i := rfl
@[simp] theorem State.setGroup_get_session (c k : Nat) (g : Option Group) (i : Nat) : (s.setGroup c k g).session i = s.session i := rfl
@[simp] theorem State.setGroup_get_conn (c k : Nat) (g : Option Group) (i : Nat) : (s.setGroup c k g).conn i = s.conn i := rfl
@[simp] theorem State.setGroup_get_peer (c k : Nat) (g : Option Group) (i : Nat) : (s.setGroup c k g).peer i = s.peer i := rfl
@[simp] theorem State.setGroup_get_plan (c k : Nat) (g : Option Group) (i : Nat) : (s.setGroup c k g).plan i = s.plan i := rfl
@[simp] theorem State.setGroup_get_launch (c k : Nat) (g : Option Group) (i : Nat) : (s.setGroup c k g).launch i = s.launch i := rfl

@[simp] theorem State.modStreamer_get_cluster (c n : Nat) (f : Streamer → Streamer) (i : Nat) : (s.modStreamer c n f).cluster i = s.cluster i := rfl
@[simp] theorem State.modStreamer_get_ctlCore (c n : Nat) (f : Streamer → Streamer) (i : Nat) : (s.modStreamer c n f).ctlCore i = s.ctlCore i := rfl
@[simp] theorem State.modStreamer_get_ctx (c n : Nat) (f : Streamer → Streamer) (i : Nat) : (s.modStreamer c n f).ctx i = s.ctx i := rfl
@[simp] theorem State.modStreamer_get_queue (c n : Nat) (f : Streamer → Streamer) (i : Nat) : (s.modStreamer c n f).queue i = s.queue i := rfl
@[simp] theorem State.modStreamer_get_slot (c n : Nat) (f : Streamer → Streamer) (i : Nat) : (s.modStreamer c n f).slot i = s.slot i := rfl
@[simp] theorem State.modStreamer_get_tally (c n : Nat) (f : Streamer → Streamer) (i : Nat) : (s.modStreamer c n f).tally i = s.tally i := rfl
@[simp] theorem State.modStreamer_get_port (c n : Nat) (f : Streamer → Streamer) (i : Nat) : (s.modStreamer c n f).port i = s.port i := rfl
@[simp] theorem State.modStreamer_get_session (c n : Nat) (f : Streamer → Streamer) (i : Nat) : (s.modStreamer c n f).session i = s.session i := rfl
@[simp] theorem State.modStreamer_get_conn (c n : Nat) (f : Streamer → Streamer) (i : Nat) : (s.modStreamer c n f).conn i = s.conn i := rfl
@[simp] theorem State.modStreamer_get_peer (c n : Nat) (f : Streamer → Streamer) (i : Nat) : (s.modStreamer c n f).peer i = s.peer i := rfl
@[simp] theorem State.modStreamer_get_plan (c n : Nat) (f : Streamer → Streamer) (i : Nat) : (s.modStreamer c n f).plan i = s.plan i := rfl
@[simp] theorem State.modStreamer_get_launch (c n : Nat) (f : Streamer → Streamer) (i : Nat) : (s.modStreamer c n f).launch i = s.launch i := rfl

@[simp] theorem State.modMx_get_cluster (c : Nat) (f : MxEngine → MxEngine) (i : Nat) : (s.modMx c f).cluster i = s.cluster i := rfl
@[simp] theorem State.modMx_get_ctlCore (c : Nat) (f : MxEngine → MxEngine) (i : Nat) : (s.modMx c f).ctlCore i = s.ctlCore i := rfl
@[simp] theorem State.modMx_get_ctx (c : Nat) (f : MxEngine → MxEngine) (i : Nat) : (s.modMx c f).ctx i = s.ctx i := rfl
@[simp] theorem State.modMx_get_queue (c : Nat) (f : MxEngine → MxEngine) (i : Nat) : (s.modMx c f).queue i = s.queue i := rfl
@[simp] theorem State.modMx_get_slot (c : Nat) (f : MxEngine → MxEngine) (i : Nat) : (s.modMx c f).slot i = s.slot i := rfl
@[simp] theorem State.modMx_get_tally (c : Nat) (f : MxEngine → MxEngine) (i : Nat) : (s.modMx c f).tally i = s.tally i := rfl
@[simp] theorem State.modMx_get_port (c : Nat) (f : MxEngine → MxEngine) (i : Nat) : (s.modMx c f).port i = s.port i := rfl
@[simp] theorem State.modMx_get_session (c : Nat) (f : MxEngine → MxEngine) (i : Nat) : (s.modMx c f).session i = s.session i := rfl
@[simp] theorem State.modMx_get_conn (c : Nat) (f : MxEngine → MxEngine) (i : Nat) : (s.modMx c f).conn i = s.conn i := rfl
@[simp] theorem State.modMx_get_peer (c : Nat) (f : MxEngine → MxEngine) (i : Nat) : (s.modMx c f).peer i = s.peer i := rfl
@[simp] theorem State.modMx_get_plan (c : Nat) (f : MxEngine → MxEngine) (i : Nat) : (s.modMx c f).plan i = s.plan i := rfl
@[simp] theorem State.modMx_get_launch (c : Nat) (f : MxEngine → MxEngine) (i : Nat) : (s.modMx c f).launch i = s.launch i := rfl

@[simp] theorem State.modAccess_get_core (n : Nat) (f : Access → Access) (i : Nat) : (s.modAccess n f).core i = s.core i := rfl
@[simp] theorem State.modAccess_get_cluster (n : Nat) (f : Access → Access) (i : Nat) : (s.modAccess n f).cluster i = s.cluster i := rfl
@[simp] theorem State.modAccess_get_ctlCore (n : Nat) (f : Access → Access) (i : Nat) : (s.modAccess n f).ctlCore i = s.ctlCore i := rfl
@[simp] theorem State.modAccess_get_ctx (n : Nat) (f : Access → Access) (i : Nat) : (s.modAccess n f).ctx i = s.ctx i := rfl
@[simp] theorem State.modAccess_get_queue (n : Nat) (f : Access → Access) (i : Nat) : (s.modAccess n f).queue i = s.queue i := rfl
@[simp] theorem State.modAccess_get_slot (n : Nat) (f : Access → Access) (i : Nat) : (s.modAccess n f).slot i = s.slot i := rfl
@[simp] theorem State.modAccess_get_tally (n : Nat) (f : Access → Access) (i : Nat) : (s.modAccess n f).tally i = s.tally i := rfl
@[simp] theorem State.modAccess_get_port (n : Nat) (f : Access → Access) (i : Nat) : (s.modAccess n f).port i = s.port i := rfl
@[simp] theorem State.modAccess_get_session (n : Nat) (f : Access → Access) (i : Nat) : (s.modAccess n f).session i = s.session i := rfl
@[simp] theorem State.modAccess_get_conn (n : Nat) (f : Access → Access) (i : Nat) : (s.modAccess n f).conn i = s.conn i := rfl
@[simp] theorem State.modAccess_get_peer (n : Nat) (f : Access → Access) (i : Nat) : (s.modAccess n f).peer i = s.peer i := rfl
@[simp] theorem State.modAccess_get_plan (n : Nat) (f : Access → Access) (i : Nat) : (s.modAccess n f).plan i = s.plan i := rfl
@[simp] theorem State.modAccess_get_launch (n : Nat) (f : Access → Access) (i : Nat) : (s.modAccess n f).launch i = s.launch i := rfl

@[simp] theorem State.dropAccess_get_core (n : Nat) (i : Nat) : (s.dropAccess n).core i = s.core i := rfl
@[simp] theorem State.dropAccess_get_cluster (n : Nat) (i : Nat) : (s.dropAccess n).cluster i = s.cluster i := rfl
@[simp] theorem State.dropAccess_get_ctlCore (n : Nat) (i : Nat) : (s.dropAccess n).ctlCore i = s.ctlCore i := rfl
@[simp] theorem State.dropAccess_get_ctx (n : Nat) (i : Nat) : (s.dropAccess n).ctx i = s.ctx i := rfl
@[simp] theorem State.dropAccess_get_queue (n : Nat) (i : Nat) : (s.dropAccess n).queue i = s.queue i := rfl
@[simp] theorem State.dropAccess_get_slot (n : Nat) (i : Nat) : (s.dropAccess n).slot i = s.slot i := rfl
@[simp] theorem State.dropAccess_get_tally (n : Nat) (i : Nat) : (s.dropAccess n).tally i = s.tally i := rfl
@[simp] theorem State.dropAccess_get_port (n : Nat) (i : Nat) : (s.dropAccess n).port i = s.port i := rfl
@[simp] theorem State.dropAccess_get_session (n : Nat) (i : Nat) : (s.dropAccess n).session i = s.session i := rfl
@[simp] theorem State.dropAccess_get_conn (n : Nat) (i : Nat) : (s.dropAccess n).conn i = s.conn i := rfl
@[simp] theorem State.dropAccess_get_peer (n : Nat) (i : Nat) : (s.dropAccess n).peer i = s.peer i := rfl
@[simp] theorem State.dropAccess_get_plan (n : Nat) (i : Nat) : (s.dropAccess n).plan i = s.plan i := rfl
@[simp] theorem State.dropAccess_get_launch (n : Nat) (i : Nat) : (s.dropAccess n).launch i = s.launch i := rfl

/-- A group read back after it is set, in a core whose maps are canonical. -/
theorem State.group_setGroup {c k d j : Nat} {g : Option Group} (hc : swf (fun _ => Core.idle) s.cores = true)
    (hg : swf (fun _ => none) (s.core c).work.groups = true) :
    (s.setGroup c k g).group d j = if d = c ∧ j = k then g else s.group d j := by
  unfold State.group State.setGroup State.modWork
  rw [State.core_modCore s hc]
  by_cases hd : d = c
  · subst hd
    simp only [if_true, true_and]
    exact oget_oput hg
  · simp [hd]

end Sys2Proof.Machine
end

