-- ==== Sys2Proof/Laws/Canonical.lean ====
section
/-! SUPPORT. A test of the canonical form that computes, and that a state which passes it is Canonical. -/

namespace Sys2Proof.Machine

/-- `GroupCanonical` as a test. -/
def groupCanonicalB (g : Group) : Bool :=
  swf (fun _ => (0 : Word)) g.v && swf (fun _ => (0 : Word)) g.u && swf (fun _ => (0 : Byte)) g.p && swf (fun _ => none) g.res

/-- `MxCanonical` as a test. -/
def mxCanonicalB (x : MxEngine) : Bool :=
  swf (fun _ => (0 : Word)) x.acc && swf (fun _ => (0 : Byte)) x.bufA && swf (fun _ => (0 : Byte)) x.bufB &&
  swf (fun _ => (0 : Byte)) x.tbl && swf (fun _ => (0 : Byte)) x.scl && swf (fun _ => false) x.poiA && swf (fun _ => false) x.poiB &&
  swf (fun _ => false) x.poiTbl && swf (fun _ => false) x.poiScl

/-- `WorkCanonical` as a test. -/
def workCanonicalB (w : CoreWork) : Bool :=
  swf (fun _ => none) w.groups && w.groups.all (fun e => e.2.all groupCanonicalB) && swf (fun _ => none) w.blocks &&
  swf (fun _ => (0 : Byte)) w.ls && swf (fun _ => false) w.lsPoison && mxCanonicalB w.mx && swf (fun _ => Streamer.idle) w.ts

/-- `CoreCanonical` as a test. -/
def coreCanonicalB (k : Core) : Bool :=
  workCanonicalB k.work && k.saved.all workCanonicalB && swf (fun _ => L1Line.none) k.l1 &&
  swf (fun _ => ([] : List (Nat × Nat))) k.reuse && swf (fun _ => (0 : Nat)) k.lastCost && swf (fun _ => (0 : Nat)) k.portCost &&
  k.misses.all fun m => swf (fun _ => none) m.overlay

/-- `CtlCanonical` as a test. -/
def ctlCanonicalB (k : CtlCore) : Bool := swf (fun _ => none) k.icache.lines && swf (fun _ => none) k.dcache.lines

/-- `HealthCanonical` as a test. -/
def healthCanonicalB (d : Dram) : Bool :=
  swf (fun _ => none) d.scrub && swf (fun _ => (0 : Nat)) d.passes && swf (fun _ => (0 : Nat)) d.ueLog &&
  swf (fun _ => (0 : Nat)) d.layerCorrected && swf (fun _ => false) d.doubled && swf (fun _ => (0 : Nat)) d.refreshes &&
  swf (fun _ => false) d.lastRefresh && swf (fun _ => none) d.out

/-- `Canonical` as a test, but for DRAM itself. -/
def canonicalB (s : State) : Bool :=
  healthCanonicalB s.dram && swf (fun _ => Core.idle) s.cores && s.cores.all (fun e => coreCanonicalB e.2) &&
  swf (fun _ => Cluster.empty) s.clusters && s.clusters.all (fun e => swf (fun _ => CcLine.none) e.2.lines) &&
  swf (fun _ => Ctx.fresh) s.ctxs && swf (fun _ => Tally.free) s.hub.tallies && swf (fun _ => none) s.hub.channels &&
  swf (fun _ => false) s.hub.phases && swf (fun _ => Queue.disabled) s.desk.queues && swf (fun _ => Slot.reset) s.desk.slots &&
  swf (fun _ => none) s.desk.launches && swf (fun _ => (0 : Byte)) s.desk.control && swf Carrel.default s.xlat.carrels &&
  swf (fun _ => ([] : List Leaf)) s.xlat.leaves && swf (fun _ => ([] : List Run)) s.xlat.runs &&
  swf (fun _ => (0 : Nat)) s.xlat.mapCount && swf (fun _ => ([] : List Nat)) s.xlat.dirty && swf (fun _ => none) s.xlat.records &&
  swf Port.reset s.ports.ports && swf (fun _ => none) s.ports.sessions && swf (fun _ => none) s.ports.closedAt &&
  swf (fun _ => none) s.ports.conns && swf (fun _ => Peer.unused) s.ports.peers &&
  s.ports.peers.all (fun e => swf (fun _ => Chan.fresh) e.2.chans) && swf (fun _ => Plan.unused) s.plans.plans &&
  s.ports.ports.all (fun e => swf (fun _ => (0 : Nat)) e.2.paused) && swf (fun _ => (0 : BitVec 256)) s.ports.allow &&
  swf (fun _ => Holder.none) s.ports.staging && swf (fun _ => (0 : Nat)) s.power.stepDone &&
  swf (fun _ => (0 : Word)) s.power.layerTemps && swf (fun _ => (0 : BitVec 256)) s.folio.trusted &&
  swf (fun _ => ([] : List DigestReq)) s.folio.digests && swf (fun _ => (([] : List Byte), false)) s.folio.lastDigest &&
  swf (fun _ => CtlCore.empty) s.ctl && s.ctl.all (fun e => ctlCanonicalB e.2) && swf (fun _ => none) s.xlat.cache &&
  swf (fun _ => (0 : BitVec 16)) s.xlat.trees && swf (fun _ => ([] : List XEntry)) s.xlat.buffers &&
  s.ports.ports.all (fun e => swf (fun _ => (0 : Nat)) e.2.rxLevel)

/-- What holds of the default and of every listed value holds of every value read. -/
theorem sget_all {α : Type} {d : Nat → α} (P : α → Prop) (hd : ∀ k, P (d k)) {m : List (Nat × α)} (h : ∀ e ∈ m, P e.2) (k : Nat) :
    P (sget d m k) := by
  induction m with
  | nil => exact hd k
  | cons e m ih =>
    obtain ⟨j, v⟩ := e
    unfold sget
    split
    · exact h (j, v) (by simp)
    · split
      · exact hd k
      · exact ih fun e he => h e (by simp [he])

theorem groupCanonicalB_sound {g : Group} (h : groupCanonicalB g = true) : GroupCanonical g := by
  simp only [groupCanonicalB, Bool.and_eq_true] at h
  exact ⟨h.1.1.1, h.1.1.2, h.1.2, h.2⟩

theorem mxCanonicalB_sound {x : MxEngine} (h : mxCanonicalB x = true) : MxCanonical x := by
  simp only [mxCanonicalB, Bool.and_eq_true] at h
  obtain ⟨⟨⟨⟨⟨⟨⟨⟨a, b⟩, c⟩, d⟩, e⟩, f⟩, g⟩, i⟩, j⟩ := h
  exact ⟨a, b, c, d, e, f, g, i, j⟩

theorem workCanonicalB_sound {w : CoreWork} (h : workCanonicalB w = true) : WorkCanonical w := by
  simp only [workCanonicalB, Bool.and_eq_true] at h
  obtain ⟨⟨⟨⟨⟨⟨a, b⟩, c⟩, d⟩, e⟩, f⟩, g⟩ := h
  refine ⟨a, fun k x hk => ?_, c, d, e, mxCanonicalB_sound f, g⟩
  have := sget_all (fun o : Option Group => ∀ x, o = some x → GroupCanonical x) (d := fun _ => none) (by simp)
    (m := w.groups) (fun e he x hx => groupCanonicalB_sound (by have := List.all_eq_true.1 b e he; simpa [hx] using this)) k
  exact this x hk

theorem coreCanonicalB_sound {k : Core} (h : coreCanonicalB k = true) : CoreCanonical k := by
  simp only [coreCanonicalB, Bool.and_eq_true] at h
  obtain ⟨⟨⟨⟨⟨⟨a, b⟩, c⟩, d⟩, e⟩, f⟩, g⟩ := h
  exact ⟨workCanonicalB_sound a, fun w hw => workCanonicalB_sound (List.all_eq_true.1 b w hw), c, d, e, f,
    fun m hm => List.all_eq_true.1 g m hm⟩

theorem ctlCanonicalB_sound {k : CtlCore} (h : ctlCanonicalB k = true) : CtlCanonical k := by
  simp only [ctlCanonicalB, Bool.and_eq_true] at h
  exact ⟨h.1, h.2⟩

/-- A core that no launch holds is canonical. -/
theorem coreIdle_canonical : CoreCanonical Core.idle := coreCanonicalB_sound rfl

/-- A state that passes the test, with canonical DRAM, is Canonical. -/
theorem canonicalB_sound {s : State} (hm : Memory.wf s.dram) (hc : Memory.checksWf s.dram) (h : canonicalB s = true) : Canonical s := by
  simp only [canonicalB, healthCanonicalB, Bool.and_eq_true] at h
  obtain ⟨⟨⟨⟨⟨⟨⟨⟨⟨⟨⟨⟨⟨⟨⟨⟨⟨⟨⟨⟨⟨⟨⟨⟨⟨⟨⟨⟨⟨⟨⟨⟨⟨⟨⟨⟨⟨⟨⟨hh, a1⟩, a2⟩, a3⟩, a4⟩, a5⟩, a6⟩, a7⟩, a8⟩, a9⟩, b1⟩, b2⟩, b3⟩, b4⟩, b5⟩, b6⟩, b7⟩,
    b8⟩, b9⟩, c1⟩, c2⟩, c3⟩, c4⟩, c5⟩, c6⟩, c7⟩, c8⟩, c9⟩, d1⟩, d2⟩, d3⟩, d4⟩, d5⟩, d6⟩, e1⟩, e2⟩, e3⟩, e4⟩, e5⟩, e6⟩ := h
  obtain ⟨⟨⟨⟨⟨⟨⟨h1, h2⟩, h3⟩, h4⟩, h5⟩, h6⟩, h7⟩, h8⟩ := hh
  exact
    { memory := hm, checks := hc, health := ⟨h1, h2, h3, h4, h5, h6, h7, h8⟩, cores := a1,
      core := sget_all CoreCanonical (fun _ => coreIdle_canonical) fun e he => coreCanonicalB_sound (List.all_eq_true.1 a2 e he),
      clusters := a3, lines := sget_all (fun c : Cluster => swf (fun _ => CcLine.none) c.lines = true) (fun _ => rfl)
        fun e he => List.all_eq_true.1 a4 e he,
      ctxs := a5, tallies := a6, channels := a7, phases := a8, queues := a9, slots := b1, launches := b2, control := b3,
      carrels := b4, leaves := b5, runs := b6, mapCount := b7, dirty := b8, records := b9, ports := c1, sessions := c2,
      closedAt := c3, conns := c4, peers := c5,
      channels' := sget_all (fun p : Peer => swf (fun _ => Chan.fresh) p.chans = true) (fun _ => rfl)
        fun e he => List.all_eq_true.1 c6 e he,
      plans := c7, paused := sget_all (fun p : Port => swf (fun _ => (0 : Nat)) p.paused = true) (fun _ => rfl)
        fun e he => List.all_eq_true.1 c8 e he,
      allow := c9, staging := d1, stepDone := d2, temps := d3, trusted := d4, digests := d5, last := d6, ctl := e1,
      control' := sget_all CtlCanonical (fun _ => ⟨rfl, rfl⟩) fun e he => ctlCanonicalB_sound (List.all_eq_true.1 e2 e he),
      xcache := e3, xtrees := e4, buffers := e5,
      rxLevel := sget_all (fun p : Port => swf (fun _ => (0 : Nat)) p.rxLevel = true) (fun _ => rfl)
        fun e he => List.all_eq_true.1 e6 e he }

end Sys2Proof.Machine
end

