-- ==== Sys2Proof/Laws/Memory.lean ====
section
/-! SUPPORT. Memory: what a sector reads as after a write, and that every operation on DRAM, on local store and on control space
keeps the canonical form. -/

namespace Sys2Proof.Machine

/-- A fold of steps that each keep a property keeps it. -/
theorem foldl_keeps {σ β : Type} (P : σ → Prop) (f : σ → β → σ) (l : List β) {s : σ} (h : P s) (hf : ∀ s b, P s → P (f s b)) :
    P (l.foldl f s) := by
  induction l generalizing s with
  | nil => exact h
  | cons b l ih => exact ih (hf s b h)

/-! ## One sector of DRAM -/

/-- DRAM and its stored check symbols are canonical. -/
structure DramOk (d : Dram) : Prop where
  bytes  : Memory.wf d
  checks : Memory.checksWf d

/-- The 32 bytes that a write of a sector lists. -/
theorem sget_sector {d : Dram} (v : Nat → Byte) (n k o : Nat) {m : List (Nat × Byte)} (h : swf d.unlisted m = true) :
    swf d.unlisted ((List.range n).foldl (fun m i => sput d.unlisted m (k + i) (v i)) m) = true ∧
    sget d.unlisted ((List.range n).foldl (fun m i => sput d.unlisted m (k + i) (v i)) m) o =
      if k ≤ o ∧ o < k + n then v (o - k) else sget d.unlisted m o := by
  induction n with
  | zero => exact ⟨h, by simp⟩
  | succ n ih =>
    rw [List.range_succ, List.foldl_append]
    simp only [List.foldl_cons, List.foldl_nil]
    refine ⟨swf_sput ih.1, ?_⟩
    rw [sget_sput ih.1, ih.2]
    by_cases ho : o = k + n
    · subst ho; simp
    · have : (k ≤ o ∧ o < k + (n + 1)) ↔ (k ≤ o ∧ o < k + n) := by omega
      simp [ho, this]

/-- What a write of a sector lists. -/
theorem Dram.write_bytes (d : Dram) (k : Nat) (v : Sector) (p : Bool) : (d.write k v p).bytes =
    (List.range 32).foldl (fun m i => sput d.unlisted m (32 * k + i) (BitVec.ofNat 8 (fld v (8 * i) 8))) d.bytes := by
  simp only [Dram.write]

theorem Dram.write_background (d : Dram) (k : Nat) (v : Sector) (p : Bool) : (d.write k v p).background = d.background := by
  simp only [Dram.write]

/-- A write changes nothing of what an unlisted byte and unlisted check symbols read as. -/
@[simp] theorem Dram.write_unlisted (d : Dram) (k : Nat) (v : Sector) (p : Bool) : (d.write k v p).unlisted = d.unlisted := by
  funext o
  unfold Dram.unlisted
  rw [Dram.write_background]
@[simp] theorem Dram.write_unlistedCheck (d : Dram) (k : Nat) (v : Sector) (p : Bool) :
    (d.write k v p).unlistedCheck = d.unlistedCheck := by
  funext o
  unfold Dram.unlistedCheck
  rw [Dram.write_background]

theorem Dram.write_checks (d : Dram) (k : Nat) (v : Sector) (p : Bool) :
    (d.write k v p).checks = sput d.unlistedCheck d.checks k (if p then 0x0FF0#16 else 0) := by
  simp only [Dram.write]

theorem Dram.write_ok {d : Dram} (h : DramOk d) (k : Nat) (v : Sector) (p : Bool) : DramOk (d.write k v p) := by
  constructor
  · unfold Memory.wf
    rw [Dram.write_bytes, Dram.write_unlisted]
    exact (sget_sector _ 32 (32 * k) 0 h.bytes).1
  · unfold Memory.checksWf
    rw [Dram.write_checks, Dram.write_unlistedCheck]
    exact swf_sput h.checks

/-- A byte after the write of a sector. -/
theorem Dram.byte_write {d : Dram} (h : DramOk d) (k : Nat) (v : Sector) (p : Bool) (o : Nat) :
    (d.write k v p).byte o = if o / 32 = k then BitVec.ofNat 8 (fld v (8 * (o % 32)) 8) else d.byte o := by
  have this := (sget_sector (d := d) (fun i => BitVec.ofNat 8 (fld v (8 * i) 8)) 32 (32 * k) o h.bytes).2
  have e : (32 * k ≤ o ∧ o < 32 * k + 32) ↔ o / 32 = k := by omega
  simp only [e] at this
  unfold Dram.byte
  rw [Dram.write_bytes, Dram.write_unlisted, this]
  split
  · rename_i hk
    have : o - 32 * k = o % 32 := by omega
    rw [this]
  · rfl

theorem Dram.note_ok {d : Dram} (h : DramOk d) (k n : Nat) : DramOk (d.note k n) := ⟨h.bytes, h.checks⟩

theorem Dram.correct_ok {d : Dram} (h : DramOk d) (k j e : Nat) : DramOk (d.correct k j e) :=
  Dram.write_ok (d := { d.note k 1 with
      corrected := satAdd 64 (d.note k 1).corrected 1,
      layerCorrected := sput (fun _ => 0) (d.note k 1).layerCorrected (layerOf (32 * k))
        (satAdd 32 (sget (fun _ => 0) (d.note k 1).layerCorrected (layerOf (32 * k))) 1) }) ⟨h.bytes, h.checks⟩ _ _ _

theorem Dram.logUncorrectable_ok {d : Dram} (h : DramOk d) (k : Nat) : DramOk (d.logUncorrectable k) := ⟨h.bytes, h.checks⟩

theorem Dram.mark_ok {d : Dram} (h : DramOk d) (k : Nat) : DramOk (d.mark k) := Dram.write_ok h _ _ _

/-- A read through the decoder keeps the canonical form. -/
theorem Dram.read_ok {d : Dram} (h : DramOk d) (k : Nat) : DramOk (d.read k).2 := by
  unfold Dram.read
  split
  · exact h
  · exact Dram.correct_ok h _ _ _
  · exact Dram.mark_ok (Dram.logUncorrectable_ok h _) _
  · exact ⟨h.bytes, h.checks⟩

/-! ## The vaults and the cluster caches -/

theorem vaultRead_ok {s : State} (h : DramOk s.dram) (k : Nat) : DramOk (vaultRead s k).2.dram :=
  ⟨(Dram.read_ok h k).bytes, (Dram.read_ok h k).checks⟩

theorem vaultWrite_ok {s : State} (h : DramOk s.dram) (k : Nat) (v : Sector) (p : Bool) : DramOk (vaultWrite s k v p).dram :=
  Dram.write_ok h k v p

theorem writeSectors_ok {s : State} (h : DramOk s.dram) (line : Nat) (m p : BitVec 4) (d : Line) :
    DramOk (writeSectors s line m p d).dram :=
  foldl_keeps (fun s : State => DramOk s.dram) _ _ h fun _ _ h => vaultWrite_ok h _ _ _

theorem drainOldest_ok {s : State} (h : DramOk s.dram) (n : Nat) : DramOk (drainOldest s n).dram := by
  unfold drainOldest
  split
  · exact h
  · exact writeSectors_ok (s := s.modCluster n _) h _ _ _ _

theorem drainLine_ok {s : State} (h : DramOk s.dram) (n line : Nat) : DramOk (drainLine s n line).dram :=
  foldl_keeps (fun s : State => DramOk s.dram) _ _ h fun s _ h => by
    split
    · exact drainOldest_ok h n
    · exact h

theorem drainAll_ok {s : State} (h : DramOk s.dram) (n : Nat) : DramOk (drainAll s n).dram :=
  foldl_keeps (fun s : State => DramOk s.dram) _ _ h fun _ _ h => drainOldest_ok h n

theorem ccAlloc_ok {s : State} (h : DramOk s.dram) (n line : Nat) : DramOk (ccAlloc s n line).2.dram := by
  unfold ccAlloc
  dsimp only
  split
  · split
    · exact drainOldest_ok h n
    · exact h
  · exact h

theorem behindCache_ok {s : State} (h : DramOk s.dram) (n line i : Nat) : DramOk (behindCache s n line i).2.dram := by
  unfold behindCache
  split
  · exact h
  · exact vaultRead_ok h _

theorem ccFill_ok {s : State} (h : DramOk s.dram) (n key line first : Nat) (w : BitVec 4) :
    DramOk (ccFill s n key line first w).dram :=
  foldl_keeps (fun s : State => DramOk s.dram) _ _ h fun s j h => by
    dsimp only
    split
    · exact h
    · split
      · exact behindCache_ok h _ _ _
      · exact behindCache_ok h _ _ _

/-- A read at the home keeps DRAM canonical. -/
theorem homeRead_ok {s : State} (h : DramOk s.dram) (line : Nat) (need : BitVec 4) (na : Bool) :
    DramOk (homeRead s line need na).2.dram := by
  have direct : ∀ (l : List Nat) (r : (Line × BitVec 4) × State), DramOk r.2.dram →
      DramOk (l.foldl (fun (r : (Line × BitVec 4) × State) i =>
        ((putSector r.1.1 i (behindCache r.2 (homeOfLine line) line i).1.1,
          setBit r.1.2 i (behindCache r.2 (homeOfLine line) line i).1.2),
         (behindCache r.2 (homeOfLine line) line i).2)) r).2.dram := fun l r hr =>
    foldl_keeps (fun r : (Line × BitVec 4) × State => DramOk r.2.dram) _ l hr fun r i hr => behindCache_ok hr _ _ _
  unfold homeRead
  dsimp only
  split
  · exact direct _ _ h
  · split
    · split
      · exact h
      · exact ccFill_ok h _ _ _ _ _
    · split
      · exact direct _ _ h
      · split
        · exact ccAlloc_ok h _ _
        · exact ccFill_ok (ccAlloc_ok h _ _) _ _ _ _ _

/-- A write at the home keeps DRAM canonical. -/
theorem homeWrite_ok {s : State} (h : DramOk s.dram) (line : Nat) (d : Line) (m : BitVec 128) (p : BitVec 4) (na : Bool) :
    DramOk (homeWrite s line d m p na).dram := by
  have direct : ∀ (l : List Nat) (s : State), DramOk s.dram → DramOk (l.foldl (fun (s : State) i =>
      if (maskSector m i == BitVec.allOnes 32) = true then vaultWrite s (4 * line + i) (getSector d i) (bit p i) else
        vaultWrite (vaultRead s (4 * line + i)).2 (4 * line + i)
          (getSector (mergeLine (putSector 0 i (vaultRead s (4 * line + i)).1.1) d m) i)
          ((vaultRead s (4 * line + i)).1.2 || bit p i)) s).dram := fun l s hs =>
    foldl_keeps (fun s : State => DramOk s.dram) _ l hs fun s i hs => by
      split
      · exact vaultWrite_ok hs _ _ _
      · exact vaultWrite_ok (vaultRead_ok hs _) _ _ _
  have fills : ∀ (l : List Nat) (key : Nat) (s : State), DramOk s.dram → DramOk (l.foldl (fun (s : State) i =>
      if (maskSector m i == BitVec.allOnes 32 || bit ((s.cluster (homeOfLine line)).way key).valid i) = true then s
      else ccFill s (homeOfLine line) key line i (setBit 0 i true)) s).dram := fun l key s hs =>
    foldl_keeps (fun s : State => DramOk s.dram) _ l hs fun s i hs => by
      split
      · exact hs
      · exact ccFill_ok hs _ _ _ _ _
  unfold homeWrite
  dsimp only
  have h' := drainLine_ok h (homeOfLine line) line
  split
  · exact direct _ _ h'
  · split
    · exact fills _ _ _ h'
    · split
      · exact direct _ _ h'
      · exact fills _ _ _ (ccAlloc_ok h' _ _)

/-- Clearing reservations leaves DRAM alone. -/
theorem clearGranule_dram (s : State) (g : Nat) (own : Option (Nat × Nat × Nat)) : (clearGranule s g own).dram = s.dram := by
  have hf : ∀ (l : List Nat) (s : State) (f : Nat → CoreWork → CoreWork),
      (l.foldl (fun s c => s.modWork c (f c)) s).dram = s.dram := fun l s f =>
    foldl_keeps (fun t : State => t.dram = s.dram) _ l rfl fun _ _ h => h
  unfold clearGranule
  dsimp only
  split
  · exact hf _ s _
  · exact hf _ s _

theorem clearGranules_dram (s : State) (gs : List Nat) (own : Nat → Option (Nat × Nat × Nat)) :
    (clearGranules s gs own).dram = s.dram :=
  foldl_keeps (fun t : State => t.dram = s.dram) _ gs rfl fun t g h => by
    split
    · exact (clearGranule_dram t g _).trans h
    · exact h

theorem storeLine_ok {s : State} (h : DramOk s.dram) (line : Nat) (d : Line) (m : BitVec 128) (p : BitVec 4) (na : Bool)
    (own : Nat → Option (Nat × Nat × Nat)) : DramOk (storeLine s line d m p na own).dram := by
  unfold storeLine
  rw [clearGranules_dram]
  exact homeWrite_ok h _ _ _ _ _

theorem maintWay_ok {s : State} (h : DramOk s.dram) (n key op : Nat) : DramOk (maintWay s n key op).dram := by
  unfold maintWay
  dsimp only
  split
  · exact h
  · have h' := drainLine_ok h n ((s.cluster n).way key).line
    have hw : DramOk (if op = 2 then drainLine s n ((s.cluster n).way key).line else
        (writeSectors (drainLine s n ((s.cluster n).way key).line) ((s.cluster n).way key).line ((s.cluster n).way key).dirty
          ((s.cluster n).way key).poison ((s.cluster n).way key).data).modCluster n fun c =>
            c.setWay key { (s.cluster n).way key with dirty := 0 }).dram := by
      split
      · exact h'
      · exact writeSectors_ok h' _ _ _ _
    split
    · exact hw
    · unfold clearLineRes
      rw [clearGranules_dram]
      exact hw

theorem maintCluster_ok {s : State} (h : DramOk s.dram) (n op : Nat) : DramOk (maintCluster s n op).dram :=
  drainAll_ok (foldl_keeps (fun s : State => DramOk s.dram) _ _ h fun _ _ h => maintWay_ok h _ _ _) n

theorem maintLine_ok {s : State} (h : DramOk s.dram) (line op : Nat) : DramOk (maintLine s line op).dram := by
  unfold maintLine
  dsimp only
  split
  · exact maintWay_ok h _ _ _
  · split
    · exact drainLine_ok h _ _
    · unfold clearLineRes
      rw [clearGranules_dram]
      exact drainLine_ok h _ _

theorem cleanAll_ok {s : State} (h : DramOk s.dram) : DramOk (cleanAll s).dram :=
  foldl_keeps (fun s : State => DramOk s.dram) _ _ h fun _ _ h => maintCluster_ok h _ _

/-! ## Reads and writes of byte strings -/

theorem dramRead_ok {s : State} (h : DramOk s.dram) (pa n : Nat) (na : Bool) : DramOk (dramRead s pa n na).2.dram :=
  foldl_keeps (fun r : Got × State => DramOk r.2.dram) _ _ (s := ({ bytes := [], poison := [] }, s)) h
    fun _ p h => homeRead_ok h p.1 _ _

theorem dramWrite_ok {s : State} (h : DramOk s.dram) (pa : Nat) (bs : List Byte) (p : Nat → Bool) (na : Bool) :
    DramOk (dramWrite s pa bs p na).dram :=
  foldl_keeps (fun r : State × Nat => DramOk r.1.dram) _ _ (s := (s, 0)) h fun _ _ h => storeLine_ok h _ _ _ _ _ _

theorem vaultGet_ok {s : State} (h : DramOk s.dram) (pa n : Nat) : DramOk (vaultGet s pa n).2.dram :=
  foldl_keeps (fun r : Got × State => DramOk r.2.dram) _ _ (s := ({ bytes := [], poison := [] }, s)) h
    fun _ _ h => vaultRead_ok h _

theorem vaultPutSector_ok {s : State} (h : DramOk s.dram) (k o : Nat) (bs : List Byte) (p : Bool) :
    DramOk (vaultPutSector s k o bs p).dram := by
  unfold vaultPutSector
  split
  · exact vaultWrite_ok h _ _ _
  · exact vaultWrite_ok (vaultRead_ok h _) _ _ _

theorem vaultPut_ok {s : State} (h : DramOk s.dram) (pa : Nat) (bs : List Byte) (p : Nat → Bool) : DramOk (vaultPut s pa bs p).dram := by
  have hf := foldl_keeps (fun r : State × Nat => DramOk r.1.dram)
    (fun r (q : Nat × Nat × Nat) => (vaultPutSector r.1 q.1 q.2.1 (sub bs r.2 q.2.2) (p q.1), r.2 + q.2.2))
    (sectorParts pa bs.length) (s := (s, 0)) h fun _ _ h => vaultPutSector_ok h _ _ _ _
  unfold vaultPut
  dsimp only
  split
  · exact hf
  · rw [clearGranules_dram]; exact hf

/-- Local store and control space are not DRAM. -/
@[simp] theorem lsWrite_dram (s : State) (c o : Nat) (bs : List Byte) (p : Nat → Bool) : (lsWrite s c o bs p).dram = s.dram := by
  unfold lsWrite
  split <;> rfl

@[simp] theorem ctlWrite_dram (s : State) (pa : Nat) (bs : List Byte) : (ctlWrite s pa bs).dram = s.dram := rfl

theorem physRead_ok {s : State} (h : DramOk s.dram) {pa n tenant : Nat} {dev : Bool} {g : Got} {t : State}
    (hr : physRead s pa n tenant dev = .ok (g, t)) : DramOk t.dram := by
  unfold physRead at hr
  split at hr
  · have e : _ = t := congrArg Prod.snd (Except.ok.inj hr)
    rw [← e]
    split
    · exact vaultGet_ok h _ _
    · exact dramRead_ok h _ _ _
  · split at hr <;> cases hr
    exact h
  · cases hr; exact h
  · cases hr

/-- Writing local store keeps both its maps canonical. -/
theorem lsWrite_wf {s : State} {c : Nat} (hc : swf (fun _ => Core.idle) s.cores = true) (h : LocalStore.wf (s.core c).work)
    (hp : swf (fun _ => false) (s.core c).work.lsPoison = true) (o : Nat) (bs : List Byte) (p : Nat → Bool) :
    LocalStore.wf ((lsWrite s c o bs p).core c).work ∧ swf (fun _ => false) ((lsWrite s c o bs p).core c).work.lsPoison = true := by
  unfold lsWrite
  split
  · exact ⟨h, hp⟩
  · simp only [State.modWork, State.core_modCore _ hc, if_true]
    exact ⟨swf_foldl_sput _ (fun b : Byte × Nat => o + b.2) (fun _ b => b.1) h,
      foldl_keeps (fun m => swf (fun _ => false) m = true) _ _ hp fun _ _ h => swf_sput h⟩

/-- Writing control space keeps it canonical. -/
theorem ctlWrite_wf {s : State} (h : swf (fun _ => (0 : Byte)) s.desk.control = true) (pa : Nat) (bs : List Byte) :
    swf (fun _ => (0 : Byte)) (ctlWrite s pa bs).desk.control = true :=
  foldl_keeps (fun m => swf (fun _ => (0 : Byte)) m = true) _ _ h fun m b h => by
    obtain ⟨b, i⟩ := b
    dsimp only
    split
    · exact swf_sput h
    · exact h

end Sys2Proof.Machine
end

