-- ==== Sys2Proof/Laws/Fetch.lean ====
section
/-! SUPPORT. What reading memory, walking the tables and fetching an instruction may change: DRAM's record of errors, the cluster
caches and the translation units, and nothing else. -/

namespace Sys2Proof

open Machine

theorem ReadsOnly.refl (s : State) : ReadsOnly s s := rfl

theorem ReadsOnly.trans {s t u : State} (h : ReadsOnly s t) (h' : ReadsOnly t u) : ReadsOnly s u := by
  unfold ReadsOnly at *
  exact h'.trans (by rw [h])

/-- The cores, the launches and all that a group is read through are as before. -/
theorem ReadsOnly.cores {s t : State} (h : ReadsOnly s t) : t.cores = s.cores := by
  unfold ReadsOnly at h; rw [h]

/-- A fold of steps that read only reads only. -/
theorem ReadsOnly.fold {β : Type} (s : State) (f : State → β → State) (xs : List β) (h : ∀ t x, ReadsOnly t (f t x)) :
    ReadsOnly s (xs.foldl f s) :=
  foldl_keeps (ReadsOnly s) f xs (ReadsOnly.refl s) fun t x ht => ht.trans (h t x)

/-- A fold that carries a value beside the state reads only. -/
theorem ReadsOnly.foldWith {α β : Type} (s : State) (a : α) (f : α × State → β → α × State) (xs : List β)
    (h : ∀ r x, ReadsOnly r.2 (f r x).2) : ReadsOnly s (xs.foldl f (a, s)).2 :=
  foldl_keeps (fun r : α × State => ReadsOnly s r.2) f xs (s := (a, s)) (ReadsOnly.refl s) fun r x ht => ht.trans (h r x)

/-! ## Vaults and cluster caches -/

theorem modCluster_reads (s : State) (n : Nat) (f : Cluster → Cluster) : ReadsOnly s (s.modCluster n f) := rfl

theorem vaultRead_reads (s : State) (k : Nat) : ReadsOnly s (vaultRead s k).2 := rfl

theorem vaultWrite_reads (s : State) (k : Nat) (v : Sector) (p : Bool) : ReadsOnly s (vaultWrite s k v p) := by
  unfold ReadsOnly vaultWrite
  rfl

theorem writeSectors_reads (s : State) (line : Nat) (m p : BitVec 4) (d : Line) : ReadsOnly s (writeSectors s line m p d) :=
  ReadsOnly.fold _ _ _ fun t _ => vaultWrite_reads t _ _ _

theorem drainOldest_reads (s : State) (n : Nat) : ReadsOnly s (drainOldest s n) := by
  unfold drainOldest
  split
  · exact ReadsOnly.refl s
  · exact (modCluster_reads s n _).trans (writeSectors_reads _ _ _ _ _)

theorem ccAlloc_reads (s : State) (n line : Nat) : ReadsOnly s (ccAlloc s n line).2 := by
  unfold ccAlloc
  dsimp only
  split
  · split
    · exact ((drainOldest_reads s n).trans (modCluster_reads _ n _)).trans (modCluster_reads _ n _)
    · exact (modCluster_reads s n _).trans (modCluster_reads _ n _)
  · exact modCluster_reads s n _

theorem behindCache_reads (s : State) (n line i : Nat) : ReadsOnly s (behindCache s n line i).2 := by
  unfold behindCache
  split
  · exact ReadsOnly.refl s
  · exact vaultRead_reads s _

theorem ccFill_reads (s : State) (n key line first : Nat) (w : BitVec 4) : ReadsOnly s (ccFill s n key line first w) :=
  ReadsOnly.fold _ _ _ fun t j => by
    dsimp only
    split
    · exact ReadsOnly.refl t
    · split
      · exact behindCache_reads t _ _ _
      · exact (behindCache_reads t _ _ _).trans (modCluster_reads _ n _)

theorem homeRead_reads (s : State) (line : Nat) (need : BitVec 4) (na : Bool) : ReadsOnly s (homeRead s line need na).2 := by
  have direct (xs : List Nat) (a : Line × BitVec 4) : ReadsOnly s (xs.foldl (fun (r : (Line × BitVec 4) × State) i =>
      ((putSector r.1.1 i (behindCache r.2 (homeOfLine line) line i).1.1,
        setBit r.1.2 i (behindCache r.2 (homeOfLine line) line i).1.2),
       (behindCache r.2 (homeOfLine line) line i).2)) (a, s)).2 :=
    ReadsOnly.foldWith s a _ xs fun r i => behindCache_reads r.2 _ _ _
  unfold homeRead
  dsimp only
  split
  · exact direct _ _
  · split
    · split <;> dsimp only
      · exact modCluster_reads s _ _
      · exact (ccFill_reads s _ _ _ _ _).trans (modCluster_reads _ _ _)
    · split
      · exact direct _ _
      · split <;> dsimp only
        · exact (ccAlloc_reads s _ _).trans (modCluster_reads _ _ _)
        · exact ((ccAlloc_reads s _ _).trans (ccFill_reads _ _ _ _ _ _)).trans (modCluster_reads _ _ _)

theorem dramRead_reads (s : State) (pa n : Nat) (na : Bool) : ReadsOnly s (dramRead s pa n na).2 :=
  ReadsOnly.foldWith s _ _ _ fun r _ => homeRead_reads r.2 _ _ _

theorem vaultGet_reads (s : State) (pa n : Nat) : ReadsOnly s (vaultGet s pa n).2 :=
  ReadsOnly.foldWith s _ _ _ fun r _ => vaultRead_reads r.2 _

/-! ## Translation -/

theorem putBuffer_reads (s : State) (u : XUnit) (e : XEntry) : ReadsOnly s (putBuffer s u e) := rfl

theorem touchCache_reads (s : State) (key : Nat) : ReadsOnly s (touchCache s key) := rfl

theorem putCache_reads (s : State) (e : XEntry) : ReadsOnly s (putCache s e) := rfl

theorem putWalk_reads (s : State) (e : WalkEntry) : ReadsOnly s (putWalk s e) := by
  unfold putWalk
  split
  · exact ReadsOnly.refl s
  · rfl

theorem walkRead_reads (s : State) (ctx va : Nat) : ReadsOnly s (walkRead s ctx va) :=
  foldl_keeps (fun r : State × Bool => ReadsOnly s r.1) _ _ (s := (s, false)) (ReadsOnly.refl s) fun r x hr => by
    dsimp only
    split
    · exact hr
    · have hd := hr.trans (dramRead_reads r.1 x.2 8 false)
      split
      · exact hd
      · split
        · split
          · exact hd.trans (putWalk_reads _ _)
          · exact hd
        · exact hd

/-- Looking up a translation reads only. -/
theorem lookUp_reads (s : State) (u : XUnit) (ctx va : Nat) : ReadsOnly s (lookUp s u ctx va) := by
  unfold lookUp
  split
  · exact ReadsOnly.refl s
  split
  · exact ReadsOnly.refl s
  split
  · exact (touchCache_reads s _).trans (putBuffer_reads _ u _)
  · dsimp only
    split
    · split
      · exact walkRead_reads s _ _
      · exact ((walkRead_reads s _ _).trans (putCache_reads _ _)).trans (putBuffer_reads _ u _)
    · exact walkRead_reads s _ _

theorem lookUps_reads (s : State) (u : XUnit) (ctx : Nat) (vas : List Nat) : ReadsOnly s (lookUps s u ctx vas) :=
  ReadsOnly.fold _ _ _ fun t _ => lookUp_reads t u ctx _

/-- A fetch that finds its instruction reads only. -/
theorem fetchCheck_reads {e : Env} {t : State} (h : fetchCheck e = .ok t) : ReadsOnly e.s t := by
  have hl := lookUp_reads e.s (.core e.c) e.l.ctx e.g.pc.toNat
  unfold fetchCheck at h
  dsimp only at h
  split at h
  · cases h
  · split at h
    · cases h
    · split at h <;> cases h
    · cases h
    · cases h
    · split at h
      · cases h; exact hl
      · split at h
        · cases h
        · cases h
          unfold fetchRead
          dsimp only
          split
          · exact hl.trans (vaultGet_reads _ _ _)
          · exact hl.trans (dramRead_reads _ _ _ _)
    · cases h

end Sys2Proof
end

