-- ==== Sys2Proof/Laws/Group.lean ====
section
/-! SUPPORT. What the shared operations of a group's instruction do: setting a group, accounting an issue, reconverging, and
finishing an instruction that writes registers or predicates. -/

namespace Sys2Proof

open Machine

/-- The two maps that a group of core `c` is read through are canonical. -/
structure GroupMaps (s : State) (c : Nat) : Prop where
  cores  : swf (fun _ => Core.idle) s.cores = true
  groups : OptMap.wf (s.core c).work.groups

theorem GroupMaps.of_canonical {s : State} (h : Canonical s) (c : Nat) : GroupMaps s c :=
  ⟨h.cores, (h.core c).work.groups⟩

theorem core_modCore_same {s : State} {c : Nat} {f : Core → Core} (h : swf (fun _ => Core.idle) s.cores = true) :
    (s.modCore c f).core c = f (s.core c) := by rw [State.core_modCore s h]; simp

theorem core_modCore_ne {s : State} {c d : Nat} {f : Core → Core} (h : swf (fun _ => Core.idle) s.cores = true)
    (hd : d ≠ c) : (s.modCore c f).core d = s.core d := by rw [State.core_modCore s h]; simp [hd]

theorem modCore_cores_wf {s : State} {c : Nat} {f : Core → Core} (h : swf (fun _ => Core.idle) s.cores = true) :
    swf (fun _ => Core.idle) (s.modCore c f).cores = true := swf_sput h

theorem OnlyGroup.refl (s : State) (c k : Nat) : OnlyGroup s s c k := ⟨rfl, fun _ _ => rfl, fun _ _ => rfl, rfl⟩

theorem OnlyGroup.trans {s t u : State} {c k : Nat} (h : OnlyGroup s t c k) (h' : OnlyGroup t u c k) : OnlyGroup s u c k where
  rest := by rw [h'.rest, h.rest]
  cores d hd := (h'.cores d hd).trans (h.cores d hd)
  groups j hj := (h'.groups j hj).trans (h.groups j hj)
  core := h'.core.trans h.core

/-- Setting a group changes that group alone. -/
theorem setGroup_only {s : State} {c k : Nat} {g : Option Group} (h : GroupMaps s c) :
    OnlyGroup s (s.setGroup c k g) c k ∧ GroupMaps (s.setGroup c k g) c ∧ (s.setGroup c k g).group c k = g := by
  have hc : (s.setGroup c k g).core c =
      { s.core c with work := { (s.core c).work with groups := oput (s.core c).work.groups k g } } :=
    core_modCore_same h.cores
  refine ⟨⟨rfl, fun d hd => core_modCore_ne h.cores hd, fun j hj => ?_, ?_⟩, ⟨modCore_cores_wf h.cores, ?_⟩, ?_⟩
  · rw [State.group_setGroup s h.cores h.groups]; simp [hj]
  · rw [hc]
  · rw [hc]; exact swf_sput h.groups
  · rw [State.group_setGroup s h.cores h.groups]; simp

/-- Accounting an issue touches the reuse cache and the last cost alone. -/
theorem accountIssue_only {s : State} {c q l k : Nat} {a : List (Use × Bool)} {b : List Use} (h : GroupMaps s c) :
    OnlyGroup s (accountIssue s c q l a b) c k ∧ GroupMaps (accountIssue s c q l a b) c ∧
    (accountIssue s c q l a b).group c k = s.group c k := by
  have hc := core_modCore_same (s := s) (c := c) (f := fun k =>
    let es := k.reuseOf q
    let cycles := issueCycles ((readsOf a).filter fun r => !es.contains (l, r))
    let es := reuseFill es l (readsOf (a.filter (·.2)))
    let es := reuseDrop es l (b.flatMap Use.regs)
    { k.setReuse q es with lastCost := sput (fun _ => 0) k.lastCost q cycles }) h.cores
  have hw : ((accountIssue s c q l a b).core c).work = (s.core c).work := by
    unfold accountIssue; rw [hc]; rfl
  refine ⟨⟨rfl, fun d hd => core_modCore_ne h.cores hd, fun j _ => ?_, ?_⟩, ⟨modCore_cores_wf h.cores, ?_⟩, ?_⟩
  · unfold State.group; rw [hw]
  · unfold accountIssue; rw [hc]; rfl
  · rw [hw]; exact h.groups
  · unfold State.group; rw [hw]

/-- A group that has only moved on: its pc, active lanes and reconvergence entries may differ. -/
def GroupMoved (g h : Group) : Prop :=
  h = { g with pc := h.pc, active := h.active, stack := h.stack, spilled := h.spilled }

theorem GroupMoved.refl (g : Group) : GroupMoved g g := rfl

theorem GroupMoved.trans {g h i : Group} (a : GroupMoved g h) (b : GroupMoved h i) : GroupMoved g i := by
  unfold GroupMoved at *; rw [b, a]

/-- Popping an entry moves the group and changes nothing else. -/
theorem popStack_moves {s : State} {c k : Nat} {g g0 : Group} {l : Launch} (h : GroupMaps s c) (hg : GroupMoved g0 g) :
    OnlyGroup s (popStack s c k g l) c k ∧ GroupMaps (popStack s c k g l) c ∧
    ∃ g', (popStack s c k g l).group c k = some g' ∧ GroupMoved g0 g' := by
  unfold popStack
  dsimp only
  split
  · obtain ⟨a, b, e⟩ := setGroup_only (k := k) (g := some { g with stack := g.stack.drop 1 }) h
    exact ⟨a, b, _, e, hg.trans (by exact rfl)⟩
  · obtain ⟨a, b, e⟩ := setGroup_only (k := k) (g := some { g with
      stack := g.stack.drop 1 ++ [StackEntry.ofImage (BitVec.ofNat 256 (leNat (lsRead s c (spillAddr s c g l (g.spilled - 1)) 32).bytes))],
      spilled := g.spilled - 1 }) h
    exact ⟨a, b, _, e, hg.trans (by exact rfl)⟩

/-- Reconvergence moves the group and changes nothing else. -/
theorem settle_moves (c k : Nat) (l : Launch) (n : Nat) {s : State} {g : Group} (h : GroupMaps s c) (hg : s.group c k = some g) :
    OnlyGroup s (settle c k l n s) c k ∧ GroupMaps (settle c k l n s) c ∧
    ∃ g', (settle c k l n s).group c k = some g' ∧ GroupMoved g g' := by
  induction n generalizing s g with
  | zero => exact ⟨OnlyGroup.refl _ _ _, h, g, hg, GroupMoved.refl g⟩
  | succ n ih =>
    have stay : OnlyGroup s s c k ∧ GroupMaps s c ∧ ∃ g', s.group c k = some g' ∧ GroupMoved g g' :=
      ⟨OnlyGroup.refl _ _ _, h, g, hg, GroupMoved.refl g⟩
    unfold settle
    rw [hg]
    dsimp only
    split
    · exact stay
    · rename_i e rest hst
      split
      · exact stay
      · split
        · split
          · obtain ⟨a, b, eq⟩ := setGroup_only (k := k) (g := some { g with active := e.pendingMask, pc := e.pendingPc, stack := { e with pendingMask := 0 } :: rest }) h
            obtain ⟨a', b', g', e', m⟩ := ih b eq
            exact ⟨a.trans a', b', g', e', GroupMoved.trans (h := { g with active := e.pendingMask, pc := e.pendingPc, stack := { e with pendingMask := 0 } :: rest }) rfl m⟩
          · obtain ⟨a, b, g1, e1, m1⟩ := popStack_moves (k := k) (l := l) (g := { g with active := e.savedMask, pc := e.rpc }) (g0 := g) h rfl
            obtain ⟨a', b', g', e', m⟩ := ih b e1
            exact ⟨a.trans a', b', g', e', m1.trans m⟩
        · exact stay

/-- With no entry open the group stands where it is. -/
theorem settle_flat (c k : Nat) (l : Launch) (n : Nat) {s : State} {g : Group} (hg : s.group c k = some g) (h : g.stack = []) :
    settle c k l n s = s := by
  cases n with
  | zero => rfl
  | succ n => unfold settle; rw [hg]; dsimp only; rw [h]

/-- Continuing at `pc` moves the group and accounts the issue. -/
theorem goTo_moves (e : Env) (i : Form) {s : State} {g : Group} (pc : DWord) (h : GroupMaps s e.c) (hg : s.group e.c e.k = some g) :
    OnlyGroup s (goTo e i s pc) e.c e.k ∧ GroupMaps (goTo e i s pc) e.c ∧
    ∃ g', (goTo e i s pc).group e.c e.k = some g' ∧ GroupMoved g g' ∧
      (g.stack = [] → g'.pc = pc ∧ g'.active = g.active ∧ g'.stack = []) := by
  unfold goTo
  dsimp only
  obtain ⟨a, b, eq⟩ := accountIssue_only (q := e.quad) (l := e.slot) (k := e.k) (a := i.srcs) (b := i.dsts) h
  rw [hg] at eq
  have hm : (accountIssue s e.c e.quad e.slot i.srcs i.dsts).modGroup e.c e.k (fun g => { g with pc := pc }) =
      (accountIssue s e.c e.quad e.slot i.srcs i.dsts).setGroup e.c e.k (some { g with pc := pc }) := by
    unfold State.modGroup; rw [eq]
  rw [hm]
  obtain ⟨a2, b2, e2⟩ := setGroup_only (k := e.k) (g := some { g with pc := pc }) b
  obtain ⟨a3, b3, g', e3, m⟩ := settle_moves e.c e.k e.l settleFuel b2 e2
  refine ⟨(a.trans a2).trans a3, b3, g', e3, GroupMoved.trans (h := { g with pc := pc }) rfl m, fun hs => ?_⟩
  rw [settle_flat e.c e.k e.l settleFuel e2 hs, e2] at e3
  obtain rfl := Option.some.inj e3
  exact ⟨rfl, rfl, hs⟩

/-- An instruction that runs, and whose unit is free, answers what its effect gives in the state that the fetch leaves. -/
theorem issueTo_runs {s : State} {r : GroupRef} {i : Form} {e : Env} {free : Env → Bool} {eff : Env → Except Trap State}
    (h : Runs s r i e) (hf : free (e.before s) = true) :
    issueTo s r i free eff = match eff e with | .error t => .next (takeTrap e e.s t) | .ok s => .next s := by
  unfold issueTo
  rw [h.ready]
  simp only [h.clear, hf, h.fetch]
  rw [show formTrap { e.before s with s := e.s } i = none from h.legal]
  rfl

/-- The same of an instruction that needs no unit beyond its quadrant. -/
theorem issue_runs {s : State} {r : GroupRef} {i : Form} {e : Env} {eff : Env → Except Trap State} (h : Runs s r i e) :
    issue s r i eff = match eff e with | .error t => .next (takeTrap e e.s t) | .ok s => .next s := issueTo_runs h rfl

/-- What an instruction sees of a ready group. -/
theorem ready_env {s : State} {r : GroupRef} {e : Env} (h : ready? s r = some e) :
    e.s = s ∧ e.c = r.core ∧ e.k = gkey r ∧ s.group e.c e.k = some e.g ∧ s.launch e.n = some e.l ∧ e.n = e.g.launch ∧
    e.g.wait = .ready ∧ r.core < coreCount ∧ r.quad < 4 ∧ r.slot < 16 := by
  unfold ready? at h
  split at h
  · rename_i hc
    split at h
    · cases h
    · rename_i g hg
      split at h
      · cases h
      · rename_i l hl
        split at h
        · rename_i hr
          cases h
          exact ⟨rfl, rfl, rfl, hg, hl, rfl, hr.1, hc.1, hc.2.1, hc.2.2.1⟩
        · cases h
  · cases h

/-- What an instruction that runs sees: the fetch read only, and left its group and the maps that it is read through as they were. -/
theorem Runs.sees {s : State} {r : GroupRef} {i : Form} {e : Env} (hs : Canonical s) (h : Runs s r i e) :
    ReadsOnly s e.s ∧ GroupMaps e.s e.c ∧ GroupCanonical e.g ∧ s.group e.c e.k = some e.g := by
  have hg : s.group e.c e.k = some e.g := (ready_env h.ready).2.2.2.1
  have hf : ReadsOnly s e.s := fetchCheck_reads h.fetch
  have hc : ∀ c, e.s.core c = s.core c := fun c => by unfold State.core; rw [hf.cores]
  exact ⟨hf, ⟨by rw [hf.cores]; exact hs.cores, by rw [hc]; exact (hs.core e.c).work.groups⟩,
    (hs.core e.c).work.group e.k e.g hg, hg⟩

/-- Finishing an instruction that changes its group to `g`. -/
theorem withGroup_moves {e : Env} (i : Form) (g : Group) (h : GroupMaps e.s e.c) :
    OnlyGroup e.s (withGroup e i g) e.c e.k ∧ ∃ g', (withGroup e i g).group e.c e.k = some g' ∧ GroupMoved g g' ∧
      (g.stack = [] → g'.pc = e.g.pc + 8 ∧ g'.active = g.active ∧ g'.stack = []) := by
  obtain ⟨a, b, eq⟩ := setGroup_only (k := e.k) (g := some g) h
  obtain ⟨a', _, g', e', m, hp⟩ := goTo_moves e i (e.g.pc + 8) b eq
  exact ⟨a.trans a', g', e', m, hp⟩

end Sys2Proof
end

