-- ==== Sys2Proof/Laws/Lanes.lean ====
section
/-! SUPPORT. Registers and predicates of a group after writes to lanes, and what the two ways of finishing an instruction that
computes a result per lane do. -/

namespace Sys2Proof

open Machine

/-! ## Registers -/

theorem setReg_canonical {g : Group} (h : GroupCanonical g) (l c : Nat) (v : Word) : GroupCanonical (g.setReg l c v) := by
  unfold Group.setReg
  split
  · exact { h with v := swf_sput h.v }
  · split
    · exact { h with u := swf_sput h.u }
    · exact h

/-- A register after one register is written. -/
theorem reg_setReg {g : Group} (h : GroupCanonical g) {l c l' c' : Nat} {v : Word} (hl : l < 32) (hl' : l' < 32) :
    (g.setReg l c v).reg l' c' = if c' = c ∧ c < 0x140 ∧ (c < 0x100 → l' = l) then v else g.reg l' c' := by
  unfold Group.setReg Group.reg
  by_cases hc : c < 0x100
  · simp only [hc, if_true]
    by_cases hc' : c' < 0x100
    · simp only [hc', if_true, sget_sput h.v]
      by_cases he : 32 * c' + l' = 32 * c + l
      · have h1 : c' = c := by omega
        have h2 : l' = l := by omega
        simp [h1, h2, show c < 320 by omega]
      · have : ¬ (c' = c ∧ c < 320 ∧ (True → l' = l)) := by rintro ⟨rfl, -, h⟩; exact he (by rw [h trivial])
        simp only [he, if_false, this]
    · have : c' ≠ c := by omega
      simp [this, hc']
  · simp only [hc, if_false]
    by_cases hc2 : c < 0x140
    · simp only [hc2, if_true]
      by_cases hc' : c' < 0x100
      · have : c' ≠ c := by omega
        simp [this, hc']
      · simp only [hc', if_false]
        by_cases hc3 : c' < 0x140
        · simp only [hc3, if_true, sget_sput h.u]
          by_cases he : c' = c
          · simp [he]
          · have : c' - 256 ≠ c - 256 := by omega
            simp [he, this]
        · have : c' ≠ c := by omega
          simp [this, hc3]
    · simp [hc2]

/-- Writing some registers of a run of codes from `c` in lane `l`. -/
def putRun (g : Group) (l c v n : Nat) : Group :=
  (List.range n).foldl (fun g i => g.setReg l (c + i) (BitVec.ofNat 32 (v >>> (32 * i)))) g

theorem putRun_succ (g : Group) (l c v n : Nat) :
    putRun g l c v (n + 1) = (putRun g l c v n).setReg l (c + n) (BitVec.ofNat 32 (v >>> (32 * n))) := by
  simp [putRun, List.range_succ]

theorem putRun_canonical {g : Group} (h : GroupCanonical g) (l c v n : Nat) : GroupCanonical (putRun g l c v n) := by
  induction n with
  | zero => exact h
  | succ n ih => rw [putRun_succ]; exact setReg_canonical ih _ _ _

theorem reg_putRun {g : Group} (h : GroupCanonical g) {l c v n l' c' : Nat} (hl : l < 32) (hl' : l' < 32) :
    (putRun g l c v n).reg l' c' = if c ≤ c' ∧ c' < c + n ∧ c' < 0x140 ∧ (c' < 0x100 → l' = l)
      then BitVec.ofNat 32 (v >>> (32 * (c' - c))) else g.reg l' c' := by
  induction n with
  | zero => have : ¬ (c ≤ c' ∧ c' < c + 0 ∧ c' < 0x140 ∧ (c' < 0x100 → l' = l)) := by omega
            rw [if_neg this]; rfl
  | succ n ih =>
    rw [putRun_succ, reg_setReg (putRun_canonical h _ _ _ _) hl hl', ih]
    by_cases he : c' = c + n
    · subst he
      have h2 : ¬ (c ≤ c + n ∧ c + n < c + n ∧ c + n < 0x140 ∧ (c + n < 0x100 → l' = l)) := by omega
      rw [if_neg h2]
      have h3 : (c + n) - c = n := by omega
      rw [h3]
      congr 1
      simp only [eq_iff_iff]
      constructor
      · rintro ⟨-, h4, h5⟩; exact ⟨by omega, by omega, h4, h5⟩
      · rintro ⟨-, -, h4, h5⟩; exact ⟨trivial, h4, h5⟩
    · have h1 : ¬ (c' = c + n ∧ c + n < 0x140 ∧ (c + n < 0x100 → l' = l)) := by rintro ⟨h, -⟩; exact he h
      rw [if_neg h1]
      congr 1
      simp only [eq_iff_iff]
      constructor
      · rintro ⟨a, b, d⟩; exact ⟨a, by omega, d⟩
      · rintro ⟨a, b, d⟩; exact ⟨a, by omega, d⟩

theorem setRun_eq (g : Group) (l : Nat) (u : Use) (v : Nat) :
    g.setRun l u v = if u.code = ZR then g else putRun g l u.code.toNat v u.n := rfl

theorem setRun_canonical {g : Group} (h : GroupCanonical g) (l : Nat) (u : Use) (v : Nat) : GroupCanonical (g.setRun l u v) := by
  rw [setRun_eq]; split
  · exact h
  · exact putRun_canonical h _ _ _ _

/-- Whether the allowed run of a field, when it is no ZR, stays on one side of the register space. -/
theorem Use.ok_bound {u : Use} (h : u.ok = true) (hz : u.code ≠ ZR) (hn : u.n = 1 ∨ u.n = 2 ∨ u.n = 4) :
    u.code.toNat + u.n ≤ 0x140 ∧ (u.code.toNat < 0x100 → u.code.toNat + u.n ≤ 0x100) := by
  unfold Use.ok at h
  simp only [Bool.or_eq_true, beq_iff_eq, hz, false_or, Bool.and_eq_true, decide_eq_true_eq] at h
  rcases hn with hn | hn | hn <;> rw [hn] at h ⊢ <;> omega

theorem ZR_not_s : isS ZR = false := by decide

/-- The registers after a run is written in one lane. -/
theorem reg_setRun {g : Group} (h : GroupCanonical g) {u : Use} (hu : u.ok = true) (hn : u.n = 1 ∨ u.n = 2 ∨ u.n = 4)
    {l v l' c' : Nat} (hl : l < 32) (hl' : l' < 32) :
    (g.setRun l u v).reg l' c' = if c' ∈ u.regs ∧ (isS u.code = true ∨ l' = l)
      then BitVec.ofNat 32 (v >>> (32 * (c' - u.code.toNat))) else g.reg l' c' := by
  rw [setRun_eq]
  by_cases hz : u.code = ZR
  · simp [hz, Use.regs]
  · obtain ⟨b1, b2⟩ := Use.ok_bound hu hz hn
    rw [if_neg hz, reg_putRun h hl hl']
    congr 1
    simp only [eq_iff_iff, Use.regs, hz, if_false, List.mem_map, List.mem_range, isS, Bool.and_eq_true, decide_eq_true_eq]
    constructor
    · rintro ⟨a, b, d, e⟩
      refine ⟨⟨c' - u.code.toNat, by omega, by omega⟩, ?_⟩
      by_cases hv : c' < 0x100
      · exact Or.inr (e hv)
      · left; omega
    · rintro ⟨⟨i, hi, rfl⟩, ho⟩
      refine ⟨by omega, by omega, by omega, fun hv => ?_⟩
      rcases ho with ho | ho
      · omega
      · exact ho

/-- The value of a run as its registers joined. -/
theorem join_mod (v n : Nat) :
    (List.range n).foldl (fun a i => a ||| (BitVec.ofNat 32 (v >>> (32 * i))).toNat <<< (32 * i)) 0 = v % 2 ^ (32 * n) := by
  induction n with
  | zero => simp [Nat.mod_one]
  | succ n ih =>
    rw [List.range_succ, List.foldl_append, ih]
    simp only [List.foldl_cons, List.foldl_nil, BitVec.toNat_ofNat]
    apply Nat.eq_of_testBit_eq
    intro j
    simp only [Nat.testBit_or, Nat.testBit_mod_two_pow, Nat.testBit_shiftLeft, Nat.testBit_shiftRight]
    by_cases h1 : j < 32 * n
    · have h2 : ¬ (32 * n ≤ j) := by omega
      have h3 : j < 32 * (n + 1) := by omega
      simp [h1, h2, h3]
    · have h2 : 32 * n ≤ j := by omega
      have h3 : 32 * n + (j - 32 * n) = j := by omega
      by_cases h4 : j < 32 * (n + 1)
      · have h5 : j - 32 * n < 32 := by omega
        simp [h1, h2, h3, h4, h5]
      · have h5 : ¬ (j - 32 * n < 32) := by omega
        simp [h1, h2, h4, h5]

/-- Reading a run whose registers hold a value. -/
theorem run_of_regs {h : Group} {u : Use} (hz : u.code ≠ ZR) {l v : Nat}
    (hr : ∀ i, i < u.n → h.reg l (u.code.toNat + i) = BitVec.ofNat 32 (v >>> (32 * i))) :
    h.run l u = v % 2 ^ (32 * u.n) := by
  unfold Group.run
  rw [if_neg hz, ← join_mod]
  have : ∀ (xs : List Nat) (a : Nat), (∀ i ∈ xs, i < u.n) →
      xs.foldl (fun a i => a ||| (h.reg l (u.code.toNat + i)).toNat <<< (32 * i)) a =
      xs.foldl (fun a i => a ||| (BitVec.ofNat 32 (v >>> (32 * i))).toNat <<< (32 * i)) a := by
    intro xs
    induction xs with
    | nil => intros; rfl
    | cons x xs ih =>
      intro a hx
      simp only [List.foldl_cons]
      rw [hr x (hx x (by simp)), ih _ fun i hi => hx i (by simp [hi])]
  exact this _ _ fun i hi => List.mem_range.mp hi

/-! ## Writing every result lane -/

/-- The fold of `laneEffect`. -/
def putLanes (dst : Use) (val : Nat → Nat × BitVec 5) (ls : List Nat) (g : Group) : Group :=
  ls.foldl (fun g l => (g.setRun l dst (val l).1).raiseFlags (val l).2) g

/-- The flags that a list of lanes raises. -/
def flagsOf (val : Nat → Nat × BitVec 5) (ls : List Nat) : BitVec 5 := ls.foldl (fun f l => f ||| (val l).2) 0

theorem flagsOf_cons (val : Nat → Nat × BitVec 5) (l : Nat) (ls : List Nat) : flagsOf val (l :: ls) = (val l).2 ||| flagsOf val ls := by
  have : ∀ (ls : List Nat) (a : BitVec 5), ls.foldl (fun f l => f ||| (val l).2) a = a ||| ls.foldl (fun f l => f ||| (val l).2) 0 := by
    intro ls
    induction ls with
    | nil => intro a; simp
    | cons x xs ih => intro a; simp only [List.foldl_cons]; rw [ih, ih (0 ||| _)]; simp [BitVec.or_assoc]
  unfold flagsOf
  simp only [List.foldl_cons]
  rw [this]; simp

/-- Results that raise nothing raise nothing together. -/
theorem flagsOf_none (f : Nat → Nat) (ls : List Nat) : flagsOf (fun l => (f l, 0)) ls = 0 := by
  induction ls with
  | nil => rfl
  | cons l ls ih => rw [flagsOf_cons, ih]; simp

/-- Fields of a group that writing registers and flags leaves alone. -/
def SameButRegs (g h : Group) : Prop := h = { g with v := h.v, u := h.u, flags := h.flags }

theorem SameButRegs.keeps {g h : Group} (m : SameButRegs g h) : h.p = g.p ∧ h.stack = g.stack ∧ h.active = g.active := by
  unfold SameButRegs at m; rw [m]; exact ⟨rfl, rfl, rfl⟩

theorem putRun_same (g : Group) (l c v n : Nat) : SameButRegs g (putRun g l c v n) ∧ (putRun g l c v n).flags = g.flags := by
  induction n with
  | zero => exact ⟨rfl, rfl⟩
  | succ n ih =>
    rw [putRun_succ]
    unfold Group.setReg
    obtain ⟨a, b⟩ := ih
    split
    · exact ⟨by unfold SameButRegs at *; rw [a], b⟩
    · split
      · exact ⟨by unfold SameButRegs at *; rw [a], b⟩
      · exact ⟨a, b⟩

theorem setRun_same (g : Group) (l : Nat) (u : Use) (v : Nat) : SameButRegs g (g.setRun l u v) ∧ (g.setRun l u v).flags = g.flags := by
  rw [setRun_eq]; split
  · exact ⟨rfl, rfl⟩
  · exact putRun_same _ _ _ _ _

theorem putLanes_same (dst : Use) (val : Nat → Nat × BitVec 5) (ls : List Nat) (g : Group) :
    SameButRegs g (putLanes dst val ls g) ∧ (putLanes dst val ls g).flags = g.flags ||| flagsOf val ls := by
  induction ls generalizing g with
  | nil => exact ⟨rfl, by simp [putLanes, flagsOf]⟩
  | cons l ls ih =>
    obtain ⟨a, b⟩ := ih ((g.setRun l dst (val l).1).raiseFlags (val l).2)
    obtain ⟨c, d⟩ := setRun_same g l dst (val l).1
    refine ⟨?_, ?_⟩
    · show SameButRegs g (putLanes dst val ls _)
      unfold SameButRegs Group.raiseFlags at *
      rw [a, c]
    · show (putLanes dst val ls _).flags = _
      rw [b, flagsOf_cons]
      simp only [Group.raiseFlags, d, BitVec.or_assoc]

theorem putLanes_canonical {g : Group} (h : GroupCanonical g) (dst : Use) (val : Nat → Nat × BitVec 5) (ls : List Nat) :
    GroupCanonical (putLanes dst val ls g) := by
  induction ls generalizing g with
  | nil => exact h
  | cons l ls ih =>
    have := setRun_canonical h l dst (val l).1
    exact ih (g := (g.setRun l dst (val l).1).raiseFlags (val l).2) ⟨this.v, this.u, this.p, this.res⟩

theorem reg_putLanes {g : Group} (h : GroupCanonical g) {dst : Use} (hu : dst.ok = true) (hn : dst.n = 1 ∨ dst.n = 2 ∨ dst.n = 4)
    {val : Nat → Nat × BitVec 5} {ls : List Nat} (hls : ∀ l ∈ ls, l < 32) (hnd : ls.Nodup) (hone : isS dst.code = true → ls.length ≤ 1)
    {l' c' : Nat} (hl' : l' < 32) :
    (putLanes dst val ls g).reg l' c' =
      if c' ∈ dst.regs ∧ ((isS dst.code = true ∧ ls ≠ []) ∨ l' ∈ ls) then
        BitVec.ofNat 32 ((val (if isS dst.code then ls.headD 0 else l')).1 >>> (32 * (c' - dst.code.toNat))) else g.reg l' c' := by
  induction ls generalizing g with
  | nil => simp [putLanes]
  | cons l ls ih =>
    have hc := setRun_canonical h l dst (val l).1
    have key := ih (g := (g.setRun l dst (val l).1).raiseFlags (val l).2) ⟨hc.v, hc.u, hc.p, hc.res⟩
      (fun x hx => hls x (by simp [hx])) (List.nodup_cons.mp hnd).2
      (fun hs => by have := hone hs; simp at this; simp [this])
    show (putLanes dst val ls _).reg l' c' = _
    rw [key]
    have hr : ((g.setRun l dst (val l).1).raiseFlags (val l).2).reg l' c' = (g.setRun l dst (val l).1).reg l' c' := rfl
    rw [hr, reg_setRun h hu hn (hls l (by simp)) hl']
    by_cases hs : isS dst.code = true
    · have : ls = [] := by have := hone hs; simp at this; exact this
      subst this
      simp [hs]
    · simp only [hs, Bool.false_eq_true, false_and, false_or, if_false, List.mem_cons]
      by_cases hm : c' ∈ dst.regs
      · simp only [hm, true_and]
        by_cases h1 : l' ∈ ls
        · simp [h1]
        · simp only [h1, if_false, or_false]
          by_cases h2 : l' = l
          · subst h2; simp
          · simp [h2]
      · simp [hm]

theorem lanesOf_lt {m : Word} {l : Nat} (h : l ∈ lanesOf m) : l < 32 := by
  simp only [lanesOf, below, List.mem_filter, List.mem_range] at h; exact h.1

theorem lanesOf_nodup (m : Word) : (lanesOf m).Nodup := List.Nodup.filter _ List.nodup_range

theorem resultLanes_lt {e : Env} {i : Form} {l : Nat} (h : l ∈ resultLanes e i) : l < 32 := by
  unfold resultLanes at h
  split at h
  · exact lanesOf_lt (List.mem_of_mem_take h)
  · exact lanesOf_lt h

theorem resultLanes_nodup (e : Env) (i : Form) : (resultLanes e i).Nodup := by
  unfold resultLanes
  split
  · exact (lanesOf_nodup _).sublist (List.take_sublist _ _)
  · exact lanesOf_nodup _

/-- A group that has only moved on keeps its registers, predicates and flags. -/
theorem GroupMoved.regs {g h : Group} (m : GroupMoved g h) : h.v = g.v ∧ h.u = g.u ∧ h.p = g.p ∧ h.flags = g.flags := by
  unfold GroupMoved at m; rw [m]; exact ⟨rfl, rfl, rfl, rfl⟩

/-- What `laneEffect` does: the whole effect of an instruction that computes one result per lane. -/
theorem laneEffect_writes {c : Instr} {s : State} {r : GroupRef} {i : Form} {e : Env} {dst : Use}
    {val : Nat → Group → Nat × BitVec 5} (hs : Canonical s) (hr : Runs s r i e)
    (hx : exec c s = issue s r i (laneEffect i dst val)) (hu : dst.ok = true) (hn : dst.n = 1 ∨ dst.n = 2 ∨ dst.n = 4)
    (huni : isS dst.code = true → i.uniform = true) :
    WritesResult c s e i dst (fun l => (val l e.g).1 % 2 ^ (32 * dst.n))
      (flagsOf (fun l => val l e.g) (resultLanes e i)) := by
  obtain ⟨hf, hgm, hcan, -⟩ := hr.sees hs
  let g1 := putLanes dst (fun l => val l e.g) (resultLanes e i) e.g
  have heff : laneEffect i dst val e = .ok (withGroup e i g1) := rfl
  rw [issue_runs hr, heff] at hx
  obtain ⟨ho, g', hg', hm, hp⟩ := withGroup_moves (e := e) i g1 hgm
  obtain ⟨hsame, hfl⟩ := putLanes_same dst (fun l => val l e.g) (resultLanes e i) e.g
  obtain ⟨rv, ru, rp, rf⟩ := hm.regs
  have hreg : ∀ l c', g'.reg l c' = g1.reg l c' := fun l c' => by unfold Group.reg; rw [rv, ru]
  have hone : isS dst.code = true → (resultLanes e i).length ≤ 1 := fun h => by
    unfold resultLanes; rw [if_pos (huni h)]; simp
  refine ⟨_, g', hx, hf, ho, hg', ⟨fun hz l hl => ?_, fun l c' hl hw => ?_⟩, fun l j => ?_, ?_, ⟨fun hst => ?_, ?_⟩⟩
  · apply run_of_regs hz
    intro k hk
    rw [hreg, reg_putLanes hcan hu hn (fun _ h => resultLanes_lt h) (resultLanes_nodup e i) hone (resultLanes_lt hl)]
    have hmem : dst.code.toNat + k ∈ dst.regs := by simp [Use.regs, hz, hk]
    have hne : resultLanes e i ≠ [] := List.ne_nil_of_mem hl
    rw [if_pos ⟨hmem, by by_cases hS : isS dst.code = true
                         · exact Or.inl ⟨hS, hne⟩
                         · exact Or.inr hl⟩]
    have hk2 : dst.code.toNat + k - dst.code.toNat = k := by omega
    rw [hk2]
    by_cases hS : isS dst.code = true
    · rw [if_pos hS]
      have : (resultLanes e i).headD 0 = l := by
        have := hone hS
        match hrl : resultLanes e i with
        | [] => rw [hrl] at hl; cases hl
        | [x] => rw [hrl] at hl; simp at hl; simp [hl]
        | x :: y :: z => rw [hrl] at this; simp at this
      rw [this]
    · rw [if_neg hS]
  · rw [hreg, reg_putLanes hcan hu hn (fun _ h => resultLanes_lt h) (resultLanes_nodup e i) hone hl, if_neg]
    rintro ⟨a, b⟩
    apply hw
    rcases b with ⟨b1, b2⟩ | b
    · exact ⟨a, b2, Or.inl b1⟩
    · exact ⟨a, List.ne_nil_of_mem b, Or.inr b⟩
  · have : g1.p = e.g.p := hsame.keeps.1
    unfold Group.pred; rw [rp, this]
  · rw [rf]; exact hfl
  · have : g1.stack = e.g.stack := hsame.keeps.2.1
    obtain ⟨a, b, d⟩ := hp (by rw [this]; exact hst)
    exact ⟨a, b.trans hsame.keeps.2.2, d⟩
  · unfold GroupMoved at hm; rw [hm, show g1 = _ from hsame]; exact ⟨rfl, rfl, rfl, rfl, rfl, rfl, rfl⟩

/-! ## Writing a predicate of every acting lane -/

theorem testBit_setBit {n : Nat} (x : BitVec n) (i j : Nat) (b : Bool) (hj : j < n) :
    bit (setBit x i b) j = if j = i then b else bit x j := by
  unfold setBit bit
  have h1 : (BitVec.ofNat n 1 <<< i).getLsbD j = decide (j = i) := by
    by_cases hji : j = i
    · subst hji; simp [hj]
    · simp only [BitVec.getLsbD_shiftLeft, BitVec.getLsbD_ofNat, hj, decide_true, Bool.true_and, hji, decide_false]
      by_cases hlt : j < i
      · simp [hlt]
      · have : j - i ≠ 0 := by omega
        have h2 : Nat.testBit 1 (j - i) = false := by
          match hk : j - i with
          | 0 => exact absurd hk this
          | k + 1 => simp [Nat.testBit_succ]
        simp [h2]
  cases b
  · simp only [Bool.false_eq_true, if_false, BitVec.getLsbD_and, BitVec.getLsbD_not, hj, decide_true, Bool.true_and, h1]
    by_cases hji : j = i <;> simp [hji]
  · simp only [if_true, BitVec.getLsbD_or, h1]
    by_cases hji : j = i <;> simp [hji]

/-- A predicate after one is written. -/
theorem pred_setPred {g : Group} (h : GroupCanonical g) {l i l' j : Nat} {b : Bool} (hj : j < 8) :
    (g.setPred l i b).pred l' j = if l' = l ∧ j = i then b else g.pred l' j := by
  unfold Group.setPred Group.pred
  simp only [sget_sput h.p]
  by_cases hl : l' = l
  · subst hl; simp only [if_true, true_and]; exact testBit_setBit _ _ _ _ hj
  · simp [hl]

/-- The fold of `predEffect`. -/
def putPreds (p : Nat) (val : Nat → Bool × BitVec 5) (ls : List Nat) (g : Group) : Group :=
  ls.foldl (fun g l => (g.setPred l p (val l).1).raiseFlags (val l).2) g

theorem putPreds_same (p : Nat) (val : Nat → Bool × BitVec 5) (ls : List Nat) (g : Group) :
    putPreds p val ls g = { g with p := (putPreds p val ls g).p, flags := g.flags ||| flagsOf (fun l => (0, (val l).2)) ls } := by
  induction ls generalizing g with
  | nil => simp [putPreds, flagsOf]
  | cons l ls ih =>
    show putPreds p val ls _ = _
    rw [ih, flagsOf_cons]
    simp only [Group.raiseFlags, Group.setPred, BitVec.or_assoc]
    rfl

theorem pred_putPreds {g : Group} (h : GroupCanonical g) {p : Nat} {val : Nat → Bool × BitVec 5} {ls : List Nat} (hnd : ls.Nodup)
    {l' j : Nat} (hj : j < 8) :
    (putPreds p val ls g).pred l' j = if l' ∈ ls ∧ j = p then (val l').1 else g.pred l' j := by
  induction ls generalizing g with
  | nil => simp [putPreds]
  | cons l ls ih =>
    show (putPreds p val ls _).pred l' j = _
    rw [ih (g := (g.setPred l p (val l).1).raiseFlags (val l).2) ⟨h.v, h.u, swf_sput h.p, h.res⟩ (List.nodup_cons.mp hnd).2]
    have hr : ((g.setPred l p (val l).1).raiseFlags (val l).2).pred l' j = (g.setPred l p (val l).1).pred l' j := rfl
    rw [hr, pred_setPred h hj]
    simp only [List.mem_cons]
    by_cases h1 : l' ∈ ls ∧ j = p
    · simp [h1]
    · rw [if_neg h1]
      by_cases h2 : l' = l
      · subst h2
        have h3 : l' ∉ ls := (List.nodup_cons.mp hnd).1
        simp [h3]
      · have : ¬ ((l' = l ∨ l' ∈ ls) ∧ j = p) := by rintro ⟨a | a, b⟩; exacts [h2 a, h1 ⟨a, b⟩]
        rw [if_neg this, if_neg]
        exact fun a => h2 a.1

/-- What `predEffect` does. -/
theorem predEffect_writes {c : Instr} {s : State} {r : GroupRef} {i : Form} {e : Env} {p : Nat}
    {val : Nat → Group → Bool × BitVec 5} (hs : Canonical s) (hr : Runs s r i e)
    (hx : exec c s = issue s r i (predEffect i p val)) (hp : p < 8) :
    WritesPredicate c s e i p (fun l => (val l e.g).1) (flagsOf (fun l => (0, (val l e.g).2)) (e.acts i)) := by
  obtain ⟨hf, hgm, hcan, -⟩ := hr.sees hs
  let g1 := putPreds p (fun l => val l e.g) (e.acts i) e.g
  have heff : predEffect i p val e = .ok (withGroup e i g1) := rfl
  rw [issue_runs hr, heff] at hx
  obtain ⟨ho, g', hg', hm, hpc⟩ := withGroup_moves (e := e) i g1 hgm
  have hsame : g1 = _ := putPreds_same p (fun l => val l e.g) (e.acts i) e.g
  obtain ⟨rv, ru, rp, rf⟩ := hm.regs
  have hpr : ∀ l j, j < 8 → g'.pred l j = if l ∈ e.acts i ∧ j = p then (val l e.g).1 else e.g.pred l j := fun l j hj => by
    have : g'.pred l j = g1.pred l j := by unfold Group.pred; rw [rp]
    rw [this]; exact pred_putPreds hcan (lanesOf_nodup _) hj
  refine ⟨_, g', hx, hf, ho, hg', fun l hl => ?_, fun l j hj hn => ?_, fun l code => ?_, ?_, ⟨fun hst => ?_, ?_⟩⟩
  · rw [hpr l p hp, if_pos ⟨hl, rfl⟩]
  · rw [hpr l j hj, if_neg hn]
  · unfold Group.reg; rw [rv, ru, hsame]
  · rw [rf, hsame]
  · have : g1.stack = e.g.stack := by rw [hsame]
    obtain ⟨a, b, d⟩ := hpc (by rw [this]; exact hst)
    exact ⟨a, by rw [b, hsame], d⟩
  · unfold GroupMoved at hm; rw [hm, hsame]; exact ⟨rfl, rfl, rfl, rfl, rfl, rfl, rfl⟩

end Sys2Proof
end

