-- ==== Sys2Proof/Laws/PerInstr.lean ====
section
/-! SUPPORT. One lemma per command for the family Opcode: the opcode byte of a core instruction's word is one that the opcode
map shows (R102, R107), and that of an undefined opcode is one that it reserves. -/

namespace Sys2Proof.Laws

/-- The opcode byte of a word is reserved exactly when the command is UNDEFINED_OPCODE. -/
def Opcode.Statement (i : Instr) : Prop :=
  ∀ w, i.wf = true → encodeWord i = some w → (opcodeReserved (w.extractLsb' 0 8) = true ↔ ∃ g x, i = .undefinedOpcode g x)

/-- Opcode.Statement, for an instruction whose word has the opcode `op` that the map shows. -/
theorem Opcode.of_opcode {i : Instr} {op : Byte} {v : DWord} (he : encodeWord i = some v) (ho : v.extractLsb' 0 8 = op)
    (hr : opcodeReserved op = false) (hn : ∀ g x, i ≠ .undefinedOpcode g x) : Opcode.Statement i := by
  intro w _ hw
  rw [he] at hw
  cases hw
  rw [ho, hr]
  exact ⟨fun h => Bool.noConfusion h, fun ⟨g, x, h⟩ => absurd h (hn g x)⟩

/-- Opcode.Statement, for a command that has no word. -/
theorem Opcode.of_none {i : Instr} (he : encodeWord i = none) : Opcode.Statement i := by
  intro w _ hw
  rw [he] at hw
  cases hw

/-- The low byte of a word. -/
theorem Opcode.low_byte {n : Nat} (x : BitVec n) (y : Byte) : (x ++ y).extractLsb' 0 8 = y := by
  ext i hi
  simp [BitVec.getLsbD_append, hi, BitVec.getLsbD_eq_getElem]

/-- The opcode of a word of the R format. -/
@[simp] theorem Opcode.encR_opcode (op : Byte) (f : RFields) : (encR op f).extractLsb' 0 8 = op := by
  exact Opcode.low_byte _ op

/-- The opcode of a word of the I format. -/
@[simp] theorem Opcode.encI_opcode (op : Byte) (f : IFields) : (encI op f).extractLsb' 0 8 = op := by
  exact Opcode.low_byte _ op

/-- The opcode of a word of the M format. -/
@[simp] theorem Opcode.encM_opcode (op : Byte) (f : MFields) : (encM op f).extractLsb' 0 8 = op := by
  exact Opcode.low_byte _ op

/-- The opcode of a word of the B format. -/
@[simp] theorem Opcode.encB_opcode (op : Byte) (f : BFields) : (encB op f).extractLsb' 0 8 = op := by
  exact Opcode.low_byte _ op

/-- The opcode of a word of the X format. -/
@[simp] theorem Opcode.encX_opcode (op : Byte) (f : XFields) : (encX op f).extractLsb' 0 8 = op := by
  exact Opcode.low_byte _ op

theorem Opcode.nop : ∀ g f, Opcode.Statement (.nop g f) := fun _ f => Opcode.of_opcode rfl (Opcode.encR_opcode _ f) (by decide) nofun
theorem Opcode.bra : ∀ g f, Opcode.Statement (.bra g f) := fun _ f => Opcode.of_opcode rfl (Opcode.encB_opcode _ f) (by decide) nofun
theorem Opcode.call : ∀ g f, Opcode.Statement (.call g f) := fun _ f => Opcode.of_opcode rfl (Opcode.encB_opcode _ f) (by decide) nofun
theorem Opcode.jmpR : ∀ g f, Opcode.Statement (.jmpR g f) := fun _ f => Opcode.of_opcode rfl (Opcode.encR_opcode _ f) (by decide) nofun
theorem Opcode.exit : ∀ g f, Opcode.Statement (.exit g f) := fun _ f => Opcode.of_opcode rfl (Opcode.encR_opcode _ f) (by decide) nofun
theorem Opcode.brk : ∀ g f, Opcode.Statement (.brk g f) := fun _ f => Opcode.of_opcode rfl (Opcode.encR_opcode _ f) (by decide) nofun
theorem Opcode.rdSv : ∀ g f, Opcode.Statement (.rdSv g f) := fun _ f => Opcode.of_opcode rfl (Opcode.encR_opcode _ f) (by decide) nofun
theorem Opcode.flgRd : ∀ g f, Opcode.Statement (.flgRd g f) := fun _ f => Opcode.of_opcode rfl (Opcode.encR_opcode _ f) (by decide) nofun
theorem Opcode.flgClr : ∀ g f, Opcode.Statement (.flgClr g f) := fun _ f => Opcode.of_opcode rfl (Opcode.encR_opcode _ f) (by decide) nofun
theorem Opcode.vote : ∀ g f, Opcode.Statement (.vote g f) := fun _ f => Opcode.of_opcode rfl (Opcode.encR_opcode _ f) (by decide) nofun
theorem Opcode.shfl : ∀ g f, Opcode.Statement (.shfl g f) := fun _ f => Opcode.of_opcode rfl (Opcode.encR_opcode _ f) (by decide) nofun
theorem Opcode.add : ∀ g f, Opcode.Statement (.add g f) := fun _ f => Opcode.of_opcode rfl (Opcode.encR_opcode _ f) (by decide) nofun
theorem Opcode.sub : ∀ g f, Opcode.Statement (.sub g f) := fun _ f => Opcode.of_opcode rfl (Opcode.encR_opcode _ f) (by decide) nofun
theorem Opcode.mulLo : ∀ g f, Opcode.Statement (.mulLo g f) := fun _ f => Opcode.of_opcode rfl (Opcode.encR_opcode _ f) (by decide) nofun
theorem Opcode.mulHi : ∀ g f, Opcode.Statement (.mulHi g f) := fun _ f => Opcode.of_opcode rfl (Opcode.encR_opcode _ f) (by decide) nofun
theorem Opcode.mad : ∀ g f, Opcode.Statement (.mad g f) := fun _ f => Opcode.of_opcode rfl (Opcode.encR_opcode _ f) (by decide) nofun
theorem Opcode.div : ∀ g f, Opcode.Statement (.div g f) := fun _ f => Opcode.of_opcode rfl (Opcode.encR_opcode _ f) (by decide) nofun
theorem Opcode.rem : ∀ g f, Opcode.Statement (.rem g f) := fun _ f => Opcode.of_opcode rfl (Opcode.encR_opcode _ f) (by decide) nofun
theorem Opcode.min : ∀ g f, Opcode.Statement (.min g f) := fun _ f => Opcode.of_opcode rfl (Opcode.encR_opcode _ f) (by decide) nofun
theorem Opcode.max : ∀ g f, Opcode.Statement (.max g f) := fun _ f => Opcode.of_opcode rfl (Opcode.encR_opcode _ f) (by decide) nofun
theorem Opcode.abs : ∀ g f, Opcode.Statement (.abs g f) := fun _ f => Opcode.of_opcode rfl (Opcode.encR_opcode _ f) (by decide) nofun
theorem Opcode.neg : ∀ g f, Opcode.Statement (.neg g f) := fun _ f => Opcode.of_opcode rfl (Opcode.encR_opcode _ f) (by decide) nofun
theorem Opcode.popc : ∀ g f, Opcode.Statement (.popc g f) := fun _ f => Opcode.of_opcode rfl (Opcode.encR_opcode _ f) (by decide) nofun
theorem Opcode.clz : ∀ g f, Opcode.Statement (.clz g f) := fun _ f => Opcode.of_opcode rfl (Opcode.encR_opcode _ f) (by decide) nofun
theorem Opcode.brev : ∀ g f, Opcode.Statement (.brev g f) := fun _ f => Opcode.of_opcode rfl (Opcode.encR_opcode _ f) (by decide) nofun
theorem Opcode.and : ∀ g f, Opcode.Statement (.and g f) := fun _ f => Opcode.of_opcode rfl (Opcode.encR_opcode _ f) (by decide) nofun
theorem Opcode.or : ∀ g f, Opcode.Statement (.or g f) := fun _ f => Opcode.of_opcode rfl (Opcode.encR_opcode _ f) (by decide) nofun
theorem Opcode.xor : ∀ g f, Opcode.Statement (.xor g f) := fun _ f => Opcode.of_opcode rfl (Opcode.encR_opcode _ f) (by decide) nofun
theorem Opcode.not : ∀ g f, Opcode.Statement (.not g f) := fun _ f => Opcode.of_opcode rfl (Opcode.encR_opcode _ f) (by decide) nofun
theorem Opcode.shl : ∀ g f, Opcode.Statement (.shl g f) := fun _ f => Opcode.of_opcode rfl (Opcode.encR_opcode _ f) (by decide) nofun
theorem Opcode.shr : ∀ g f, Opcode.Statement (.shr g f) := fun _ f => Opcode.of_opcode rfl (Opcode.encR_opcode _ f) (by decide) nofun
theorem Opcode.sar : ∀ g f, Opcode.Statement (.sar g f) := fun _ f => Opcode.of_opcode rfl (Opcode.encR_opcode _ f) (by decide) nofun
theorem Opcode.rot : ∀ g f, Opcode.Statement (.rot g f) := fun _ f => Opcode.of_opcode rfl (Opcode.encR_opcode _ f) (by decide) nofun
theorem Opcode.bfe : ∀ g f, Opcode.Statement (.bfe g f) := fun _ f => Opcode.of_opcode rfl (Opcode.encR_opcode _ f) (by decide) nofun
theorem Opcode.bfi : ∀ g f, Opcode.Statement (.bfi g f) := fun _ f => Opcode.of_opcode rfl (Opcode.encR_opcode _ f) (by decide) nofun
theorem Opcode.bfn3 : ∀ g f, Opcode.Statement (.bfn3 g f) := fun _ f => Opcode.of_opcode rfl (Opcode.encR_opcode _ f) (by decide) nofun
theorem Opcode.setp : ∀ g f, Opcode.Statement (.setp g f) := fun _ f => Opcode.of_opcode rfl (Opcode.encR_opcode _ f) (by decide) nofun
theorem Opcode.sel : ∀ g f, Opcode.Statement (.sel g f) := fun _ f => Opcode.of_opcode rfl (Opcode.encR_opcode _ f) (by decide) nofun
theorem Opcode.mov : ∀ g f, Opcode.Statement (.mov g f) := fun _ f => Opcode.of_opcode rfl (Opcode.encR_opcode _ f) (by decide) nofun
theorem Opcode.prmt : ∀ g f, Opcode.Statement (.prmt g f) := fun _ f => Opcode.of_opcode rfl (Opcode.encR_opcode _ f) (by decide) nofun
theorem Opcode.plop : ∀ g f, Opcode.Statement (.plop g f) := fun _ f => Opcode.of_opcode rfl (Opcode.encR_opcode _ f) (by decide) nofun
theorem Opcode.addI : ∀ g f, Opcode.Statement (.addI g f) := fun _ f => Opcode.of_opcode rfl (Opcode.encI_opcode _ f) (by decide) nofun
theorem Opcode.mulI : ∀ g f, Opcode.Statement (.mulI g f) := fun _ f => Opcode.of_opcode rfl (Opcode.encI_opcode _ f) (by decide) nofun
theorem Opcode.andI : ∀ g f, Opcode.Statement (.andI g f) := fun _ f => Opcode.of_opcode rfl (Opcode.encI_opcode _ f) (by decide) nofun
theorem Opcode.orI : ∀ g f, Opcode.Statement (.orI g f) := fun _ f => Opcode.of_opcode rfl (Opcode.encI_opcode _ f) (by decide) nofun
theorem Opcode.xorI : ∀ g f, Opcode.Statement (.xorI g f) := fun _ f => Opcode.of_opcode rfl (Opcode.encI_opcode _ f) (by decide) nofun
theorem Opcode.shlI : ∀ g f, Opcode.Statement (.shlI g f) := fun _ f => Opcode.of_opcode rfl (Opcode.encI_opcode _ f) (by decide) nofun
theorem Opcode.shrI : ∀ g f, Opcode.Statement (.shrI g f) := fun _ f => Opcode.of_opcode rfl (Opcode.encI_opcode _ f) (by decide) nofun
theorem Opcode.sarI : ∀ g f, Opcode.Statement (.sarI g f) := fun _ f => Opcode.of_opcode rfl (Opcode.encI_opcode _ f) (by decide) nofun
theorem Opcode.movi : ∀ g f, Opcode.Statement (.movi g f) := fun _ f => Opcode.of_opcode rfl (Opcode.encI_opcode _ f) (by decide) nofun
theorem Opcode.setpI : ∀ g f, Opcode.Statement (.setpI g f) := fun _ f => Opcode.of_opcode rfl (Opcode.encI_opcode _ f) (by decide) nofun
theorem Opcode.minI : ∀ g f, Opcode.Statement (.minI g f) := fun _ f => Opcode.of_opcode rfl (Opcode.encI_opcode _ f) (by decide) nofun
theorem Opcode.maxI : ∀ g f, Opcode.Statement (.maxI g f) := fun _ f => Opcode.of_opcode rfl (Opcode.encI_opcode _ f) (by decide) nofun
theorem Opcode.fadd : ∀ g f, Opcode.Statement (.fadd g f) := fun _ f => Opcode.of_opcode rfl (Opcode.encR_opcode _ f) (by decide) nofun
theorem Opcode.fsub : ∀ g f, Opcode.Statement (.fsub g f) := fun _ f => Opcode.of_opcode rfl (Opcode.encR_opcode _ f) (by decide) nofun
theorem Opcode.fmul : ∀ g f, Opcode.Statement (.fmul g f) := fun _ f => Opcode.of_opcode rfl (Opcode.encR_opcode _ f) (by decide) nofun
theorem Opcode.fma : ∀ g f, Opcode.Statement (.fma g f) := fun _ f => Opcode.of_opcode rfl (Opcode.encR_opcode _ f) (by decide) nofun
theorem Opcode.fmin : ∀ g f, Opcode.Statement (.fmin g f) := fun _ f => Opcode.of_opcode rfl (Opcode.encR_opcode _ f) (by decide) nofun
theorem Opcode.fmax : ∀ g f, Opcode.Statement (.fmax g f) := fun _ f => Opcode.of_opcode rfl (Opcode.encR_opcode _ f) (by decide) nofun
theorem Opcode.fabs : ∀ g f, Opcode.Statement (.fabs g f) := fun _ f => Opcode.of_opcode rfl (Opcode.encR_opcode _ f) (by decide) nofun
theorem Opcode.fneg : ∀ g f, Opcode.Statement (.fneg g f) := fun _ f => Opcode.of_opcode rfl (Opcode.encR_opcode _ f) (by decide) nofun
theorem Opcode.fsetp : ∀ g f, Opcode.Statement (.fsetp g f) := fun _ f => Opcode.of_opcode rfl (Opcode.encR_opcode _ f) (by decide) nofun
theorem Opcode.fclass : ∀ g f, Opcode.Statement (.fclass g f) := fun _ f => Opcode.of_opcode rfl (Opcode.encR_opcode _ f) (by decide) nofun
theorem Opcode.frcp : ∀ g f, Opcode.Statement (.frcp g f) := fun _ f => Opcode.of_opcode rfl (Opcode.encR_opcode _ f) (by decide) nofun
theorem Opcode.frsq : ∀ g f, Opcode.Statement (.frsq g f) := fun _ f => Opcode.of_opcode rfl (Opcode.encR_opcode _ f) (by decide) nofun
theorem Opcode.fex2 : ∀ g f, Opcode.Statement (.fex2 g f) := fun _ f => Opcode.of_opcode rfl (Opcode.encR_opcode _ f) (by decide) nofun
theorem Opcode.flg2 : ∀ g f, Opcode.Statement (.flg2 g f) := fun _ f => Opcode.of_opcode rfl (Opcode.encR_opcode _ f) (by decide) nofun
theorem Opcode.cvt : ∀ g f, Opcode.Statement (.cvt g f) := fun _ f => Opcode.of_opcode rfl (Opcode.encR_opcode _ f) (by decide) nofun
theorem Opcode.cvtPk : ∀ g f, Opcode.Statement (.cvtPk g f) := fun _ f => Opcode.of_opcode rfl (Opcode.encR_opcode _ f) (by decide) nofun
theorem Opcode.cvtUp : ∀ g f, Opcode.Statement (.cvtUp g f) := fun _ f => Opcode.of_opcode rfl (Opcode.encR_opcode _ f) (by decide) nofun
theorem Opcode.cdyFit : ∀ g f, Opcode.Statement (.cdyFit g f) := fun _ f => Opcode.of_opcode rfl (Opcode.encR_opcode _ f) (by decide) nofun
theorem Opcode.ld : ∀ g f, Opcode.Statement (.ld g f) := fun _ f => Opcode.of_opcode rfl (Opcode.encM_opcode _ f) (by decide) nofun
theorem Opcode.st : ∀ g f, Opcode.Statement (.st g f) := fun _ f => Opcode.of_opcode rfl (Opcode.encM_opcode _ f) (by decide) nofun
theorem Opcode.ldRes : ∀ g f, Opcode.Statement (.ldRes g f) := fun _ f => Opcode.of_opcode rfl (Opcode.encM_opcode _ f) (by decide) nofun
theorem Opcode.stCond : ∀ g f, Opcode.Statement (.stCond g f) := fun _ f => Opcode.of_opcode rfl (Opcode.encM_opcode _ f) (by decide) nofun
theorem Opcode.fenceOrder : ∀ g f, Opcode.Statement (.fenceOrder g f) := fun _ f => Opcode.of_opcode rfl (Opcode.encR_opcode _ f) (by decide) nofun
theorem Opcode.fenceDone : ∀ g f, Opcode.Statement (.fenceDone g f) := fun _ f => Opcode.of_opcode rfl (Opcode.encR_opcode _ f) (by decide) nofun
theorem Opcode.fenceDoneRelease : ∀ a, Statement (.fenceDoneRelease a) := fun _ => of_none rfl
theorem Opcode.cmo : ∀ g f, Opcode.Statement (.cmo g f) := fun _ f => Opcode.of_opcode rfl (Opcode.encR_opcode _ f) (by decide) nofun
theorem Opcode.cmoSw : ∀ g f, Opcode.Statement (.cmoSw g f) := fun _ f => Opcode.of_opcode rfl (Opcode.encR_opcode _ f) (by decide) nofun
theorem Opcode.atomAdd : ∀ g f, Opcode.Statement (.atomAdd g f) := fun _ f => Opcode.of_opcode rfl (Opcode.encM_opcode _ f) (by decide) nofun
theorem Opcode.atomMin : ∀ g f, Opcode.Statement (.atomMin g f) := fun _ f => Opcode.of_opcode rfl (Opcode.encM_opcode _ f) (by decide) nofun
theorem Opcode.atomMax : ∀ g f, Opcode.Statement (.atomMax g f) := fun _ f => Opcode.of_opcode rfl (Opcode.encM_opcode _ f) (by decide) nofun
theorem Opcode.atomAnd : ∀ g f, Opcode.Statement (.atomAnd g f) := fun _ f => Opcode.of_opcode rfl (Opcode.encM_opcode _ f) (by decide) nofun
theorem Opcode.atomOr : ∀ g f, Opcode.Statement (.atomOr g f) := fun _ f => Opcode.of_opcode rfl (Opcode.encM_opcode _ f) (by decide) nofun
theorem Opcode.atomXor : ∀ g f, Opcode.Statement (.atomXor g f) := fun _ f => Opcode.of_opcode rfl (Opcode.encM_opcode _ f) (by decide) nofun
theorem Opcode.atomExch : ∀ g f, Opcode.Statement (.atomExch g f) := fun _ f => Opcode.of_opcode rfl (Opcode.encM_opcode _ f) (by decide) nofun
theorem Opcode.atomCas : ∀ g f, Opcode.Statement (.atomCas g f) := fun _ f => Opcode.of_opcode rfl (Opcode.encM_opcode _ f) (by decide) nofun
theorem Opcode.releasePerform : ∀ a, Statement (.releasePerform a) := fun _ => of_none rfl
theorem Opcode.accessComplete : ∀ a, Statement (.accessComplete a) := fun _ => of_none rfl
theorem Opcode.tlySig : ∀ g f, Opcode.Statement (.tlySig g f) := fun _ f => Opcode.of_opcode rfl (Opcode.encR_opcode _ f) (by decide) nofun
theorem Opcode.tlyAdd : ∀ g f, Opcode.Statement (.tlyAdd g f) := fun _ f => Opcode.of_opcode rfl (Opcode.encR_opcode _ f) (by decide) nofun
theorem Opcode.tlyWait : ∀ g f, Opcode.Statement (.tlyWait g f) := fun _ f => Opcode.of_opcode rfl (Opcode.encR_opcode _ f) (by decide) nofun
theorem Opcode.tlyPoll : ∀ g f, Opcode.Statement (.tlyPoll g f) := fun _ f => Opcode.of_opcode rfl (Opcode.encR_opcode _ f) (by decide) nofun
theorem Opcode.watchWake : ∀ a, Statement (.watchWake a) := fun _ => of_none rfl
theorem Opcode.barBlk : ∀ g f, Opcode.Statement (.barBlk g f) := fun _ f => Opcode.of_opcode rfl (Opcode.encR_opcode _ f) (by decide) nofun
theorem Opcode.barDev : ∀ g f, Opcode.Statement (.barDev g f) := fun _ f => Opcode.of_opcode rfl (Opcode.encR_opcode _ f) (by decide) nofun
theorem Opcode.deviceBarrierRelease : ∀ a, Statement (.deviceBarrierRelease a) := fun _ => of_none rfl
theorem Opcode.mxLd : ∀ g f, Opcode.Statement (.mxLd g f) := fun _ f => Opcode.of_opcode rfl (Opcode.encR_opcode _ f) (by decide) nofun
theorem Opcode.mxLdx : ∀ g f, Opcode.Statement (.mxLdx g f) := fun _ f => Opcode.of_opcode rfl (Opcode.encR_opcode _ f) (by decide) nofun
theorem Opcode.mxOp : ∀ g f, Opcode.Statement (.mxOp g f) := fun _ f => Opcode.of_opcode rfl (Opcode.encX_opcode _ f) (by decide) nofun
theorem Opcode.mxSt : ∀ g f, Opcode.Statement (.mxSt g f) := fun _ f => Opcode.of_opcode rfl (Opcode.encR_opcode _ f) (by decide) nofun
theorem Opcode.mxZero : ∀ g f, Opcode.Statement (.mxZero g f) := fun _ f => Opcode.of_opcode rfl (Opcode.encR_opcode _ f) (by decide) nofun
theorem Opcode.mxSync : ∀ g f, Opcode.Statement (.mxSync g f) := fun _ f => Opcode.of_opcode rfl (Opcode.encR_opcode _ f) (by decide) nofun
theorem Opcode.mxStart : ∀ a b, Statement (.mxStart a b) := fun _ _ => of_none rfl
theorem Opcode.mxComplete : ∀ a b, Statement (.mxComplete a b) := fun _ _ => of_none rfl
theorem Opcode.tsRun : ∀ g f, Opcode.Statement (.tsRun g f) := fun _ f => Opcode.of_opcode rfl (Opcode.encR_opcode _ f) (by decide) nofun
theorem Opcode.tsWait : ∀ g f, Opcode.Statement (.tsWait g f) := fun _ f => Opcode.of_opcode rfl (Opcode.encR_opcode _ f) (by decide) nofun
theorem Opcode.tsDescriptorStart : ∀ a b, Statement (.tsDescriptorStart a b) := fun _ _ => of_none rfl
theorem Opcode.gatePoll : ∀ a b, Statement (.gatePoll a b) := fun _ _ => of_none rfl
theorem Opcode.translationPrefetch : ∀ a b c, Statement (.translationPrefetch a b c) := fun _ _ _ => of_none rfl
theorem Opcode.tilePublish : ∀ a b, Statement (.tilePublish a b) := fun _ _ => of_none rfl
theorem Opcode.counterObserve : ∀ a b, Statement (.counterObserve a b) := fun _ _ => of_none rfl
theorem Opcode.storeTileRead : ∀ a b, Statement (.storeTileRead a b) := fun _ _ => of_none rfl
theorem Opcode.tsDescriptorFinish : ∀ a b, Statement (.tsDescriptorFinish a b) := fun _ _ => of_none rfl
theorem Opcode.digestComplete : ∀ a b, Statement (.digestComplete a b) := fun _ _ => of_none rfl
theorem Opcode.blockPlacement : ∀ a b, Statement (.blockPlacement a b) := fun _ _ => of_none rfl
theorem Opcode.blockRetire : ∀ a b, Statement (.blockRetire a b) := fun _ _ => of_none rfl
theorem Opcode.launchStopSaveComplete : ∀ a, Statement (.launchStopSaveComplete a) := fun _ => of_none rfl
theorem Opcode.l1Fill : ∀ a b, Statement (.l1Fill a b) := fun _ _ => of_none rfl
theorem Opcode.vaultRead : ∀ a, Statement (.vaultRead a) := fun _ => of_none rfl
theorem Opcode.evictionDrain : ∀ a, Statement (.evictionDrain a) := fun _ => of_none rfl
theorem Opcode.scrubRead : ∀ a, Statement (.scrubRead a) := fun _ => of_none rfl
theorem Opcode.scrubPassStart : ∀ a, Statement (.scrubPassStart a) := fun _ => of_none rfl
theorem Opcode.refresh : ∀ a b, Statement (.refresh a b) := fun _ _ => of_none rfl
theorem Opcode.temperatureEvaluation : ∀ a, Statement (.temperatureEvaluation a) := fun _ => of_none rfl
theorem Opcode.thermalTrip : Statement (.thermalTrip) := of_none rfl
theorem Opcode.steepBoundary : Statement (.steepBoundary) := of_none rfl
theorem Opcode.doorbell : ∀ a, Statement (.doorbell a) := fun _ => of_none rfl
theorem Opcode.queueFetch : ∀ a, Statement (.queueFetch a) := fun _ => of_none rfl
theorem Opcode.preDecode : ∀ a, Statement (.preDecode a) := fun _ => of_none rfl
theorem Opcode.nopCommand : ∀ a, Statement (.nopCommand a) := fun _ => of_none rfl
theorem Opcode.launch : ∀ a, Statement (.launch a) := fun _ => of_none rfl
theorem Opcode.launchComplete : ∀ a, Statement (.launchComplete a) := fun _ => of_none rfl
theorem Opcode.wait : ∀ a, Statement (.wait a) := fun _ => of_none rfl
theorem Opcode.queueWaitPoll : ∀ a, Statement (.queueWaitPoll a) := fun _ => of_none rfl
theorem Opcode.eventWatch : ∀ a, Statement (.eventWatch a) := fun _ => of_none rfl
theorem Opcode.cacheMaint : ∀ a, Statement (.cacheMaint a) := fun _ => of_none rfl
theorem Opcode.contextCreate : ∀ a, Statement (.contextCreate a) := fun _ => of_none rfl
theorem Opcode.contextTeardown : ∀ a, Statement (.contextTeardown a) := fun _ => of_none rfl
theorem Opcode.contextTeardownComplete : ∀ a, Statement (.contextTeardownComplete a) := fun _ => of_none rfl
theorem Opcode.mapPages : ∀ a, Statement (.mapPages a) := fun _ => of_none rfl
theorem Opcode.unmapPages : ∀ a, Statement (.unmapPages a) := fun _ => of_none rfl
theorem Opcode.protect : ∀ a, Statement (.protect a) := fun _ => of_none rfl
theorem Opcode.mappingChangeComplete : ∀ a, Statement (.mappingChangeComplete a) := fun _ => of_none rfl
theorem Opcode.carrelSet : ∀ a, Statement (.carrelSet a) := fun _ => of_none rfl
theorem Opcode.tallyAssign : ∀ a, Statement (.tallyAssign a) := fun _ => of_none rfl
theorem Opcode.tallyRelease : ∀ a, Statement (.tallyRelease a) := fun _ => of_none rfl
theorem Opcode.tallyRead : ∀ a, Statement (.tallyRead a) := fun _ => of_none rfl
theorem Opcode.pageRetire : ∀ a, Statement (.pageRetire a) := fun _ => of_none rfl
theorem Opcode.queueCreate : ∀ a, Statement (.queueCreate a) := fun _ => of_none rfl
theorem Opcode.queueDestroy : ∀ a, Statement (.queueDestroy a) := fun _ => of_none rfl
theorem Opcode.queueResume : ∀ a, Statement (.queueResume a) := fun _ => of_none rfl
theorem Opcode.queueHalt : ∀ a, Statement (.queueHalt a) := fun _ => of_none rfl
theorem Opcode.queueFlush : ∀ a, Statement (.queueFlush a) := fun _ => of_none rfl
theorem Opcode.recall : ∀ a, Statement (.recall a) := fun _ => of_none rfl
theorem Opcode.folioWrite : ∀ a, Statement (.folioWrite a) := fun _ => of_none rfl
theorem Opcode.folioRestore : ∀ a, Statement (.folioRestore a) := fun _ => of_none rfl
theorem Opcode.folioCommandStart : Statement (.folioCommandStart) := of_none rfl
theorem Opcode.folioFreezeComplete : Statement (.folioFreezeComplete) := of_none rfl
theorem Opcode.folioImageComplete : Statement (.folioImageComplete) := of_none rfl
theorem Opcode.folioRestoreComplete : Statement (.folioRestoreComplete) := of_none rfl
theorem Opcode.migrateSupply : ∀ a, Statement (.migrateSupply a) := fun _ => of_none rfl
theorem Opcode.migrateRefuse : ∀ a, Statement (.migrateRefuse a) := fun _ => of_none rfl
theorem Opcode.migrationComplete : ∀ a, Statement (.migrationComplete a) := fun _ => of_none rfl
theorem Opcode.openSession : ∀ a, Statement (.openSession a) := fun _ => of_none rfl
theorem Opcode.closeSession : ∀ a, Statement (.closeSession a) := fun _ => of_none rfl
theorem Opcode.ack : ∀ a, Statement (.ack a) := fun _ => of_none rfl
theorem Opcode.smtAckTimer : ∀ a, Statement (.smtAckTimer a) := fun _ => of_none rfl
theorem Opcode.smtResendTimer : ∀ a, Statement (.smtResendTimer a) := fun _ => of_none rfl
theorem Opcode.sessionLost : ∀ a, Statement (.sessionLost a) := fun _ => of_none rfl
theorem Opcode.command : ∀ a, Statement (.command a) := fun _ => of_none rfl
theorem Opcode.connect : ∀ a, Statement (.connect a) := fun _ => of_none rfl
theorem Opcode.disconnect : ∀ a, Statement (.disconnect a) := fun _ => of_none rfl
theorem Opcode.folioStored : ∀ a, Statement (.folioStored a) := fun _ => of_none rfl
theorem Opcode.folioReadData : ∀ a, Statement (.folioReadData a) := fun _ => of_none rfl
theorem Opcode.folioRefuse : ∀ a, Statement (.folioRefuse a) := fun _ => of_none rfl
theorem Opcode.catRead : ∀ a, Statement (.catRead a) := fun _ => of_none rfl
theorem Opcode.catWrite : ∀ a, Statement (.catWrite a) := fun _ => of_none rfl
theorem Opcode.describe : ∀ a, Statement (.describe a) := fun _ => of_none rfl
theorem Opcode.txn : ∀ a, Statement (.txn a) := fun _ => of_none rfl
theorem Opcode.writeSeg : ∀ a, Statement (.writeSeg a) := fun _ => of_none rfl
theorem Opcode.scrubPeriodHWrite : ∀ a, Statement (.scrubPeriodHWrite a) := fun _ => of_none rfl
theorem Opcode.carrelEntryWrite : ∀ a, Statement (.carrelEntryWrite a) := fun _ => of_none rfl
theorem Opcode.steepAlignWrite : ∀ a, Statement (.steepAlignWrite a) := fun _ => of_none rfl
theorem Opcode.linkModeWrite : ∀ a, Statement (.linkModeWrite a) := fun _ => of_none rfl
theorem Opcode.ptpModeWrite : ∀ a, Statement (.ptpModeWrite a) := fun _ => of_none rfl
theorem Opcode.fwStageWrite : ∀ a, Statement (.fwStageWrite a) := fun _ => of_none rfl
theorem Opcode.dramCountersClear : ∀ a, Statement (.dramCountersClear a) := fun _ => of_none rfl
theorem Opcode.tallyCountersClear : ∀ a, Statement (.tallyCountersClear a) := fun _ => of_none rfl
theorem Opcode.ccMaintClean : ∀ a, Statement (.ccMaintClean a) := fun _ => of_none rfl
theorem Opcode.ccMaintInvalidate : ∀ a, Statement (.ccMaintInvalidate a) := fun _ => of_none rfl
theorem Opcode.ccMaintCleanInvalidate : ∀ a, Statement (.ccMaintCleanInvalidate a) := fun _ => of_none rfl
theorem Opcode.ccMaintComplete : Statement (.ccMaintComplete) := of_none rfl
theorem Opcode.peerSet : ∀ a, Statement (.peerSet a) := fun _ => of_none rfl
theorem Opcode.planSet : ∀ a, Statement (.planSet a) := fun _ => of_none rfl
theorem Opcode.planClear : ∀ a, Statement (.planClear a) := fun _ => of_none rfl
theorem Opcode.warmReset : ∀ a, Statement (.warmReset a) := fun _ => of_none rfl
theorem Opcode.powerDown : ∀ a, Statement (.powerDown a) := fun _ => of_none rfl
theorem Opcode.powerDownComplete : Statement (.powerDownComplete) := of_none rfl
theorem Opcode.domainReset : ∀ a, Statement (.domainReset a) := fun _ => of_none rfl
theorem Opcode.domainResetComplete : ∀ a, Statement (.domainResetComplete a) := fun _ => of_none rfl
theorem Opcode.keyRevoke : ∀ a, Statement (.keyRevoke a) := fun _ => of_none rfl
theorem Opcode.fwCommit : ∀ a, Statement (.fwCommit a) := fun _ => of_none rfl
theorem Opcode.fwCommitComplete : ∀ a, Statement (.fwCommitComplete a) := fun _ => of_none rfl
theorem Opcode.attest : ∀ a, Statement (.attest a) := fun _ => of_none rfl
theorem Opcode.rdmaWrite : ∀ a, Statement (.rdmaWrite a) := fun _ => of_none rfl
theorem Opcode.rdmaRead : ∀ a, Statement (.rdmaRead a) := fun _ => of_none rfl
theorem Opcode.send : ∀ a, Statement (.send a) := fun _ => of_none rfl
theorem Opcode.roceAck : ∀ a, Statement (.roceAck a) := fun _ => of_none rfl
theorem Opcode.rdmaReadResponse : ∀ a, Statement (.rdmaReadResponse a) := fun _ => of_none rfl
theorem Opcode.roceNak : ∀ a, Statement (.roceNak a) := fun _ => of_none rfl
theorem Opcode.roceRetryTimer : ∀ a, Statement (.roceRetryTimer a) := fun _ => of_none rfl
theorem Opcode.connectionFailed : ∀ a, Statement (.connectionFailed a) := fun _ => of_none rfl
theorem Opcode.cnp : ∀ a, Statement (.cnp a) := fun _ => of_none rfl
theorem Opcode.pfcFrame : ∀ a b c, Statement (.pfcFrame a b c) := fun _ _ _ => of_none rfl
theorem Opcode.pfcPauseExpiry : ∀ a b, Statement (.pfcPauseExpiry a b) := fun _ _ => of_none rfl
theorem Opcode.arp : ∀ a, Statement (.arp a) := fun _ => of_none rfl
theorem Opcode.neighborDiscovery : ∀ a, Statement (.neighborDiscovery a) := fun _ => of_none rfl
theorem Opcode.icmpEcho : ∀ a, Statement (.icmpEcho a) := fun _ => of_none rfl
theorem Opcode.ptpMessage : ∀ a b, Statement (.ptpMessage a b) := fun _ _ => of_none rfl
theorem Opcode.unsupportedFrame : ∀ a, Statement (.unsupportedFrame a) := fun _ => of_none rfl
theorem Opcode.linkStateChange : ∀ a b, Statement (.linkStateChange a b) := fun _ _ => of_none rfl
theorem Opcode.peerWrite : ∀ a, Statement (.peerWrite a) := fun _ => of_none rfl
theorem Opcode.peerRead : ∀ a, Statement (.peerRead a) := fun _ => of_none rfl
theorem Opcode.peerAtomic : ∀ a, Statement (.peerAtomic a) := fun _ => of_none rfl
theorem Opcode.readResp : ∀ a, Statement (.readResp a) := fun _ => of_none rfl
theorem Opcode.atomicResp : ∀ a, Statement (.atomicResp a) := fun _ => of_none rfl
theorem Opcode.writeAck : ∀ a, Statement (.writeAck a) := fun _ => of_none rfl
theorem Opcode.keepalive : ∀ a, Statement (.keepalive a) := fun _ => of_none rfl
theorem Opcode.keepaliveTimer : ∀ a b, Statement (.keepaliveTimer a b) := fun _ _ => of_none rfl
theorem Opcode.keepaliveCheck : ∀ a b, Statement (.keepaliveCheck a b) := fun _ _ => of_none rfl
theorem Opcode.peerLost : ∀ a, Statement (.peerLost a) := fun _ => of_none rfl
theorem Opcode.peerResendTimer : ∀ a b, Statement (.peerResendTimer a b) := fun _ _ => of_none rfl
theorem Opcode.peerAckTimer : ∀ a b, Statement (.peerAckTimer a b) := fun _ _ => of_none rfl
theorem Opcode.reduce : ∀ a, Statement (.reduce a) := fun _ => of_none rfl
theorem Opcode.abort : ∀ a, Statement (.abort a) := fun _ => of_none rfl
theorem Opcode.reshardWrite : ∀ a, Statement (.reshardWrite a) := fun _ => of_none rfl
theorem Opcode.planControlPoll : ∀ a, Statement (.planControlPoll a) := fun _ => of_none rfl
theorem Opcode.planStepComplete : ∀ a, Statement (.planStepComplete a) := fun _ => of_none rfl
theorem Opcode.presenceWindowOpen : Statement (.presenceWindowOpen) := of_none rfl
theorem Opcode.presenceWindowClose : Statement (.presenceWindowClose) := of_none rfl
theorem Opcode.sealPeriod : ∀ a b, Statement (.sealPeriod a b) := fun _ _ => of_none rfl
theorem Opcode.sealBrokenLatch : Statement (.sealBrokenLatch) := of_none rfl
theorem Opcode.porstNAssert : Statement (.porstNAssert) := of_none rfl
theorem Opcode.porstNRelease : ∀ a, Statement (.porstNRelease a) := fun _ => of_none rfl
theorem Opcode.startupStepComplete : ∀ a, Statement (.startupStepComplete a) := fun _ => of_none rfl
theorem Opcode.warmrstNRise : Statement (.warmrstNRise) := of_none rfl
theorem Opcode.powerLoss : Statement (.powerLoss) := of_none rfl
theorem Opcode.jtagInstruction : ∀ a, Statement (.jtagInstruction a) := fun _ => of_none rfl
theorem Opcode.coreGrantRestoreDone : ∀ a, Statement (.coreGrantRestoreDone a) := fun _ => of_none rfl
theorem Opcode.undefinedOpcode : ∀ g x, Opcode.Statement (.undefinedOpcode g x) := by
  intro g x w hwf hw
  cases hw
  simp only [Instr.wf, Bool.and_eq_true] at hwf
  exact ⟨fun _ => ⟨g, x, rfl⟩, fun _ => hwf.2⟩
theorem Opcode.ethRefclkLoss : ∀ a, Statement (.ethRefclkLoss a) := fun _ => of_none rfl
theorem Opcode.ethRefclkReturn : ∀ a, Statement (.ethRefclkReturn a) := fun _ => of_none rfl

end Sys2Proof.Laws
end

