-- ==== Sys2Proof/Laws/Shared.lean ====
section
/-! SUPPORT. The shared operations: once for each, everything that it may change, and the answer that it gives. -/

namespace Sys2Proof.Machine

/-- Two states that differ in no more than the ports. -/
def OnlyPorts (s t : State) : Prop := t = { s with ports := t.ports }

theorem OnlyPorts.refl (s : State) : OnlyPorts s s := rfl

theorem OnlyPorts.trans {s t u : State} (h : OnlyPorts s t) (h' : OnlyPorts t u) : OnlyPorts s u := by
  unfold OnlyPorts at *
  exact h'.trans (by rw [h])

/-- Two states that differ in no more than the sync hub. -/
def OnlyHub (s t : State) : Prop := t = { s with hub := t.hub }

/-! ## Sending -/

theorem modChan_only (s : State) (n port : Nat) (f : Chan → Chan) : OnlyPorts s (s.modChan n port f) := rfl

theorem ackRides_only (s : State) (x : Sent) : OnlyPorts s (ackRides s x) := by
  unfold ackRides
  split
  · split
    · split <;> rfl
    · rfl
  · split <;> rfl
  · split <;> rfl
  · rfl

theorem leave_only (s : State) (x : Sent) (r : Route) (mac : BitVec 48) : OnlyPorts s (leave s x r mac) :=
  OnlyPorts.trans (t := { s with ports := _ }) rfl (ackRides_only _ x)

theorem hold_only (s : State) (x : Sent) : OnlyPorts s (hold s x) := rfl

theorem recordSent_only (s : State) (x : Sent) : OnlyPorts s (recordSent s x) := rfl

theorem askFor_only (s : State) (port : Nat) (ip : BitVec 128) : OnlyPorts s (askFor s port ip) := by
  unfold askFor
  dsimp only
  split
  · exact OnlyPorts.trans (recordSent_only s _) (hold_only _ _)
  · exact OnlyPorts.trans (recordSent_only s _) (leave_only _ _ _ _)

/-- Trying a frame changes the ports alone. -/
theorem offer_only (s : State) (x : Sent) : OnlyPorts s (offer s x) := by
  unfold offer
  split
  · rfl
  split
  · rfl
  split
  · exact hold_only s x
  dsimp only
  split
  · exact leave_only s x _ _
  · exact OnlyPorts.trans (hold_only s x) (askFor_only _ _ _)

/-- Giving a frame to a port changes the ports alone. -/
theorem emit_only (s : State) (x : Sent) : OnlyPorts s (emit s x) :=
  OnlyPorts.trans (recordSent_only s x) (offer_only _ x)

/-- So does trying the held frames again. -/
theorem pump_only (s : State) : OnlyPorts s (pump s) :=
  foldl_keeps (OnlyPorts s) _ _ (s := { s with ports := { s.ports with held := [] } }) rfl
    fun t x h => OnlyPorts.trans h (offer_only t x)

theorem setSession_only (s : State) (n : Nat) (v : Option Session) : OnlyPorts s (s.setSession n v) := rfl

/-- Sending a message changes the ports alone. -/
theorem smtSend_only (s : State) (n : Nat) (m : OutMsg) : OnlyPorts s (smtSend s n m) := by
  unfold smtSend
  split
  · rfl
  · dsimp only
    split
    · exact OnlyPorts.trans (setSession_only s n _) (emit_only _ _)
    · rfl

/-- Sending in a session that is open gives the message, numbered, to its port. -/
theorem smtSend_open {s : State} {n : Nat} {m : OutMsg} {x : Session} (h : s.session n = some x) (hx : x.unacked.length < 256) :
    smtSend s n m = emit (s.setSession n (some { x with
      unacked := x.unacked ++ [{ m with seq := x.txNext.toNat }], txNext := x.txNext + 1 })) (.smt n { m with seq := x.txNext.toNat }) := by
  simp only [smtSend, h, hx, if_true]

theorem smtAck_only (s : State) (n : Nat) (g : Bool) : OnlyPorts s (smtAck s n g) := by
  unfold smtAck
  split
  · rfl
  · exact OnlyPorts.trans (setSession_only s n _) (emit_only _ _)

theorem sendEvent_only (s : State) (x k n : Nat) (st : Status) (p : List Byte) : OnlyPorts s (sendEvent s x k n st p) :=
  smtSend_only _ _ _

theorem modPeer_only (s : State) (n : Nat) (f : Peer → Peer) : OnlyPorts s (s.modPeer n f) := rfl

/-- Sending a frame changes the ports alone. -/
theorem peerSend_only (s : State) (n port : Nat) (f : OutFrame) : OnlyPorts s (peerSend s n port f) := by
  unfold peerSend
  dsimp only
  split
  · exact OnlyPorts.trans (modChan_only s n port _) (emit_only _ _)
  · rfl

theorem rocePump_only (s : State) (n : Nat) : OnlyPorts s (rocePump s n) := by
  unfold rocePump
  split
  · rfl
  · exact foldl_keeps (OnlyPorts s) _ _ (s := s.setConn n _) rfl fun t q h => OnlyPorts.trans h (emit_only t _)

theorem roceIssue_only (s : State) (n : Nat) (w : Bool) (va : Nat) (k : Word) (len : Nat) (d : List Byte) (u : RdmaUse) :
    OnlyPorts s (roceIssue s n w va k len d u) := by
  unfold roceIssue
  split
  · rfl
  · dsimp only
    exact OnlyPorts.trans (t := s.setConn n _) rfl (rocePump_only _ n)

/-! ## The sync hub -/

theorem fireWatches_only (s : State) (n : Nat) (st : Status) (a : Bool) (p k : Watch → Bool) : OnlyHub s (fireWatches s n st a p k) := rfl

/-- A signal changes the sync hub alone. -/
theorem tallySignal_only (s : State) (add : Bool) (n v ctx tenant : Nat) (last : Status) :
    OnlyHub s (tallySignal s add n v ctx tenant last).2 := by
  unfold tallySignal
  dsimp only
  generalize (if add then (s.tally n).value + v else v) = new
  repeat' split
  all_goals rfl

/-- A tally keeps its 63 bits through a signal, and no other tally changes (R311, R316). -/
theorem tallySignal_value {s : State} (h : swf (fun _ => Tally.free) s.hub.tallies = true) (add : Bool) (n v ctx tenant : Nat)
    (last : Status) (m : Nat) :
    (m ≠ n → (tallySignal s add n v ctx tenant last).2.tally m = s.tally m) ∧
    ((s.tally n).value ≤ tallyMax → ((tallySignal s add n v ctx tenant last).2.tally n).value ≤ tallyMax) := by
  have get (i : Nat) (f : Tally → Tally) : (s.modTally n f).tally i = if i = n then f (s.tally n) else s.tally i :=
    State.tally_modTally s h
  unfold tallySignal
  dsimp only
  generalize (if add then (s.tally n).value + v else v) = new
  split
  · exact ⟨fun _ => rfl, id⟩
  split
  · exact ⟨fun _ => rfl, id⟩
  split
  · exact ⟨fun _ => rfl, id⟩
  split
  · exact ⟨fun _ => rfl, id⟩
  split
  · exact ⟨fun _ => rfl, id⟩
  rename_i hn _
  have hv (t : State) (ht : ∀ i, t.tally i = (s.modTally n fun x => { x with value := Nat.max x.value new, lastStatus := last }).tally i) :
      (m ≠ n → t.tally m = s.tally m) ∧ ((s.tally n).value ≤ tallyMax → (t.tally n).value ≤ tallyMax) := by
    refine ⟨fun hm => by rw [ht, get, if_neg hm], fun ho => ?_⟩
    rw [ht, get, if_pos rfl]
    exact Nat.max_le.2 ⟨ho, Nat.le_of_not_lt hn⟩
  split
  · exact hv _ fun i => rfl
  · exact hv _ fun i => rfl

/-- Registering a watch appends it, or refuses when the table or the tenant's quota is full (R320). -/
theorem registerWatch_some {s t : State} {w : Watch} (h : registerWatch s w = some t) :
    s.hub.watches.length < 16384 ∧ watchesOf s w.tenant < s.hub.quota ∧
    t = { s with hub := { s.hub with watches := s.hub.watches ++ [w] } } := by
  unfold registerWatch at h
  split at h
  · rename_i c; exact ⟨c.1, c.2, (Option.some.inj h).symm⟩
  · cases h

/-! ## Queues -/

/-- Two states that differ in no more than the hub, the Desk and the contexts. -/
def OnlyDesk (s t : State) : Prop := t = { s with hub := t.hub, desk := t.desk, ctxs := t.ctxs }

theorem OnlyDesk.refl (s : State) : OnlyDesk s s := rfl

theorem OnlyDesk.trans {s t u : State} (h : OnlyDesk s t) (h' : OnlyDesk t u) : OnlyDesk s u := by
  unfold OnlyDesk at *
  exact h'.trans (by rw [h])

theorem OnlyHub.desk {s t : State} (h : OnlyHub s t) : OnlyDesk s t := by
  unfold OnlyHub at h
  unfold OnlyDesk
  rw [h]

theorem modQueue_only (s : State) (n : Nat) (f : Queue → Queue) : OnlyDesk s (s.modQueue n f) := rfl

theorem modCtx_only (s : State) (n : Nat) (f : Ctx → Ctx) : OnlyDesk s (s.modCtx n f) := rfl

theorem noteFail_only (s : State) (n pos : Nat) (st : Status) : OnlyDesk s (noteFail s n pos st) := rfl

theorem closeCmd_only (s : State) (n pos : Nat) : OnlyDesk s (closeCmd s n pos) := rfl

theorem noteProgress_only (s : State) (ctx : Nat) : OnlyDesk s (noteProgress s ctx) := rfl

/-- A command's signal changes the hub and the queue's last failure. -/
theorem signalCmd_only (s : State) (n pos : Nat) (p : BitVec 512) (st : Status) : OnlyDesk s (signalCmd s n pos p st) := by
  unfold signalCmd
  dsimp only
  have h := (tallySignal_only s (bit p 11) (fld p 16 16) (fld p 64 63) (s.queue n).ctx (tenantOf s (s.queue n).ctx) st).desk
  split
  · exact OnlyDesk.refl s
  · split
    · exact h
    · exact h.trans (noteFail_only _ _ _ _)

/-- Completing a command changes the hub, the Desk and the context's ledger, and nothing else. -/
theorem completeCmd_only (s : State) (n pos : Nat) (p : BitVec 512) (st : Status) : OnlyDesk s (completeCmd s n pos p st) := by
  have rest (t : State) (h : OnlyDesk s t) : OnlyDesk s (closeCmd (noteProgress
      ((t.modQueue n fun q => { q with cmdsRetired := satAdd 64 q.cmdsRetired 1, lastProgress := steepNow t }).modCtx
        ((t.modQueue n fun q => { q with cmdsRetired := satAdd 64 q.cmdsRetired 1, lastProgress := steepNow t }).queue n).ctx
        fun c => { c with cmdsRetired := satAdd 64 c.cmdsRetired 1 })
      (((t.modQueue n fun q => { q with cmdsRetired := satAdd 64 q.cmdsRetired 1, lastProgress := steepNow t }).modCtx
        ((t.modQueue n fun q => { q with cmdsRetired := satAdd 64 q.cmdsRetired 1, lastProgress := steepNow t }).queue n).ctx
        fun c => { c with cmdsRetired := satAdd 64 c.cmdsRetired 1 }).queue n).ctx) n pos) :=
    (((h.trans (modQueue_only t n _)).trans (modCtx_only _ _ _)).trans (noteProgress_only _ _)).trans (closeCmd_only _ _ _)
  unfold completeCmd
  split
  · exact OnlyDesk.refl s
  · dsimp only
    split
    · exact rest _ (signalCmd_only s n pos p _)
    · exact rest _ ((noteFail_only s n pos st).trans (signalCmd_only _ n pos p st))

end Sys2Proof.Machine
end

