-- ==== Sys2Proof/Tests/Setup.lean ====
section
/-! SUPPORT. The small states on which the tests and the witnesses run: a running device whose DRAM holds zeros, one LIVE context
with one page, one launch on one core and one group. -/

namespace Sys2Proof.Tests

open Machine

/-- A running device: every domain runs its clock, DRAM is cleared, nothing is created. -/
def idle : State :=
  { State.reset with
      power := { State.reset.power with
        porstLow := false, stoppedLow := false, clocks := BitVec.allOnes 64, devState := .running, step := 9, memReady := true,
        now := 40000000 },
      dram := { State.reset.dram with background := 0, factoryRetired := [] } }

/-- A KIND 1 leaf with every permission: page `p` of DRAM. -/
def leafTo (va p : Nat) : Leaf := { va := va, size := 0, word := BitVec.ofNat 64 (p <<< 16 ||| 0x3B) }

/-- Context 5 of tenant 7, LIVE, with virtual page 1 on DRAM page 1 and page 2 on DRAM page 2. -/
def live : State :=
  { idle with
      ctxs := [(5, { Ctx.fresh with state := .live, tenant := 7 })],
      xlat := { idle.xlat with leaves := [(5, [leafTo 0x10000 1, leafTo 0x20000 2])] } }

/-- A descriptor: ENTRY_PC, GRID 2 x 2 x 1, 32 threads, 64 registers, 64 KiB of local store, 1 KiB of it for a block, spill depth 4. -/
def desc : BitVec 1024 :=
  at_ 1024 0 0x10000 ||| at_ 1024 64 1 ||| at_ 1024 80 1 ||| at_ 1024 128 32 ||| at_ 1024 144 64 ||| at_ 1024 160 64 |||
    at_ 1024 176 1 ||| at_ 1024 192 4

/-- Launch 3 of queue 9: one block placed, on core 2. -/
def launch : Launch :=
  { queue := 9, pos := 0, packet := 1, ctx := 5, serving := false, desc := desc, uniforms := [], cores := [2], next := 1, retired := 0,
    channels := [], started := true, steep := 0, ended := false }

/-- A group at the first word of the page with every lane active. -/
def group : Group :=
  { launch := 3, block := 0, index := 0, pc := 0x10000, active := BitVec.allOnes 32, exited := 0, v := [(32, 6), (33, 7)], u := [(1, 9)],
    p := [(0, 2)], stack := [], spilled := 0, flags := 0, wait := .ready, res := [], epoch := 0 }

/-- A core that holds launch 3 with `g` in slot 1 of quadrant 1. -/
def coreWith (g : Group) : Core :=
  { Core.idle with
      work := { CoreWork.empty with
        launch := some 3, groups := [(17, some g)], blocks := [(0, some { launch := 3, number := 0, region := 0, slots := [17] })] },
      prevCtx := some 5, prevLsKib := 64, since := some 1 }

/-- Queue 9, ACTIVE, of context 5, with its ring in page 2. -/
def queue : Queue :=
  { Queue.disabled with
      state := .active, ctx := 5, session := 1, log2 := 4, ring := 0x20000, record := 0x28000, readPos := 1, writePos := 1,
      opened := [⟨0, 1⟩] }

/-- The running machine with group `g`. -/
def withGroup (g : Group) : State :=
  { live with cores := [(2, coreWith g)], desk := { live.desk with launches := [(3, some launch)], queues := [(9, queue)] } }

/-- The machine with a group that may issue. -/
def run : State := withGroup group

/-- The group's name. -/
def ref : GroupRef := ⟨2, 1, 1⟩

/-- What an instruction sees before it is fetched. -/
def envAt (s : State) (g : Group) : Env := { s := s, c := 2, quad := 1, slot := 1, k := 17, g := g, n := 3, l := launch }

/-- What it sees when it has been fetched. -/
def fetched (e : Env) : Env := match fetchCheck e with | .ok s => { e with s := s } | _ => e

/-- What an instruction sees. -/
def envOf (s : State) (g : Group) : Env := fetched (envAt s g)

/-- A machine with cleared DRAM that passes the test is canonical. -/
theorem canonical_of {s : State} (hb : s.dram.bytes = []) (hk : s.dram.checks = []) (h : canonicalB s = true) : Canonical s :=
  canonicalB_sound (by unfold Memory.wf; rw [hb]; rfl) (by unfold Memory.checksWf; rw [hk]; rfl) h

/-- No fields, no guard. -/
def bare : RFields :=
  { guard := ⟨false, false, 0⟩, dst := 0, srcA := 0, srcB := 0, srcC := 0, reuseA := false, reuseB := false, reuseC := false, mod := 0 }

end Sys2Proof.Tests
end

