-- ==== Sys2Proof/Tests/Forms.lean ====
section
/-! SUPPORT. Witnesses for the statements about instructions of a group: for each form a state, a group and fields that meet the
statement's hypotheses. -/

namespace Sys2Proof.Tests

-- one theorem after another: each `decide` waits for the kernel, and waiting side by side costs a thread each
set_option Elab.async false

open Machine Says

/-- A group of the launch that is not waiting and has not exited may issue. -/
theorem ready_withGroup {s : State} {g : Group} (hc : s.core 2 = coreWith g) (hl : s.launch 3 = some launch)
    (hp : s.power.clocks = BitVec.allOnes 64) (h3 : g.launch = 3) (hw : g.wait = .ready) (hd : g.done = false) :
    ready? s ref = some (envAt s g) := by
  have hg : s.group ref.core (gkey ref) = some g := by
    unfold State.group
    rw [show ref.core = 2 from rfl, hc]
    rfl
  have hs : (s.core ref.core).stage = .running := by
    rw [show ref.core = 2 from rfl, hc]
    rfl
  have hu : clusterUp s (ref.core / 16) = true := by
    unfold clusterUp
    rw [hp]
    decide +kernel
  have hc' : ref.core < coreCount ∧ ref.quad < 4 ∧ ref.slot < 16 ∧ clusterUp s (ref.core / 16) ∧ (s.core ref.core).stage = .running :=
    ⟨by decide, by decide, by decide, hu, hs⟩
  have hw' : g.wait = .ready ∧ !g.done ∧ (launch.devBars = 0 ∨ allHome s 3 launch = true) := ⟨hw, by rw [hd]; rfl, Or.inl (by decide +kernel)⟩
  unfold ready?
  rw [if_pos hc', hg]
  dsimp only
  rw [h3, hl]
  dsimp only
  rw [if_pos hw']
  rfl

/-- The checks of an issue behind readiness, as one test. -/
def passes (e : Env) (i : Form) : Bool :=
  !hazard e i && (match fetchCheck e with | .ok _ => true | _ => false) && (formTrap e i).isNone

/-- What a ready group sees is the state itself. -/
theorem ready_state {s : State} {r : GroupRef} {e : Env} (h : ready? s r = some e) : e.s = s := by
  unfold ready? at h
  repeat' split at h
  all_goals first | cases h; rfl | cases h

/-- A ready group whose instruction passes the checks runs it. -/
theorem runs_of {s : State} {r : GroupRef} {i : Form} {e : Env} (h : ready? s r = some e) (hp : passes e i = true) :
    Runs s r i (fetched e) := by
  simp only [passes, Bool.and_eq_true, Bool.not_eq_true', Option.isNone_iff_eq_none] at hp
  obtain ⟨⟨h1, h2⟩, h3⟩ := hp
  have hs := ready_state h
  subst hs
  cases hf : fetchCheck e with
  | ok u =>
    have he : fetched e = { e with s := u } := by simp [fetched, hf]
    rw [he]
    exact ⟨h, h1, hf, h3⟩
  | trap _ _ => rw [hf] at h2; cases h2
  | wait _ => rw [hf] at h2; cases h2

theorem run_canonical : Canonical run := canonical_of rfl rfl (by decide +kernel)

theorem run_ready : ready? run ref = some (envAt run group) := ready_withGroup rfl rfl rfl rfl rfl (by decide)

/-- Some state, group and operands run an instruction of form `i` with a lane that acts. -/
def Met (i : Form) : Prop := ∃ s r e, Canonical s ∧ Runs s r i e ∧ e.acts i ≠ []

theorem met_of {i : Form} (h : passes (envAt run group) i = true) (ha : (envOf run group).acts i ≠ []) : Met i :=
  ⟨run, ref, envOf run group, run_canonical, runs_of run_ready h, ha⟩

/-- Fields of an instruction that reads v4, v6 and v8 and writes v2, with MOD `m`; `n` sources. -/
def fields (n m : Nat) : RFields :=
  { bare with dst := 2, srcA := 4, srcB := if 2 ≤ n then 6 else 0, srcC := if 3 ≤ n then 8 else 0, mod := BitVec.ofNat 12 m }

/-- Fields that write s2 from s4 and s6. -/
def sFields (m : Nat) : RFields := { bare with dst := 0x102, srcA := 0x104, srcB := 0x106, mod := BitVec.ofNat 12 m }

/-- I-format fields that read v4 and write v2. -/
def iFields : IFields := { guard := ⟨false, false, 0⟩, dst := 2, srcA := 4, reuseA := false, imm := 5 }

/-- IntegerArithmetic: two v operands, a saturating form, uniform operands, and ZR as destination. -/
theorem integerArithmetic_met :
    Met (form2 tAll true (fields 2 tS64)) ∧ Met (form2 tAll true (fields 2 (tS32 + 128))) ∧ Met (form2 tAll true (sFields tU32)) ∧
    Met (form2 tAll true { fields 2 tU32 with dst := ZR }) ∧ Met (formW2 [tS32, tU32] (fields 2 tS32)) ∧
    Met (opForm (fields 3 tS64) (modStd (fields 3 tS64) tAll false false 1) 2 (.reg 1) (.reg 1) (.reg 2)) :=
  ⟨met_of (by decide +kernel) (by decide +kernel), met_of (by decide +kernel) (by decide +kernel),
   met_of (by decide +kernel) (by decide +kernel), met_of (by decide +kernel) (by decide +kernel),
   met_of (by decide +kernel) (by decide +kernel), met_of (by decide +kernel) (by decide +kernel)⟩

/-- IntegerSelections. -/
theorem integerSelections_met :
    Met (form2 tAll false (fields 2 tS32)) ∧ Met (form1 [tS32, tS64] true (fields 1 (tS32 + 128))) ∧
    Met (opForm (fields 1 tU32) (modStd (fields 1 tU32) [tU32] false false 1) 1 (.reg 1) .unused .unused) ∧
    Met (opForm { fields 2 tU32 with srcC := 1 } (modStd { fields 2 tU32 with srcC := 1 } [tU32] false false 1) 1 (.reg 1) (.reg 1) .pred) :=
  ⟨met_of (by decide +kernel) (by decide +kernel), met_of (by decide +kernel) (by decide +kernel),
   met_of (by decide +kernel) (by decide +kernel), met_of (by decide +kernel) (by decide +kernel)⟩

/-- IntegerLogic. -/
theorem integerLogic_met :
    Met (form2 [tU32, tU64] false (fields 2 tU64)) ∧ Met (form1 [tU32, tU64] false (fields 1 tU32)) ∧ Met (formCount (fields 1 tU64)) ∧
    Met (opForm (fields 3 (tU32 + 16 * 0x96)) (rTyp (fields 3 (tU32 + 16 * 0x96)) == tU32) 1 (.reg 1) (.reg 1) (.reg 1)) :=
  ⟨met_of (by decide +kernel) (by decide +kernel), met_of (by decide +kernel) (by decide +kernel),
   met_of (by decide +kernel) (by decide +kernel), met_of (by decide +kernel) (by decide +kernel)⟩

/-- IntegerShifts. -/
theorem integerShifts_met :
    Met (formShift [tU32, tU64] (fields 2 tU64)) ∧ Met (formShift [tS32, tS64] (fields 2 tS32)) ∧ Met (formW2 [tU32, tS32] (fields 2 tS32)) ∧
    Met (formW3 [tU32] (fields 3 tU32)) :=
  ⟨met_of (by decide +kernel) (by decide +kernel), met_of (by decide +kernel) (by decide +kernel),
   met_of (by decide +kernel) (by decide +kernel), met_of (by decide +kernel) (by decide +kernel)⟩

/-- Immediates. -/
theorem immediates_met :
    Met (iForm iFields (.reg 1) (.reg 1) true) ∧ Met (iForm { iFields with srcA := 0 } (.reg 1) .unused true) :=
  ⟨met_of (by decide +kernel) (by decide +kernel), met_of (by decide +kernel) (by decide +kernel)⟩

/-- Fields of `plop`, `vote` and the predicate forms. -/
def pFields (op : Nat) : RFields := { bare with dst := 3, srcA := 1, srcB := 2, mod := BitVec.ofNat 12 (256 * op) }

/-- Predicates: each clause, `vote` in each of its three operations. -/
theorem predicates_met :
    Met (formSetp { fields 2 (tS64 + 256 * 5) with dst := 7 }) ∧ Met (formSetpI { iFields with dst := 0x2F }) ∧
    Met (formPlop (pFields 15)) ∧ Met (voteForm { pFields 0 with srcB := 0 }) ∧ Met (voteForm { pFields 1 with srcB := 0 }) ∧
    (Met (voteForm { pFields 2 with srcB := 0 }) ∧ rOpx (pFields 2) = 2) :=
  ⟨met_of (by decide +kernel) (by decide +kernel), met_of (by decide +kernel) (by decide +kernel),
   met_of (by decide +kernel) (by decide +kernel), met_of (by decide +kernel) (by decide +kernel),
   met_of (by decide +kernel) (by decide +kernel), met_of (by decide +kernel) (by decide +kernel), by decide⟩

/-- SpecialValues: the last special value, the flags, and `shfl` in its last mode. -/
theorem specialValues_met :
    Met (rdSvForm { bare with dst := 2, srcA := 10 }) ∧
    Met (rForm { bare with dst := 0x102 } (.reg 1) .unused .unused .unused true true false) ∧
    Met (rForm { bare with srcA := 0x102 } .unused (.reg 1) .unused .unused true true false) ∧
    Met (rForm (fields 2 (256 * 3)) (.reg 1) (.reg 1) (.reg 1) .unused
      (modStd (fields 2 (256 * 3)) [0] false false 4 && isV (fields 2 (256 * 3)).dst) false false) :=
  ⟨met_of (by decide +kernel) (by decide +kernel), met_of (by decide +kernel) (by decide +kernel),
   met_of (by decide +kernel) (by decide +kernel), met_of (by decide +kernel) (by decide +kernel)⟩

/-- FloatOperations: one form of each shape, F16, F32 and F64 among them. -/
theorem floatOperations_met :
    Met (formF2 true (fields 2 0x41)) ∧ Met (formF2 false (fields 2 2)) ∧ Met (formF1 (fields 1 0)) ∧
    Met (opForm (fields 3 2) (modStd (fields 3 2) tFloat true false 1) 2 (.reg 2) (.reg 2) (.reg 2)) ∧
    Met (opForm (fields 1 2) (modStd (fields 1 2) [0, 2] false false 1) 1 (.reg 2) .unused .unused) ∧
    Met (rForm { fields 2 0x700 with dst := 7 } .pred (.reg 1) (.reg 1) .unused
      (modStd { fields 2 0x700 with dst := 7 } tFloat false false 8) false false) :=
  ⟨met_of (by decide +kernel) (by decide +kernel), met_of (by decide +kernel) (by decide +kernel),
   met_of (by decide +kernel) (by decide +kernel), met_of (by decide +kernel) (by decide +kernel),
   met_of (by decide +kernel) (by decide +kernel), met_of (by decide +kernel) (by decide +kernel)⟩

/-- RoundingIsNearest: three numbers of F16 with a finite product and sum. -/
theorem roundingIsNearest_met :
    Finite f16 0x3C00 ∧ Finite f16 0xBC01 ∧ Finite f16 1 ∧ Finite f16 (fAdd f16 0 0 0x3C00 0xBC01).1 ∧
    Finite f16 (fMul f16 0 0 0x3C00 0xBC01).1 ∧ Finite f16 (fFma f16 0 0 0x3C00 0xBC01 1).1 :=
  ⟨⟨by decide, _, _, _, rfl⟩, ⟨by decide, _, _, _, rfl⟩, ⟨by decide, _, _, _, rfl⟩, ⟨by decide +kernel, _, _, _, rfl⟩,
   ⟨by decide +kernel, _, _, _, rfl⟩, ⟨by decide +kernel, _, _, _, rfl⟩⟩

end Sys2Proof.Tests
end

