-- ==== Sys2Proof/Tests/Flow.lean ====
section
/-! SUPPORT. Witnesses for the statements about control instructions, floating-point conversions and memory instructions. -/

namespace Sys2Proof.Tests

-- one theorem after another: each `decide` waits for the kernel, and waiting side by side costs a thread each
set_option Elab.async false

open Machine Says

/-- A B-format branch by `target` and `reconv` instructions, guarded by predicate 1. -/
def branch (en : Bool) (target reconv : BitVec 25) : BFields :=
  { guard := ⟨en, false, 1⟩, target := target, reconv := reconv, rsv := false }

/-- DivergentBranch: the target runs first, the path at the reconvergence address is over, and both are. -/
theorem divergentBranch_met :
    let e := envOf run group
    (Canonical run ∧ Runs run ref (braForm (branch true 5 9)) e ∧ e.g.acting (branch true 5 9).guard ≠ e.g.active ∧
      e.g.acting (branch true 5 9).guard ≠ 0 ∧ e.g.stack.length < 8) ∧
    (Runs run ref (braForm (branch true 5 1)) e ∧ pcPlus e.g.pc (branch true 5 1).reconv = e.g.pc + 8) ∧
    (Runs run ref (braForm (branch true 1 1)) e ∧ pcPlus e.g.pc (branch true 1 1).target = e.g.pc + 8) :=
  ⟨⟨run_canonical, runs_of run_ready (by decide +kernel), by decide +kernel, by decide +kernel, by decide +kernel⟩,
   ⟨runs_of run_ready (by decide +kernel), by decide +kernel⟩, ⟨runs_of run_ready (by decide +kernel), by decide +kernel⟩⟩

/-- A group whose predicate 1 is clear in every lane. -/
def groupNone : Group := { group with p := [] }

theorem runNone_canonical : Canonical (withGroup groupNone) := canonical_of rfl rfl (by decide +kernel)

theorem runNone_ready : ready? (withGroup groupNone) ref = some (envAt (withGroup groupNone) groupNone) :=
  ready_withGroup rfl rfl rfl rfl rfl (by decide)

/-- The running machine with debug enabled. -/
def runDebug : State := { run with sec := { run.sec with debugEnable := 1, debugCtx := 5 } }

theorem runDebug_canonical : Canonical runDebug := canonical_of rfl rfl (by decide +kernel)

theorem runDebug_ready : ready? runDebug ref = some (envAt runDebug group) := ready_withGroup rfl rfl rfl rfl rfl (by decide)

/-- FlowInstructions: each clause. -/
theorem flowInstructions_met :
    let e := envOf run group
    let n := envOf (withGroup groupNone) groupNone
    let d := envOf runDebug group
    Met (formBare bare) ∧
    (Canonical run ∧ Runs run ref (braForm (branch false 5 0)) e ∧ e.g.acting (branch false 5 0).guard = e.g.active) ∧
    (Canonical (withGroup groupNone) ∧ Runs (withGroup groupNone) ref (braForm (branch true 5 9)) n ∧
      n.g.acting (branch true 5 9).guard = 0 ∧ n.g.active ≠ 0) ∧
    Met (formJmp { bare with srcA := 0x102 }) ∧ Met (formCall (branch false 5 0)) ∧
    (Canonical run ∧ Runs run ref (formBare bare) e ∧ e.g.acting bare.guard ≠ 0 ∧ unreportedFailure run e.c e.k e.n = false) ∧
    (Canonical runDebug ∧ Runs runDebug ref (formBare bare) d ∧ d.acts (formBare bare) ≠ [] ∧ debugOn runDebug d.l.ctx = true ∧
      (runDebug.core d.c).work.launch = some d.n) :=
  ⟨met_of (by decide +kernel) (by decide +kernel),
   ⟨run_canonical, runs_of run_ready (by decide +kernel), by decide +kernel⟩,
   ⟨runNone_canonical, runs_of runNone_ready (by decide +kernel), by decide +kernel, by decide +kernel⟩,
   met_of (by decide +kernel) (by decide +kernel), met_of (by decide +kernel) (by decide +kernel),
   ⟨run_canonical, runs_of run_ready (by decide +kernel), by decide +kernel, by decide +kernel⟩,
   ⟨runDebug_canonical, runs_of runDebug_ready (by decide +kernel), by decide +kernel, by decide +kernel, by decide +kernel⟩⟩

/-- ConversionsAndFunctions: each clause; the special operand of a function is the zero that v4 holds. -/
theorem conversionsAndFunctions_met :
    Met (formCvt (fields 1 0x200)) ∧ Met (formPack (fields 3 4)) ∧ Met (formUnpack (fields 2 0x304)) ∧ Met (formFit (fields 1 0x104)) ∧
    Met (formApprox (fields 1 0)) ∧ resultLanes (envOf run group) (formApprox (fields 1 0)) ≠ [] ∧
    specialCase (0x7F800000, fDivZero) (0xFF800000, fDivZero) (0, 0) (0x80000000, 0) none
      (flushIn f32 0 (src (envOf run group) 4 1 0)) = some (0x7F800000, fDivZero) :=
  ⟨met_of (by decide +kernel) (by decide +kernel), met_of (by decide +kernel) (by decide +kernel),
   met_of (by decide +kernel) (by decide +kernel), met_of (by decide +kernel) (by decide +kernel),
   met_of (by decide +kernel) (by decide +kernel), by decide +kernel, by decide +kernel⟩

/-! ## Memory instructions -/

/-- M-format fields: data in v8, the address in v4 (and v5), the comparand in `d2`. -/
def mFields (space : Bool) (size : BitVec 3) (sem : BitVec 2) (off : BitVec 12) (d2 : BitVec 9) : MFields :=
  { guard := ⟨false, false, 0⟩, data := 8, addr := 4, data2 := d2, size := size, cache := 0, sem := sem, space := space, sext := false,
    reuseData := false, reuseAddr := false, reuseD2 := false, offset := off }

/-- A group whose lane 0 alone is active, with 0x10000 in v4. -/
def groupMem : Group := { group with active := 1, exited := 0xFFFFFFFE, v := [(64, 6), (65, 7), (128, 0x10000)] }

theorem runMem_canonical : Canonical (withGroup groupMem) := canonical_of rfl rfl (by decide +kernel)

theorem runMem_ready : ready? (withGroup groupMem) ref = some (envAt (withGroup groupMem) groupMem) :=
  ready_withGroup rfl rfl rfl rfl rfl (by decide)

/-- The hypotheses of a local-store form, at the last bytes of the block's part. -/
def LocalMet (form : MFields → Form) (f : MFields) : Prop := ∃ s r e, LocalOps s r e f (form f)

theorem localMet_of {form : MFields → Form} {f : MFields} (h : passes (envAt run group) (form f) = true) (hs : f.space = true)
    (ha : (envOf run group).acts (form f) ≠ [])
    (hl : ∀ l ∈ (envOf run group).acts (form f), mAddr f (envOf run group).g l % mBytes f = 0 ∧
      mAddr f (envOf run group).g l + mBytes f ≤ (envOf run group).l.lsPer * 1024) :
    LocalMet form f := ⟨run, ref, envOf run group, run_canonical, runs_of run_ready h, hs, ha, hl⟩

/-- The hypotheses of a global form whose lanes name DRAM of this device. -/
def GlobalMet (form : MFields → Form) (kind : AccKind) (f : MFields) : Prop := ∃ s r e pa, GlobalOps s r e f (form f) kind pa

theorem globalMet_of {form : MFields → Form} {kind : AccKind} {f : MFields} {pa : Nat}
    (h : passes (envAt (withGroup groupMem) groupMem) (form f) = true) (hs : f.space = false)
    (ha : (envOf (withGroup groupMem) groupMem).acts (form f) = [0]) (hm : mAddr f (envOf (withGroup groupMem) groupMem).g 0 % mBytes f = 0)
    (hv : mAddr f (envOf (withGroup groupMem) groupMem).g 0 < 2 ^ 56) (hp : pa < dramEnd)
    (ht : translate (lookedUp (envOf (withGroup groupMem) groupMem) (form f) f) (.core (envOf (withGroup groupMem) groupMem).c)
      (envOf (withGroup groupMem) groupMem).l.ctx (mAddr f (envOf (withGroup groupMem) groupMem).g 0) kind.xkind =
        .ok (leafTo 0x10000 1, .phys pa false)) :
    GlobalMet form kind f :=
  ⟨withGroup groupMem, ref, envOf (withGroup groupMem) groupMem, fun _ => pa, runMem_canonical, runs_of runMem_ready h, hs,
   by rw [ha]; decide, by
     rw [ha]
     intro l hl
     rw [List.mem_singleton] at hl
     subst hl
     exact ⟨hm, hv, hp, _, ht⟩⟩

end Sys2Proof.Tests
end

