-- ==== Sys2Proof/Tests/Accesses.lean ====
section
/-! SUPPORT. Witnesses for the statements about accesses: their issue, local store, homes, fences, releases, tallies, barriers. -/

namespace Sys2Proof.Tests

-- one theorem after another: each `decide` waits for the kernel, and waiting side by side costs a thread each
set_option Elab.async false

open Machine Says

/-- MemoryInstructions, local store: every form, at an address that is the offset alone. -/
theorem memoryInstructions_local_met :
    LocalMet formLd (mFields true 4 1 1008 0) ∧ LocalMet formSt (mFields true 4 2 1008 0) ∧
    LocalMet (formAtom true false) (mFields true 3 3 1016 0) ∧ LocalMet (formAtom false false) (mFields true 2 0 0 0) ∧
    LocalMet (formAtom false true) (mFields true 3 3 1016 6) :=
  ⟨localMet_of (by decide +kernel) rfl (by decide +kernel) (by decide +kernel),
   localMet_of (by decide +kernel) rfl (by decide +kernel) (by decide +kernel),
   localMet_of (by decide +kernel) rfl (by decide +kernel) (by decide +kernel),
   localMet_of (by decide +kernel) rfl (by decide +kernel) (by decide +kernel),
   localMet_of (by decide +kernel) rfl (by decide +kernel) (by decide +kernel)⟩

/-- MemoryInstructions, global memory: every form, at an address of page 1. -/
theorem memoryInstructions_global_met :
    GlobalMet formLd .load (mFields false 4 1 0x7F0 0) ∧ GlobalMet formSt .store (mFields false 4 2 0x7F0 0) ∧
    GlobalMet formLdRes .ldRes (mFields false 3 1 8 0) ∧ GlobalMet formStCond .stCond (mFields false 3 2 8 6) ∧
    GlobalMet (formAtom true false) (.atomic .add 0) (mFields false 3 3 8 0) ∧
    GlobalMet (formAtom false false) (.atomic .xor 0) (mFields false 2 0 4 0) ∧
    GlobalMet (formAtom false true) (.atomic .cas 0) (mFields false 3 3 8 6) :=
  ⟨globalMet_of (pa := 0x107F0) (by decide +kernel) rfl (by decide +kernel) (by decide +kernel) (by decide +kernel) (by decide) (by decide +kernel),
   globalMet_of (pa := 0x107F0) (by decide +kernel) rfl (by decide +kernel) (by decide +kernel) (by decide +kernel) (by decide) (by decide +kernel),
   globalMet_of (pa := 0x10008) (by decide +kernel) rfl (by decide +kernel) (by decide +kernel) (by decide +kernel) (by decide) (by decide +kernel),
   globalMet_of (pa := 0x10008) (by decide +kernel) rfl (by decide +kernel) (by decide +kernel) (by decide +kernel) (by decide) (by decide +kernel),
   globalMet_of (pa := 0x10008) (by decide +kernel) rfl (by decide +kernel) (by decide +kernel) (by decide +kernel) (by decide) (by decide +kernel),
   globalMet_of (pa := 0x10004) (by decide +kernel) rfl (by decide +kernel) (by decide +kernel) (by decide +kernel) (by decide) (by decide +kernel),
   globalMet_of (pa := 0x10008) (by decide +kernel) rfl (by decide +kernel) (by decide +kernel) (by decide +kernel) (by decide) (by decide +kernel)⟩

/-- An access of the group, numbered 4. -/
def acc (kind : AccKind) (target : EndPoint) (size : Nat) (dst : BitVec 9) (lanes : List LaneAcc) : Access :=
  { id := 4, ins := 4, engine := .group 2 17, ctx := 5, launch := 3, kind := kind, pc := 0x10000, acq := false, rel := false,
    dev := false, size := size, sext := false, cache := 0, dst := dst, dst2 := ZR, part := 0, target := target, win := false,
    lanes := lanes, poison := 0, noAlloc := false, epoch := 0, stage := .issued, accepted := false, l1off := false }

/-- The running machine with one access in flight. -/
def withAcc (a : Access) : State := { run with accesses := [a], nextAcc := 9 }

theorem acc_canonical {a : Access} : Canonical (withAcc a) :=
  have h := run_canonical
  { h with }

/-- A load of the first and the last 16 bytes of lanes 0 and 31. -/
def lsLoad : Access := acc .load (.localStore 2) 16 4 [⟨0, 0, 0, 0, 0⟩, ⟨31, 1008, 1008, 0, 0⟩]

/-- A signed load of one byte to ZR. -/
def lsLoadByte : Access := { acc .load (.localStore 2) 1 ZR [⟨3, 5, 5, 0, 0⟩] with sext := true }

/-- A store in which two lanes write one byte. -/
def lsStore : Access := acc .store (.localStore 2) 4 2 [⟨0, 8, 8, 0x01020304, 0⟩, ⟨1, 8, 8, 0xFFFFFFFF, 0⟩]

/-- An unsigned maximum of one lane. -/
def lsAtomic : Access := acc (.atomic .max 0) (.localStore 2) 8 2 [⟨0, 1016, 1016, 0xFFFFFFFFFFFFFFFF, 0⟩]

theorem atLocalStore_of {a : Access} (hs : a.stage = .issued) (hm : mayPerform (withAcc a) a = true) (ht : a.target = .localStore 2)
    (hw : a.win = false) (he : a.engine = .group 2 17) (hl : a.launch = 3)
    (hd : a.dev = false) (hn : (a.lanes.map (·.lane)).Nodup ∧ ∀ x ∈ a.lanes, x.lane < 32) (hi : (withAcc a).access a.id = some a) :
    AtLocalStore (withAcc a) a 2 17 group :=
  ⟨hi, hs, hm, (by decide +kernel : clusterUp run (2 / 16) = true), ht, hw, he, by decide, rfl, hl.symm ▸ rfl, hn, hd,
    fun b hb _ => List.mem_singleton.1 hb⟩

/-- LocalStoreAccesses: a wide load, a load to ZR, a store with an overlap, and an atomic. -/
theorem localStoreAccesses_met :
    (AtLocalStore (withAcc lsLoad) lsLoad 2 17 group ∧ vDst lsLoad ∧ lsLoad.dst.toNat % regsFor lsLoad.size = 0 ∧
      ∀ x ∈ lsLoad.lanes, (lsRead (withAcc lsLoad) 2 x.addr lsLoad.size).bad = false) ∧
    (AtLocalStore (withAcc lsLoadByte) lsLoadByte 2 17 group ∧ lsLoadByte.dst = ZR ∧ (lsLoadByte.sext = true → lsLoadByte.size < 4) ∧
      ∀ x ∈ lsLoadByte.lanes, (lsRead (withAcc lsLoadByte) 2 x.addr lsLoadByte.size).bad = false) ∧
    AtLocalStore (withAcc lsStore) lsStore 2 17 group ∧
    (AtLocalStore (withAcc lsAtomic) lsAtomic 2 17 group ∧ vDst lsAtomic ∧
      (lsRead (withAcc lsAtomic) 2 1016 8).bad = false) ∧ ∀ a, Canonical (withAcc a) :=
  ⟨⟨atLocalStore_of rfl (by decide +kernel) rfl rfl rfl rfl rfl (by decide) (by decide +kernel), (by decide : 4 + 4 ≤ 0x100), by decide, by decide +kernel⟩,
   ⟨atLocalStore_of rfl (by decide +kernel) rfl rfl rfl rfl rfl (by decide) (by decide +kernel), rfl, by decide, by decide +kernel⟩,
   atLocalStore_of rfl (by decide +kernel) rfl rfl rfl rfl rfl (by decide) (by decide +kernel),
   ⟨atLocalStore_of rfl (by decide +kernel) rfl rfl rfl rfl rfl (by decide) (by decide +kernel), (by decide : 2 + 2 ≤ 0x100), by decide +kernel⟩, fun _ => acc_canonical⟩

end Sys2Proof.Tests
end

