-- ==== Sys2Proof/Tests/Matrix.lean ====
section
/-! SUPPORT. Witnesses for the statements about the matrix engine and the tile streamers. -/

namespace Sys2Proof.Tests

-- one theorem after another: each `decide` waits for the kernel, and waiting side by side costs a thread each
set_option Elab.async false

open Machine Says

/-- An answer that is one. -/
theorem ok_of {ε α : Type} {x : Except ε α} (h : x.isOk = true) : ∃ u, x = .ok u := by
  cases x with
  | error _ => exact Bool.noConfusion h
  | ok u => exact ⟨u, rfl⟩

/-- A test of what an option holds. -/
def holds {α : Type} (o : Option α) (p : α → Bool) : Bool := match o with | some x => p x | none => false

theorem holds_elim {α : Type} {o : Option α} {p : α → Bool} (h : holds o p = true) : ∃ x, o = some x ∧ p x = true := by
  cases o with
  | none => exact Bool.noConfusion h
  | some x => exact ⟨x, rfl, h⟩

/-- In `s` the test group runs an instruction of form `i`, and `P` holds of what it sees. -/
def RunsWith (s : State) (i : Form) (P : Env → Prop) : Prop := ∃ e, Canonical s ∧ Runs s ref i e ∧ P e

theorem runsWith_of {s : State} {i : Form} {P : Env → Prop} [DecidablePred P] (hc : Canonical s)
    (h : holds (ready? s ref) (fun e => passes e i && decide (P (fetched e))) = true) : RunsWith s i P := by
  obtain ⟨e, he, hp⟩ := holds_elim h
  rw [Bool.and_eq_true, decide_eq_true_eq] at hp
  exact ⟨fetched e, hc, runs_of he hp.1, hp.2⟩

/-- The running machine whose group's s2, s4 and s6 hold three numbers. -/
def uniforms (a b c : Word) : State := withGroup { group with u := [(2, a), (4, b), (6, c)].filter (·.2 != 0) }

/-- Sources s2, s4, s6 and MOD. -/
def mxFields (a b c : BitVec 9) (m : BitVec 12) : RFields := { bare with srcA := a, srcB := b, srcC := c, mod := m }

/-- `mx.op` on format 3 with depth 2 into tile 7. -/
def opFields : XFields :=
  { guard := ⟨false, false, 0⟩, acc := 7, zero := false, fmtA := 3, fmtB := 3, axisA := false, axisB := true, aOff := 0, bOff := 1,
    kM1 := 1, expand := 0, caddy := 0, rsv := 0 }

/-- An engine entry of slot 17. -/
def entry (k : MxKind) (started : Bool) : MxEntry :=
  { kind := k, slot := 17, pc := 0x10000, base := 0, before := 0, started := started, span := 0 }

/-- A machine whose core has this engine queue, some operands, a tile and some local store. -/
def mxState (q : List MxEntry) : State :=
  { run with
      cores := [(2, { coreWith group with
        work := { (coreWith group).work with
          ls := [(0, 5), (7, 9), (1023, 1)],
          mx := { CoreWork.empty.mx with
            queue := q, acc := [(7168, 0x3F800000), (7200, 0x40000000)], live := 0x80, bufA := [(0, 0x38), (1, 0x40), (32, 0xB8)],
            bufB := [(32, 0x38), (33, 0x30), (64, 0x41)] } } })] }

/-- MatrixHandOff: every clause, each at the bounds of its ranges; `mx.sync` in both of its cases. -/
theorem matrixHandOff_met :
    RunsWith (uniforms 992 32 65504) (mxForm (mxFields 0x102 0x104 0x106 1) (.reg 1) (.reg 1) (.reg 1) true)
      (fun e => (mxOf (uniforms 992 32 65504) e.c).queue.length < 16 ∧ src e 0x102 1 0 = 992 ∧ src e 0x104 1 0 = 32 ∧ src e 0x106 1 0 = 65504 ∧
        992 + 32 ≤ e.l.lsPer * 1024) ∧
    RunsWith (uniforms 512 512 0) (mxForm (mxFields 0x102 0x104 ZR 1) (.reg 1) (.reg 1) .zr true)
      (fun e => (mxOf (uniforms 512 512 0) e.c).queue.length < 16 ∧ src e 0x102 1 0 = 512 ∧ src e 0x104 1 0 = 512 ∧ 512 + 512 ≤ e.l.lsPer * 1024) ∧
    RunsWith run { guard := opFields.guard, dsts := [], srcs := [], legal := mxOpOk opFields, uniform := true } (fun e => (mxOf run e.c).queue.length < 16) ∧
    RunsWith (uniforms 0 32 0) (mxForm (mxFields 0x102 0x104 ZR 0x0F3) (.reg 1) (.reg 1) .zr true)
      (fun e => (mxOf (uniforms 0 32 0) e.c).queue.length < 16 ∧ src e 0x102 1 0 = 0 ∧ src e 0x104 1 0 = 32 ∧ 0 + (31 * 32 + 32 * 1) ≤ e.l.lsPer * 1024) ∧
    RunsWith run (mxForm (mxFields ZR ZR ZR 0x070) .zr .zr .zr true) (fun e => (mxOf run e.c).queue.length < 16) ∧
    RunsWith run (mxForm (mxFields ZR ZR ZR 0) .zr .zr .zr true) (fun e => ∀ x ∈ (mxOf run e.c).queue, x.slot ≠ e.k) ∧
    RunsWith (mxState [entry (.zero 7) false]) (mxForm (mxFields ZR ZR ZR 0) .zr .zr .zr true)
      (fun e => ∃ x ∈ (mxOf (mxState [entry (.zero 7) false]) e.c).queue, x.slot = e.k) ∧
    RunsWith (mxState (List.replicate 16 (entry (.zero 7) false)))
      { guard := opFields.guard, dsts := [], srcs := [], legal := mxOpOk opFields, uniform := true }
      (fun e => ¬ (mxOf (mxState (List.replicate 16 (entry (.zero 7) false))) e.c).queue.length < 16) :=
  ⟨runsWith_of (canonical_of rfl rfl (by decide +kernel)) (by decide +kernel),
   runsWith_of (canonical_of rfl rfl (by decide +kernel)) (by decide +kernel),
   runsWith_of run_canonical (by decide +kernel),
   runsWith_of (canonical_of rfl rfl (by decide +kernel)) (by decide +kernel),
   runsWith_of run_canonical (by decide +kernel),
   runsWith_of run_canonical (by decide +kernel), runsWith_of (canonical_of rfl rfl (by decide +kernel)) (by decide +kernel),
   runsWith_of (canonical_of rfl rfl (by decide +kernel)) (by decide +kernel)⟩

/-- MatrixStart: an `mx.op` and an `mx.zero` behind a started load, and a load. -/
theorem matrixStart_met :
    (∀ k, k = MxKind.op opFields ∨ k = .zero 7 →
      Canonical (mxState [entry (.ld false 0 32 4096) true, entry k false]) ∧
      MxReady (mxState [entry (.ld false 0 32 4096) true, entry k false]) 2 .array [entry (.ld false 0 32 4096) true] (entry k false)) ∧
    mxStartTrap (mxOf (mxState [entry (.op opFields) false]) 2) opFields = none ∧
    (Canonical (mxState [entry (.ld true 992 32 65504) false]) ∧
      MxReady (mxState [entry (.ld true 992 32 65504) false]) 2 .load [] (entry (.ld true 992 32 65504) false)) := by
  refine ⟨fun k h => ?_, by decide +kernel, canonical_of rfl rfl (by decide +kernel), by constructor <;> decide +kernel⟩
  rcases h with rfl | rfl <;> exact ⟨canonical_of rfl rfl (by decide +kernel), by constructor <;> decide +kernel⟩

/-- MatrixComplete: every kind; the store fills its local store to the last byte. -/
theorem matrixComplete_met :
    ∀ k, k = MxKind.ld true 992 32 65504 ∨ k = .ldx true 0 512 ∨ k = .st 3 7 true 0 32 ∨ k = .op opFields ∨ k = .zero 7 →
      Canonical (mxState [entry k true]) ∧ MxEnds (mxState [entry k true]) 2 k.pipe 0 (entry k true) := by
  intro k h
  rcases h with rfl | rfl | rfl | rfl | rfl <;> exact ⟨canonical_of rfl rfl (by decide +kernel), by constructor <;> decide +kernel⟩

/-! ## Streamers -/

/-- Two tiles of 8 words from 0x10000 to two slots of 32 bytes at 0, control block at 512; in axis 1 the tiles from `ext` on are
padding of 0x11111111; a store with `dir`, a gate on tally 40 at 10 with `gate`. -/
def tsRaw (dir gate ext : Nat) : BitVec 1024 :=
  at_ 1024 0 0x10000 ||| at_ 1024 96 512 ||| at_ 1024 128 32 ||| at_ 1024 176 2 ||| at_ 1024 180 2 ||| at_ 1024 183 1 |||
    at_ 1024 186 2 ||| at_ 1024 188 dir ||| at_ 1024 190 gate ||| at_ 1024 192 40 ||| at_ 1024 256 10 ||| at_ 1024 320 0x11111111 |||
    at_ 1024 384 7 ||| at_ 1024 400 4 ||| at_ 1024 448 1 ||| at_ 1024 464 32 ||| at_ 1024 496 1 ||| at_ 1024 498 1 |||
    at_ 1024 736 ext

/-- A descriptor of slot 17. -/
def tsDesc (raw : BitVec 1024) (st : TsStage) : TsDesc :=
  { raw := raw, slot := 17, block := 0, pc := 0x10000, base := 0, limit := 1024, before := 0, stage := st, tiles := 0, seen := 0,
    fetched := false, firstDev := none, ending := false, failed := false }

/-- A machine whose streamer 3 of core 2 holds some descriptors and ends, with `ls` in local store. -/
def tsState (ds : List TsDesc) (es : List TsDone) (ls : SMap Byte) (g : Group) : State :=
  { withGroup g with
      cores := [(2, { coreWith g with
        work := { (coreWith g).work with ls := ls, ts := [(3, { descs := ds, done := es })].filter (·.2 != Streamer.idle) } })],
      hub := { idle.hub with tallies := [(40, tally10)] } }
where
  /-- Tally 40 of tenant 7 at value 10. -/
  tally10 : Tally := { Tally.free with assigned := true, tenant := 7, owner := 5, value := 10 }

/-- MOD names streamer 3; the offset in s2, the result in s8. -/
def tsFields : RFields := { bare with dst := 0x108, srcA := 0x102, mod := 3 }

/-- `ts.wait` writes its result alone. -/
def tsWaitFields : RFields := { bare with dst := 0x108, mod := 3 }

/-- `ts.run` names its descriptor alone. -/
def tsRunFields : RFields := { bare with srcA := 0x102, mod := 3 }

/-- A group whose s2 holds 896. -/
def groupTs : Group := { group with u := [(2, 896)] }

/-- StreamerInstructions: a descriptor in the last 128 bytes behind three others; a wait for one's own descriptor, and with a
failure to report; a full unit. -/
theorem streamerInstructions_met :
    RunsWith (tsState (List.replicate 3 (tsDesc 0 .accepted)) [] [(896, 1), (1023, 2)] groupTs) (formTsRun tsRunFields)
      (fun e => src e 0x102 1 0 = 896 ∧ 896 + 128 ≤ e.l.lsPer * 1024 ∧ (e.s.streamer e.c 3).descs.length < 4 ∧ localDone e = true) ∧
    RunsWith (tsState [tsDesc 0 .running] [] [] group) (formTsWait tsWaitFields)
      (fun e => ∃ d ∈ (e.s.streamer e.c 3).descs, d.slot = e.k) ∧
    RunsWith (tsState [] [⟨17, Code.streamerFormat, false⟩, ⟨18, Code.success, true⟩] [] group) (formTsWait tsWaitFields)
      (fun e => (∀ d ∈ (e.s.streamer e.c 3).descs, d.slot ≠ e.k) ∧
        ∀ x ∈ (e.s.streamer e.c 3).done.filter fun x => x.slot == e.k, x.failed = false) ∧
    RunsWith (tsState (List.replicate 4 (tsDesc 0 .accepted)) [] [] groupTs) (formTsRun tsRunFields)
      (fun e => 4 ≤ (e.s.streamer e.c 3).descs.length) :=
  ⟨runsWith_of (canonical_of rfl rfl (by decide +kernel)) (by decide +kernel),
   runsWith_of (canonical_of rfl rfl (by decide +kernel)) (by decide +kernel),
   runsWith_of (canonical_of rfl rfl (by decide +kernel)) (by decide +kernel),
   runsWith_of (canonical_of rfl rfl (by decide +kernel)) (by decide +kernel)⟩

/-- The machine whose streamer's head is `d`. -/
def headState (d : TsDesc) (ls : SMap Byte) : State := tsState [d] [] ls group

/-- The hypotheses that the clauses about a head descriptor share. -/
def HeadMet (d : TsDesc) (ls : SMap Byte) (P : State → Prop) : Prop :=
  Canonical (headState d ls) ∧ tsHead (headState d ls) 2 3 = some (d, 3, launch) ∧ P (headState d ls)

/-- StreamerEvents: a good start, a malformed one, a gate that opens, a running load and a store that has finished. -/
theorem streamerEvents_met :
    HeadMet (tsDesc (tsRaw 0 0 2) .accepted) [] (fun s => let d := tsDesc (tsRaw 0 0 2) .accepted
      d.formatOk = true ∧ d.counter s 2 0 = 0 ∧ d.counter s 2 4 = 0 ∧ d.inRange = true ∧ bit d.raw 190 = false) ∧
    HeadMet (tsDesc (tsRaw 0 0 2) .accepted) [(512, 1)] (fun s => (tsDesc (tsRaw 0 0 2) .accepted).counter s 2 0 ≠ 0) ∧
    HeadMet (tsDesc (tsRaw 0 1 2) .gated) [] (fun s => (s.tally 40).assigned = true ∧ (s.tally 40).tenant = tenantOf s launch.ctx ∧
      (s.tally 40).abandoned = false ∧ (tsDesc (tsRaw 0 1 2) .gated).f 192 16 = 40) ∧
    HeadMet (tsDesc (tsRaw 0 0 2) .running) [] (fun _ => let d := tsDesc (tsRaw 0 0 2) .running
      d.stage ≠ .accepted ∧ d.tileCount = 2 ∧ 1 < (if d.isStore then d.seen + 8 else d.seen + d.ring + 8)) ∧
    HeadMet { tsDesc (tsRaw 1 0 2) .running with tiles := 2 } [] (fun s =>
      headFinished s 2 3 { tsDesc (tsRaw 1 0 2) .running with tiles := 2 } = true) :=
  ⟨⟨canonical_of rfl rfl (by decide +kernel), by decide +kernel, by decide +kernel⟩,
   ⟨canonical_of rfl rfl (by decide +kernel), by decide +kernel, by decide +kernel⟩,
   ⟨canonical_of rfl rfl (by decide +kernel), by decide +kernel, by decide +kernel⟩,
   ⟨canonical_of rfl rfl (by decide +kernel), by decide +kernel, by decide +kernel⟩,
   ⟨canonical_of rfl rfl (by decide +kernel), by decide +kernel, by decide +kernel⟩⟩

/-- A store tile has been produced. -/
def storeTile : TsDesc := { tsDesc (tsRaw 1 0 2) .running with seen := 1 }

/-- StreamerTiles: a tile whose remote part has arrived, the last tile of padding, and a store tile. -/
theorem streamerTiles_met :
    HeadMet { tsDesc (tsRaw 0 0 2) .running with fetched := true, tiles := 1 } [] (fun s => tileLoading s 2 3 = false) ∧
    HeadMet { tsDesc (tsRaw 0 0 1) .running with tiles := 1 } [] (fun _ => let d := { tsDesc (tsRaw 0 0 1) .running with tiles := 1 }
      d.formatOk = true ∧ d.tiles < d.tileCount ∧ d.tiles < d.seen + d.ring ∧ d.rows = 1 ∧ ∀ e ∈ d.row 1 0, e.pad = true) ∧
    HeadMet storeTile [] (fun s => storeTile.tiles < storeTile.tileCount ∧ ∃ u, issueStoreTile s 2 3 5 3 storeTile 0 = .ok u) :=
  ⟨⟨canonical_of rfl rfl (by decide +kernel), by decide +kernel, by decide +kernel⟩,
   ⟨canonical_of rfl rfl (by decide +kernel), by decide +kernel, by decide +kernel⟩,
   ⟨canonical_of rfl rfl (by decide +kernel), by decide +kernel, by decide +kernel,
    ok_of (by decide +kernel)⟩⟩

end Sys2Proof.Tests
end

