-- ==== Sys2Proof/Tests/Ordering.lean ====
section
/-! SUPPORT. Witnesses for the statements about homes, fences, maintenance, releases, tallies and barriers. -/

namespace Sys2Proof.Tests

-- one theorem after another: each `decide` waits for the kernel, and waiting side by side costs a thread each
set_option Elab.async false

open Machine Says

/-- Cluster cache 0 with line 512 (page 1) in way 3 of its set, sector 0 dirty. -/
def cached : Cluster :=
  { Cluster.empty with lines := [(8195, { line := 512, valid := 15, dirty := 1, poison := 0, data := 0x11223344 })] }

/-- The machine with that cache and one access. -/
def atHome (a : Access) : State := { withAcc a with clusters := [(0, cached)] }

theorem atHome_canonical {a : Access} : Canonical (atHome a) := by
  have h : Canonical (atHome lsLoad) := canonical_of rfl rfl (by decide +kernel)
  exact { h with }

/-- A store of the line's last bytes and of two that overlap. -/
def homeStore : Access :=
  acc .store (.home 0) 4 8 [⟨0, 0x1007C, 0x1007C, 0xAABBCCDD, 0⟩, ⟨1, 0x10004, 0x10004, 1, 0⟩, ⟨2, 0x10004, 0x10004, 2, 0⟩]

/-- Maintenance of line 512: 1 clean, 2 invalidate. -/
def homeMaint (op : Nat) : Access := acc (.maint 1 op) (.home 0) 0 ZR [⟨0, 512, 0, 0, 0⟩]

/-- The same machine with context 5 tracking its dirty pages. -/
def atHomeTracked : State :=
  { atHome homeStore with ctxs := [(5, { Ctx.fresh with state := .live, tenant := 7, dirtyTrack := true })] }

theorem atHomeTracked_canonical : Canonical atHomeTracked := canonical_of rfl rfl (by decide +kernel)

/-- LinesAtHome: a store that hits, without and with dirty tracking, a clean and an invalidate. -/
theorem linesAtHome_met :
    (Canonical (atHome homeStore) ∧ AtHome (atHome homeStore) (noteLanes (atHome homeStore) homeStore) homeStore 8195 ∧
      ∀ x ∈ homeStore.lanes, ((atHome homeStore).ctx homeStore.ctx).dirtyTrack = false) ∧
    (Canonical atHomeTracked ∧ AtHome atHomeTracked (noteLanes atHomeTracked homeStore) homeStore 8195 ∧
      ∀ x ∈ homeStore.lanes, (atHomeTracked.ctx homeStore.ctx).dirtyTrack = true ∧
        (findLeaf atHomeTracked homeStore.ctx (x.va / 65536 * 65536)).any leafDram = true) ∧
    (∀ op, op = 1 ∨ op = 2 → Canonical (atHome (homeMaint op)) ∧ (atHome (homeMaint op)).access 4 = some (homeMaint op) ∧
      mayPerform (atHome (homeMaint op)) (homeMaint op) = true ∧ clusterUp (atHome (homeMaint op)) (homeOfLine 512) = true ∧
      (homeMaint op).target = .home (homeOfLine 512) ∧ ((atHome (homeMaint op)).cluster (homeOfLine 512)).find 512 = some 8195 ∧
      ∀ e ∈ ((atHome (homeMaint op)).cluster (homeOfLine 512)).evict, e.line ≠ 512) :=
  ⟨⟨atHome_canonical,
    ⟨by decide +kernel, by decide +kernel, by decide +kernel, by decide +kernel, by decide +kernel, by decide +kernel, by decide +kernel,
     by decide +kernel, by decide +kernel, by decide +kernel,
     fun b hb _ => by have := List.mem_singleton.1 hb; subst this; exact ⟨rfl, 0, rfl⟩⟩, by decide +kernel⟩,
   ⟨atHomeTracked_canonical,
    ⟨by decide +kernel, by decide +kernel, by decide +kernel, by decide +kernel, by decide +kernel, by decide +kernel, by decide +kernel,
     by decide +kernel, by decide +kernel, by decide +kernel,
     fun b hb _ => by have := List.mem_singleton.1 hb; subst this; exact ⟨rfl, 0, rfl⟩⟩, by decide +kernel⟩,
   fun op h => by
    rcases h with rfl | rfl <;>
      exact ⟨atHome_canonical, by decide +kernel, by decide +kernel, by decide +kernel, by decide, by decide +kernel, by decide +kernel⟩⟩

/-- A group in `fence.done` for what came before access 4, and a group whose s2 and s3 name page 1, s4 a length. -/
def groupFence : Group := { group with wait := .fence 4 }

/-- The group of `cmo`: 256 bytes from 0x10000. -/
def groupCmo : Group := { group with u := [(2, 0x10000), (4, 256)] }

/-- `cmo` with a clean of the cluster caches; `cmo.sw` of set s2 and way s4. -/
def cmoFields : RFields := { bare with srcA := 0x102, srcB := 0x104, mod := 0x005 }

/-- The fence's machine: its group's later access is still in flight. -/
def fenceState : State := { withGroup groupFence with accesses := [lsLoad], nextAcc := 9 }

theorem cmo_ready : ready? (withGroup groupCmo) ref = some (envAt (withGroup groupCmo) groupCmo) := ready_withGroup rfl rfl rfl rfl rfl (by decide)

/-- The group of `cmo.sw`: the highest way of set 4,095. -/
def groupSw : Group := { group with u := [(2, 4095), (4, 15)] }

/-- Its machine: the launch comes from a kernel queue. -/
theorem sw_ready : ready? (withGroup groupSw) ref = some (envAt (withGroup groupSw) groupSw) := ready_withGroup rfl rfl rfl rfl rfl (by decide)

theorem cmo_range :
    ∃ u, cmoRange (envOf (withGroup groupCmo) groupCmo).s (.core 2) 5 (fld cmoFields.mod 2 2)
      (src (envOf (withGroup groupCmo) groupCmo) cmoFields.srcA 2 0) (src (envOf (withGroup groupCmo) groupCmo) cmoFields.srcB 1 0) =
        (.ok [512, 513], u) := by
  generalize hx : cmoRange (envOf (withGroup groupCmo) groupCmo).s (.core 2) 5 (fld cmoFields.mod 2 2)
      (src (envOf (withGroup groupCmo) groupCmo) cmoFields.srcA 2 0) (src (envOf (withGroup groupCmo) groupCmo) cmoFields.srcB 1 0) = x
  have h : x.1 = .ok [512, 513] := by rw [← hx]; decide +kernel
  exact ⟨x.2, by rw [← h]⟩

/-- FencesAndMaintenance: each clause; `cmo.sw` at the last set and way. -/
theorem fencesAndMaintenance_met :
    Met (formBare bare) ∧
    (Canonical fenceState ∧ waiting? fenceState ref = some (groupFence, launch) ∧
      ∀ a ∈ fenceState.accesses, a.by ref.core (gkey ref) groupFence.launch = true → 4 ≤ a.ins) ∧
    (Canonical (withGroup groupCmo) ∧ Runs (withGroup groupCmo) ref (cmoForm cmoFields 2 3) (envOf (withGroup groupCmo) groupCmo) ∧
      (envOf (withGroup groupCmo) groupCmo).acts (cmoForm cmoFields 2 3) ≠ [] ∧
      src (envOf (withGroup groupCmo) groupCmo) cmoFields.srcB 1 0 ≠ 0 ∧
      ∃ u, cmoRange (envOf (withGroup groupCmo) groupCmo).s (.core 2) 5 (fld cmoFields.mod 2 2)
        (src (envOf (withGroup groupCmo) groupCmo) cmoFields.srcA 2 0) (src (envOf (withGroup groupCmo) groupCmo) cmoFields.srcB 1 0) =
          (.ok [512, 513], u)) ∧
    (Canonical (withGroup groupSw) ∧ Runs (withGroup groupSw) ref (cmoForm cmoFields 1 2) (envOf (withGroup groupSw) groupSw) ∧
      (envOf (withGroup groupSw) groupSw).acts (cmoForm cmoFields 1 2) ≠ [] ∧ ((withGroup groupSw).queue 9).cls = .kernel ∧
      src (envOf (withGroup groupSw) groupSw) cmoFields.srcA 1 0 = 4095 ∧ src (envOf (withGroup groupSw) groupSw) cmoFields.srcB 1 0 = 15) :=
  ⟨met_of (by decide +kernel) (by decide +kernel),
   ⟨canonical_of rfl rfl (by decide +kernel), by decide +kernel, by decide +kernel⟩,
   ⟨canonical_of rfl rfl (by decide +kernel), runs_of cmo_ready (by decide +kernel), by decide +kernel, by decide +kernel, cmo_range⟩,
   ⟨canonical_of rfl rfl (by decide +kernel), runs_of sw_ready (by decide +kernel), by decide +kernel, by decide +kernel, by decide +kernel,
    by decide +kernel⟩⟩

/-- Tally 40 of tenant 7 at value 10. -/
def tally : Tally := { Tally.free with assigned := true, tenant := 7, owner := 5, value := 10 }

/-- A signal of tally 40, whose status goes to s2, and a releasing store. -/
def signalAcc (v : Nat) : Access := { acc (.signal true 40 v) .syncHub 0 0x102 [] with rel := true }

/-- A releasing store. -/
def relStore : Access := { homeStore with rel := true }

/-- The machine with tally 40 and one access. -/
def hubState (a : Access) : State := { withAcc a with hub := { idle.hub with tallies := [(40, tally)] } }

/-- Releases: a signal, an add to the largest value, and a releasing store. -/
theorem releases_met :
    (∀ v, v = 5 ∨ v = 2 ^ 63 - 11 → Canonical (hubState (signalAcc v)) ∧ (hubState (signalAcc v)).access 4 = some (signalAcc v) ∧
      (signalAcc v).rel = true ∧ releaseReady (hubState (signalAcc v)) (signalAcc v) = true ∧
      releaseFailed (hubState (signalAcc v)) (signalAcc v) = false ∧ ((hubState (signalAcc v)).tally 40).assigned = true ∧
      ((hubState (signalAcc v)).tally 40).tenant = tenantOf (hubState (signalAcc v)) 5 ∧
      ((hubState (signalAcc v)).tally 40).abandoned = false ∧ 10 + v < 2 ^ 63 ∧ 0x100 ≤ (signalAcc v).dst.toNat) ∧
    ((withAcc relStore).access 4 = some relStore ∧ releaseReady (withAcc relStore) relStore = true ∧
      releaseFailed (withAcc relStore) relStore = false ∧ ∀ add n v, relStore.kind ≠ .signal add n v) :=
  ⟨fun v h => by
    have hc : Canonical (hubState lsLoad) := canonical_of rfl rfl (by decide +kernel)
    rcases h with rfl | rfl <;>
      exact ⟨{ hc with }, by decide +kernel, rfl, by decide +kernel, by decide +kernel, by decide +kernel, by decide +kernel, by decide +kernel,
        by decide, by decide⟩,
   by decide +kernel, by decide +kernel, by decide +kernel, nofun⟩

/-! ## Tallies and barriers -/

/-- The running machine with tally `t` at 40, for group `g`. -/
def tallyRun (t : Tally) (g : Group) : State := { withGroup g with hub := { idle.hub with tallies := [(40, t)] } }

/-- A group whose s2 names tally 40 and whose s4 and s5 hold the target `v`. -/
def groupTally (v : Word) : Group := { group with u := [(2, 40), (4, v)] }

/-- `tly.sig` and `tly.add`: status to s8. -/
def signalFields : RFields := { bare with dst := 0x108, srcA := 0x102, srcB := 0x104, srcC := ZR }

/-- `tly.wait`: status to s8, word to s10. -/
def waitFields : RFields := { bare with dst := 0x108, srcA := 0x102, srcB := 0x104, srcC := 0x10A }

/-- `tly.poll`. -/
def pollFields : RFields := { bare with dst := 0x108, srcA := 0x102, srcB := ZR, srcC := 0x10A }

theorem tally_ready (t : Tally) (v : Word) :
    ready? (tallyRun t (groupTally v)) ref = some (envAt (tallyRun t (groupTally v)) (groupTally v)) :=
  ready_withGroup rfl rfl rfl rfl rfl (by decide : group.done = false)

/-- The hypotheses that the clauses of `tly.wait` share. -/
def WaitMet (t : Tally) (v : Word) : Prop :=
  let s := tallyRun t (groupTally v)
  let e := envOf s (groupTally v)
  Canonical s ∧ Runs s ref (formWait waitFields) e ∧ e.acts (formWait waitFields) ≠ [] ∧ acquiring e = false ∧ Apart waitFields ∧
    MayUse s e (src e waitFields.srcA 1 0) ∧ src e waitFields.srcB 2 0 = v.toNat

/-- A machine in which a wake of tally 40 is on its way to a group that sleeps, its status to s8 and the word to s10. -/
def groupAsleep : Group := { group with wait := .tally 0x108 0x10A }

/-- The wake. -/
def wake : Wake := { kind := .group 2 17, tally := 40, word := 12, status := 0, abandoned := false }

/-- The machine of the wake. -/
def wakeState : State := { withGroup groupAsleep with hub := { idle.hub with wakes := [wake] } }

/-- TalliesAndWakes: each clause; `tly.wait` with an abandoned tally, a target that is met, and one that is not. -/
theorem talliesAndWakes_met :
    (let s := tallyRun tally (groupTally 3)
     let e := envOf s (groupTally 3)
     Canonical s ∧ Runs s ref (formSignal signalFields) e ∧ e.acts (formSignal signalFields) ≠ [] ∧
       Runs s ref (formPoll pollFields) e ∧ acquiring e = false ∧ Apart pollFields ∧ MayUse s e (src e pollFields.srcA 1 0)) ∧
    WaitMet { tally with abandoned := true } 3 ∧ (WaitMet tally 10 ∧ (10#32).toNat ≤ tally.value) ∧
    (WaitMet tally 11 ∧ tally.value < (11#32).toNat ∧ idle.hub.watches.length < 16384 ∧
      (idle.hub.watches.filter fun w => w.tenant == 7).length < idle.hub.quota) ∧
    (Canonical wakeState ∧ bit wakeState.power.clocks 1 = true ∧ (wakeState.hub.wakes.find? fun w => w.tally == 40) = some wake ∧
      wakeState.group 2 17 = some groupAsleep ∧ wakeState.launch 3 = some launch ∧ isS 0x108 = true ∧ isS 0x10A = true ∧
      (0x10A : BitVec 9).toNat % 2 = 0 ∧ (0x108 : BitVec 9).toNat ≠ (0x10A : BitVec 9).toNat ∧
      (0x108 : BitVec 9).toNat ≠ (0x10A : BitVec 9).toNat + 1) := by
  refine ⟨⟨canonical_of rfl rfl (by decide +kernel), runs_of (tally_ready _ _) (by decide +kernel), by decide +kernel,
    runs_of (tally_ready _ _) (by decide +kernel), by decide +kernel, Or.inr (Or.inr (by decide)), by unfold MayUse; decide +kernel⟩,
    ?_, ⟨?_, by decide⟩, ⟨?_, by decide, by decide, by decide⟩, canonical_of rfl rfl (by decide +kernel), by decide +kernel, by decide +kernel,
    by decide +kernel, by decide +kernel, by decide, by decide, by decide, by decide, by decide⟩
  all_goals
    exact ⟨canonical_of rfl rfl (by decide +kernel), runs_of (tally_ready _ _) (by decide +kernel), by decide +kernel, by decide +kernel,
      Or.inr (Or.inr (by decide)), by unfold MayUse; decide +kernel, by decide +kernel⟩

/-- Two groups of block 0: slots 1 and 2 of quadrant 1. -/
def pair (other : Group) : State :=
  { run with cores := [(2, { coreWith group with work := { (coreWith group).work with groups := [(17, some group), (18, some other)] } })] }

/-- The other group: not yet at the barrier, or waiting there. -/
def other (w : Wait) : Group := { group with index := 1, wait := w, pc := 0x10010 }

theorem pair_ready (w : Wait) : ready? (pair (other w)) ref = some (envAt (pair (other w)) group) := by
  have hw : group.wait = .ready ∧ !group.done ∧ (launch.devBars = 0 ∨ allHome (pair (other w)) group.launch launch = true) :=
    ⟨rfl, by decide, Or.inl (by decide +kernel)⟩
  have hc : ref.core < coreCount ∧ ref.quad < 4 ∧ ref.slot < 16 ∧ clusterUp (pair (other w)) (ref.core / 16) ∧
      ((pair (other w)).core ref.core).stage = .running :=
    ⟨by decide, by decide, by decide, (by decide +kernel : clusterUp run (2 / 16) = true), rfl⟩
  unfold ready?
  rw [if_pos hc, show (pair (other w)).group ref.core (gkey ref) = some group from rfl]
  dsimp only
  rw [show (pair (other w)).launch group.launch = some launch from rfl]
  dsimp only
  rw [if_pos hw]
  rfl

/-- A launch with one barrier channel, all of its four blocks placed. -/
def launchDev : Launch := { launch with desc := desc ||| at_ 1024 208 1, next := 4, channels := [6] }

/-- Its group at channel 0, alone on the core. -/
def devState (g : Group) : State :=
  { withGroup g with desk := { (withGroup g).desk with launches := [(3, some launchDev)] }, hub := { idle.hub with channels := [(6, some ⟨3, 0⟩)] } }

/-- What its group sees before the fetch. -/
def devEnv : Env := { s := devState group, c := 2, quad := 1, slot := 1, k := 17, g := group, n := 3, l := launchDev }

theorem dev_ready : ready? (devState group) ref = some devEnv := by
  have hw : group.wait = .ready ∧ !group.done ∧ (launchDev.devBars = 0 ∨ allHome (devState group) group.launch launchDev = true) :=
    ⟨rfl, by decide, Or.inr (by decide +kernel)⟩
  have hc : ref.core < coreCount ∧ ref.quad < 4 ∧ ref.slot < 16 ∧ clusterUp (devState group) (ref.core / 16) ∧
      ((devState group).core ref.core).stage = .running :=
    ⟨by decide, by decide, by decide, (by decide +kernel : clusterUp run (2 / 16) = true), rfl⟩
  unfold ready?
  rw [if_pos hc, show (devState group).group ref.core (gkey ref) = some group from rfl]
  dsimp only
  rw [show (devState group).launch group.launch = some launchDev from rfl]
  dsimp only
  rw [if_pos hw]
  rfl

/-- Barriers: an arrival that waits, the last arrival, an arrival at a channel, and its release. -/
theorem barriers_met :
    (∀ w, w = .ready ∨ w = .barrier → let s := pair (other w)
      let e := envOf s group
      Canonical s ∧ Runs s ref (formUniform bare true) e ∧ e.acts (formUniform bare true) ≠ [] ∧ e.g.active = ~~~e.g.exited ∧
        localDone e = true ∧ (w = .ready → ∃ x ∈ blockGroups s e.c e.g.block, x.1 ≠ e.k ∧ x.2.done = false ∧ x.2.wait ≠ .barrier) ∧
        (w = .barrier → ∀ x ∈ blockGroups s e.c e.g.block, x.1 = e.k ∨ x.2.done = true ∨ x.2.wait = .barrier)) ∧
    (let s := devState group
     let e := fetched devEnv
     Canonical s ∧ Runs s ref (formUniform bare true) e ∧ e.acts (formUniform bare true) ≠ [] ∧ e.g.active = ~~~e.g.exited ∧
       0 < e.l.devBars) ∧
    (let g : Group := { group with wait := .channel 0 }
     Canonical (devState g) ∧ oget (devState g).hub.channels 6 = some ⟨3, 0⟩ ∧ channelReady (devState g) 3 0 = true ∧
       (devState g).launch 3 = some launchDev ∧ launchDev.cores = [2] ∧ (devState g).group 2 17 = some g) := by
  refine ⟨fun w h => ?_, ⟨canonical_of rfl rfl (by decide +kernel), runs_of dev_ready (by decide +kernel), by decide +kernel, by decide +kernel,
    by decide +kernel⟩, canonical_of rfl rfl (by decide +kernel), by decide +kernel, by decide +kernel, by decide +kernel, rfl, by decide +kernel⟩
  · rcases h with rfl | rfl
    · exact ⟨canonical_of rfl rfl (by decide +kernel), runs_of (pair_ready .ready) (by decide +kernel), by decide +kernel, by decide +kernel, by decide +kernel,
        fun _ => ⟨(18, other .ready), by decide +kernel, by decide +kernel, by decide, by decide⟩, nofun⟩
    · exact ⟨canonical_of rfl rfl (by decide +kernel), runs_of (pair_ready .barrier) (by decide +kernel), by decide +kernel, by decide +kernel, by decide +kernel,
        nofun, fun _ => by decide +kernel⟩

end Sys2Proof.Tests
end

