-- ==== Sys2Proof/Tests/Vault.lean ====
section
/-! SUPPORT. Witnesses for the statements about the check code, vaults, caches and sensors. -/

namespace Sys2Proof.Tests

-- one theorem after another: each `decide` waits for the kernel, and waiting side by side costs a thread each
set_option Elab.async false

open Machine Says

/-- A machine that passes the tests is canonical. -/
theorem canonical_dram {s : State} (hb : Memory.wf s.dram) (hk : Memory.checksWf s.dram) (h : canonicalB s = true) :
    Canonical s := canonicalB_sound hb hk h

/-- CheckCode: the first and the last symbol, and a pair. -/
theorem checkCode_met : (0 < 68 ∧ 0 < 1 ∧ 15 < 16) ∧ (67 < 68) ∧ (0 < 67) := by decide

/-- The running machine in which the stored check symbols of the last sector differ from its data's by `x`. -/
def damaged (x : BitVec 16) : State := { run with dram := { run.dram with checks := [(0x18000000000 / 32 - 1, x)].filter (·.2 != 0) } }

/-- VaultReads: the last sector of DRAM in each of its four states, and the first address behind it. -/
theorem vaultReads_met :
    (∀ x : BitVec 16, x = 0 ∨ x = 1 ∨ x = 0x11 ∨ x = 0x0FF0 → Canonical (damaged x)) ∧
    0x18000000000 - 1 < dramEnd ∧ dramEnd ≤ 0x18000000000 ∧
    (damaged 0).dram.decode (0x18000000000 / 32 - 1) = .clean ∧ (damaged 1).dram.decode (0x18000000000 / 32 - 1) = .corrected 64 1 ∧
    (damaged 0x11).dram.decode (0x18000000000 / 32 - 1) = .uncorrectable ∧
    (damaged 0x0FF0).dram.decode (0x18000000000 / 32 - 1) = .poisoned := by
  refine ⟨fun x h => ?_, by decide, by decide, by decide +kernel, by decide +kernel, by decide +kernel, by decide +kernel⟩
  rcases h with rfl | rfl | rfl | rfl <;> exact canonical_dram (by decide +kernel) (by decide +kernel) (by decide +kernel)

/-- The last sector's line in a cluster cache, clean. -/
def copy : Cluster :=
  let line := 0x18000000000 / 128 - 1
  { Cluster.empty with lines := [(16 * ccSet line, { line := line, valid := 8, dirty := 0, poison := 0, data := 7 <<< 768 })] }

/-- A scrub pass of vault 383 at its last sector, which is damaged by `x`; `c` is the cache of its home. -/
def scrubbing (x : BitVec 16) (c : Cluster) : State :=
  { damaged x with
      dram := { (damaged x).dram with scrub := [(383, some (2 ^ 27 - 1))], scrubPeriodH := 24 },
      clusters := [(homeOfLine (0x18000000000 / 128 - 1), c)].filter (·.2 != Cluster.empty) }

/-- Sixteen layers at a temperature. -/
def readings (t : Word) : Readings := { layers := List.replicate 16 t, logic := t, power := 0, vdd := 900 }

/-- The machine after an evaluation that found 106 degrees in a layer and in the die. -/
def hot : State :=
  { run with power := { run.power with logicTemp := 0x42D40000, layerTemps := [(0, 0x42D40000)] } }

/-- VaultHealth: the scrub's last sector clean, damaged in one symbol, and in two with and without a good copy; the last vault and
layer; an evaluation; a trip. -/
theorem vaultHealth_met :
    (∀ x : BitVec 16, x = 0 ∨ x = 1 ∨ x = 0x11 → Canonical (scrubbing x Cluster.empty) ∧ vaultUp (scrubbing x Cluster.empty) = true ∧
      oget (scrubbing x Cluster.empty).dram.scrub 383 = some (2 ^ 27 - 1)) ∧
    goodCopy (scrubbing 0x11 Cluster.empty) (383 * 2 ^ 27 + (2 ^ 27 - 1)) = none ∧
    (Canonical (scrubbing 0x11 copy) ∧ goodCopy (scrubbing 0x11 copy) (383 * 2 ^ 27 + (2 ^ 27 - 1)) = some 7) ∧
    (vaultUp (scrubbing 0 Cluster.empty) = true ∧ (scrubbing 0 Cluster.empty).dram.scrubPeriodH ≠ 0 ∧ (383 : Nat) < 384 ∧ (15 : Nat) < 16 ∧
      oget (scrubbing 0 Cluster.empty).dram.scrub 0 = none) ∧
    (Canonical hot ∧ hot.power.porstLow = false ∧ hot.power.powered = true ∧ hot.power.tripped = false ∧ overheated hot.power = true) := by
  refine ⟨fun x h => ?_, by decide +kernel, ⟨canonical_dram (by decide +kernel) (by decide +kernel) (by decide +kernel), by decide +kernel⟩,
    ⟨by decide +kernel, by decide, by decide, by decide, by decide +kernel⟩, canonical_of rfl rfl (by decide +kernel), rfl, by decide, by decide, by decide +kernel⟩
  rcases h with rfl | rfl | rfl <;>
    exact ⟨canonical_dram (by decide +kernel) (by decide +kernel) (by decide +kernel), by decide +kernel, by decide +kernel⟩

/-- A miss of line 512 that brings sectors 0 and 3. -/
def miss (as : List Nat) : Miss := { line := 512, sectors := 9, overlay := [], invalidated := false, accesses := as, before := 9 }

/-- A load of a word of sector 3, to v9. -/
def missLoad : Access := { acc .load (.home 0) 4 9 [⟨31, 0x1007C, 0x1007C, 0, 0⟩] with stage := .filling }

/-- The machine with a miss, its accesses, and the line in its home's cache or its eviction buffer. -/
def missing (m : Miss) (as : List Access) (c : Cluster) : State :=
  { run with cores := [(2, { coreWith group with misses := [m] })], accesses := as, nextAcc := 9, clusters := [(0, c)] }

/-- An eviction buffer whose oldest entry holds sector 1 of line 512. -/
def evicting : Cluster := { Cluster.empty with evict := [{ line := 512, dirty := 2, poison := 0, data := 5 <<< 256 }] }

/-- FillsAndEvictions: a prefetched line, a load that waits, and an eviction. -/
theorem fillsAndEvictions_met :
    (let s := missing (miss []) [] cached
     Canonical s ∧ ((s.core 2).misses.find? fun x => x.line == 512) = some (miss []) ∧ clusterUp s (homeOfLine 512) = true ∧
      fillWaits s 2 (miss []) = false ∧ (s.core 2).l1Find 512 = none) ∧
    (let s := missing (miss [4]) [missLoad] cached
     let d := (fillLine s 2 (miss [4]) 9).1
     Canonical s ∧ ((s.core 2).misses.find? fun x => x.line == 512) = some (miss [4]) ∧ clusterUp s (homeOfLine 512) = true ∧
      fillWaits s 2 (miss [4]) = false ∧ (∀ b ∈ s.accesses, b.sibling missLoad = true → b = missLoad) ∧ s.group 2 17 = some group ∧ vDst missLoad ∧ (lineVal d.1 d.2 4 ⟨31, 0x1007C, 0x1007C, 0, 0⟩).2 = false) ∧
    (let s := missing (miss []) [] evicting
     Canonical s ∧ bit s.power.clocks 2 = true ∧ (s.cluster 0).evict = evicting.evict) :=
  ⟨⟨canonical_of rfl rfl (by decide +kernel), by decide +kernel, by decide +kernel, by decide +kernel, by decide +kernel⟩,
   ⟨canonical_of rfl rfl (by decide +kernel), by decide +kernel, by decide +kernel, by decide +kernel,
    fun b hb _ => List.mem_singleton.1 hb, by decide +kernel, (by decide : 9 + 1 ≤ 0x100),
    by decide +kernel⟩, canonical_of rfl rfl (by decide +kernel), by decide +kernel, by decide +kernel⟩

end Sys2Proof.Tests
end

