-- ==== Sys2Proof/Tests/Desk.lean ====
section
/-! SUPPORT. Witnesses for the statements about queues, commands of the Desk and kernel commands. -/

namespace Sys2Proof.Tests

-- one theorem after another: each `decide` waits for the kernel, and waiting side by side costs a thread each
set_option Elab.async false

open Machine Says

/-- A packet of command `cmd` with argument words from a0 on. -/
def pkt (cmd a0 a1 a2 a3 : Nat) : BitVec 512 :=
  BitVec.ofNat 512 (cmd ||| a0 <<< 128 ||| a1 <<< 192 ||| a2 <<< 256 ||| a3 <<< 320)

/-- Queue 9 with `p` fetched from position 1. -/
def withCur (cls : QClass) (p : BitVec 512) : Queue :=
  { Queue.disabled with
      state := .active, cls := cls, ctx := 0, session := 1, log2 := 4, ring := 0x10000, record := 0x18000, readPos := 2, writePos := 4,
      observed := 4, cur := [⟨1, p, none⟩] }

/-- Tally 40 of tenant 0, at value 10, owned by context 5. -/
def tally0 : Tally := { Tally.free with assigned := true, tenant := 0, owner := 5, value := 10 }

/-- Contexts 0 and 5 are LIVE, context 0 with its page at 0x10000; queue 9 of context 0 is `q`; session 1 is the operator's. -/
def desk0 (q : Queue) : State :=
  { live with
      ctxs := [(0, { Ctx.fresh with state := .live }), (5, { Ctx.fresh with state := .live, tenant := 7 })],
      xlat := { live.xlat with leaves := [(0, [leafTo 0x10000 3]), (5, [leafTo 0x10000 1, leafTo 0x20000 2])] },
      desk := { live.desk with queues := [(9, q)].filter (·.2 != Queue.disabled) },
      hub := { live.hub with tallies := [(40, tally0)] },
      ports := { live.ports with sessions := [(1, some session1)] } }
where
  /-- The operator's session. -/
  session1 : Session :=
    { port := 0, ip := 9, udp := 5000, tenant := 0, operator := true, keyTag := 0, rxNext := 6, txNext := 0, unacked := [],
      resends := 0, backoff := 20000, owed := 0 }

/-- The packet that `withCur` holds, once fetched. -/
def got (p : BitVec 512) : Fetched := ⟨1, p, none⟩

/-- Queue 9 dispatches packet `p` in `s`, and `P` holds. -/
def DispatchMet (s : State) (p : BitVec 512) (P : Prop) : Prop := Canonical s ∧ Dispatches s 9 (cmdOf p) (got p) ∧ P

theorem dispatchMet_of {s : State} {p : BitVec 512} {P : Prop} [Decidable P] (hb : s.dram.bytes = []) (hk : s.dram.checks = [])
    (h : (canonicalB s && decide (packetStatus (s.queue 9).cls p = Code.success) && decide P && decide (readyPacket s 9 = some (got p)) &&
      decide (stampedLate s 9 = false ∧ BitVec.ofNat 32 1 ∉ (s.queue 9).overBudget)) = true) : DispatchMet s p P := by
  simp only [Bool.and_eq_true, decide_eq_true_eq] at h
  obtain ⟨⟨⟨⟨hc, hg⟩, hP⟩, hr⟩, ht, ha⟩ := h
  exact ⟨canonical_of hb hk hc, ⟨hr, rfl, hg, ht, ha⟩, hP⟩

/-- A test of what a good answer holds. -/
def okWith {ε α : Type} (x : Except ε α) (p : α → Bool) : Bool := match x with | .ok u => p u | .error _ => false

theorem okWith_elim {ε α : Type} {x : Except ε α} {p : α → Bool} (h : okWith x p = true) : ∃ u, x = .ok u ∧ p u = true := by
  cases x with
  | error _ => exact Bool.noConfusion h
  | ok u => exact ⟨u, rfl, h⟩

/-- The kernel queue's machine with packet `p`. -/
def kern (p : BitVec 512) : State := desk0 (withCur .kernel p)

/-! ## Queues -/

/-- A message of the operator's session at its next SEQ. -/
def msg (arg0 : Nat) (payload : List Byte) : Msg :=
  { port := 0, srcIp := 9, srcUdp := 5000, vlan := 0, version := 1, session := 1, seq := 6, ack := 0, ackValid := false, ackNow := false,
    more := false, gap := false, rsv := false, status := 0, tag := 77, arg0 := BitVec.ofNat 64 arg0, payload := payload }

/-- What acceptance of the next message leaves of a session. -/
def counted (x : Session) : Session := { x with rxNext := x.rxNext + 1, owed := x.owed + 1 }

/-- A test that a message passes the checks. -/
def deliverable (s : State) (m : Msg) (x : Session) (cat : Bool) : Bool :=
  portUp s m.port && admits s m.port m.vlan.toNat (ownBytes m.srcIp m.payload.length) && decide (m.port < 2) &&
  vlanOk s m cat false && msgOk m && (sessionOf s m).isSome && !m.ackValid && !m.ackNow &&
  decide (m.seq = x.rxNext ∧ x.owed + 1 < 16) && (!cat || serverUp s) && decide (s.power.devState = .running)

/-- A message that passes the checks is delivered. -/
theorem delivered_of {s : State} {m : Msg} {x : Session} {cat : Bool}
    (h : deliverable s m x cat = true)
    (hx : s.session m.session.toNat = some x) :
    Delivered s m cat (s.setSession m.session.toNat (some (counted x))) x := by
  simp only [deliverable, Bool.and_eq_true, decide_eq_true_eq, Bool.not_eq_true'] at h
  obtain ⟨⟨⟨⟨⟨⟨⟨⟨⟨⟨h1, ha⟩, hp⟩, h2⟩, h3⟩, h4⟩, h5⟩, h6⟩, h7, h7'⟩, h8⟩, h9⟩ := h
  refine ⟨fun act => ?_, by rw [hx]; nofun, h9⟩
  obtain ⟨y, hy⟩ := Option.isSome_iff_exists.1 h4
  have hcat : (cat && !serverUp s) = false := by
    cases cat
    · rfl
    · simpa using h8
  have hport : ¬ (2 ≤ m.port ∨ (!vlanOk s m cat false) = true) := by
    rw [h2]
    rintro (h | h)
    · omega
    · cases h
  unfold smtSeq msgArrives arrive
  rw [h1, ha, h3]
  simp only [Bool.not_true, Bool.false_eq_true, if_false, if_true, Bool.or_self]
  rw [if_neg hport, hy, h5]
  simp only [Bool.false_eq_true, if_false]
  rw [hx]
  simp only [h7, ne_eq, not_true, if_false, hcat, Bool.false_eq_true]
  rw [if_neg (by rw [h6]; rintro (h | h); cases h; omega)]
  rfl

/-- Host port 0 is up. -/
def linked (s : State) : State :=
  { s with ports := { s.ports with ports := [(0, { Port.reset 0 with linkState := 2 })] } }

theorem door_delivered (q : Queue) (a : Nat) : Delivered (linked (desk0 q)) (msg a []) false
    ((linked (desk0 q)).setSession 1 (some (counted desk0.session1))) desk0.session1 :=
  delivered_of (s := linked (desk0 q)) (m := msg a []) (cat := false) (h := by
    have : (portUp (linked idle) 0 && admits (linked idle) 0 0 (ownBytes 9 0) && vlanOk (linked idle) (msg 0 []) false false) = true := by
      decide +kernel
    simp only [deliverable, Bool.and_eq_true] at this ⊢
    refine ⟨⟨⟨⟨⟨⟨⟨⟨⟨⟨this.1.1, this.1.2⟩, rfl⟩, this.2⟩, rfl⟩, rfl⟩, rfl⟩, rfl⟩, rfl⟩, rfl⟩, rfl⟩) rfl

/-- The queue of the operator's session, with nothing fetched, at rest in a state. -/
def atRest (st : QState) (read write : Word) : Queue :=
  { withCur .kernel 0 with state := st, cur := [], readPos := read, writePos := write, observed := write }

/-- A waiting queue with 15 packets read ahead. -/
def ahead : Queue :=
  { atRest .waiting 5 21 with pre := (List.range 15).map fun i => ⟨5 + i, 0, none⟩, wait := some ⟨4, pkt 2 40 9 0 0, true⟩ }

/-- DeskQueues, doorbells: every case, the last at the ring's size. -/
theorem deskQueues_doorbell_met :
    (∀ q a, Canonical (linked (desk0 q)) → Delivered (linked (desk0 q)) (msg a []) false
      ((linked (desk0 q)).setSession 1 (some (counted desk0.session1))) desk0.session1) ∧
    Canonical (linked (desk0 Queue.disabled)) ∧
    (let u := (linked (desk0 Queue.disabled)).setSession 1 (some (counted desk0.session1))
     (u.queue 9).state = .disabled) ∧
    Canonical (linked (desk0 { atRest .idle 2 2 with ctx := 5 })) ∧
    (let u := (linked (desk0 { atRest .idle 2 2 with ctx := 5 })).setSession 1 (some (counted desk0.session1))
     (u.queue 9).state ≠ .disabled ∧ tenantOf u (u.queue 9).ctx ≠ desk0.session1.tenant) ∧
    Canonical (linked (desk0 (atRest .idle 2 2))) ∧
    (let u := (linked (desk0 (atRest .idle 2 2))).setSession 1 (some (counted desk0.session1))
     let m := msg (9 + 16 * 2 ^ 32) []
     fld m.arg0 12 20 = 0 ∧ fld m.arg0 0 12 = 9 ∧ (u.queue 9).state = .idle ∧ MayRing u 9 desk0.session1 ∧
     (BitVec.ofNat 32 (fld m.arg0 32 32) - (u.queue 9).retiredPos).toNat = 2 ^ (u.queue 9).log2) :=
  ⟨fun q a _ => door_delivered q a, canonical_of rfl rfl (by decide +kernel), by decide +kernel, canonical_of rfl rfl (by decide +kernel),
   by decide +kernel, canonical_of rfl rfl (by decide +kernel), by unfold MayRing; decide +kernel⟩

/-- A serving queue with an admitted NOP whose Steep is over. -/
def lateNop : State := desk0 { withCur .serving (pkt 0 0 0 0 0) with admitPos := 4 }

/-- DeskQueues, the rest: a fetch at the last position, an empty ring, pre-decode of the sixteenth packet, a NOP with and without
its signal, a WAIT that polls, and a NOP beyond its Steep. -/
theorem deskQueues_met :
    (let s := desk0 (atRest .active 0xFFFFFFFF 0)
     Canonical s ∧ deskUp s = true ∧ readyPacket s 9 = none ∧ ((observing s 9).queue 9).readPos ≠ ((observing s 9).queue 9).observed ∧
      ∃ x, fetchPacket (observing s 9) 9 = .ok x ∧ (packetStatus .kernel x.1.packet == Code.success) = true) ∧
    (let s := desk0 (atRest .active 4 4)
     Canonical s ∧ deskUp s = true ∧ readyPacket s 9 = none ∧ ((observing s 9).queue 9).readPos = ((observing s 9).queue 9).observed) ∧
    (Canonical (desk0 ahead) ∧ deskUp (desk0 ahead) = true ∧ ahead.pre.length < 16 ∧ ahead.readPos + 15 ≠ ahead.writePos ∧
      ∃ x, virtRead (desk0 ahead) .desk 0 (ahead.slotVa 20) 64 deskMayUse = .ok x ∧ (cmdOf (packetOf x.1.bytes) != 1) = true) ∧
    DispatchMet (kern (pkt 0 0 0 0 0)) (pkt 0 0 0 0 0) (bit (pkt 0 0 0 0 0) 10 = false) ∧
    DispatchMet (kern (pkt 0 0 0 0 0 ||| at_ 512 10 3 ||| at_ 512 16 40 ||| at_ 512 64 (2 ^ 63 - 11)))
      (pkt 0 0 0 0 0 ||| at_ 512 10 3 ||| at_ 512 16 40 ||| at_ 512 64 (2 ^ 63 - 11))
      (let s := kern 0
       (s.tally 40).assigned = true ∧ (s.tally 40).tenant = tenantOf s (s.queue 9).ctx ∧ (s.tally 40).abandoned = false ∧
       (s.tally 40).value + (2 ^ 63 - 11) < 2 ^ 63) ∧
    (Canonical (desk0 ahead) ∧ ahead.wait = some ⟨4, pkt 2 40 9 0 0, true⟩ ∧ arg (pkt 2 40 9 0 0) 0 0 16 = 40 ∧ stampedLate (desk0 ahead) 9 = false ∧
      ((desk0 ahead).tally 40).assigned = true ∧ ((desk0 ahead).tally 40).abandoned = false ∧
      arg (pkt 2 40 9 0 0) 1 0 63 ≤ ((desk0 ahead).tally 40).value ∧ ((desk0 ahead).tally 40).tenant = tenantOf (desk0 ahead) 0) ∧
    (Canonical lateNop ∧ readyPacket lateNop 9 = some (got (pkt 0 0 0 0 0)) ∧
      packetStatus (lateNop.queue 9).cls (pkt 0 0 0 0 0) = Code.success ∧ BitVec.ofNat 32 1 ∉ (lateNop.queue 9).overBudget ∧
      stampedLate lateNop 9 = true) := by
  refine ⟨⟨canonical_of rfl rfl (by decide +kernel), by decide +kernel, by decide +kernel, by decide +kernel, ?_⟩,
    ⟨canonical_of rfl rfl (by decide +kernel), by decide +kernel, by decide +kernel, by decide +kernel⟩,
    ⟨canonical_of rfl rfl (by decide +kernel), by decide +kernel, by decide, by decide, ?_⟩, dispatchMet_of rfl rfl (by decide +kernel),
    dispatchMet_of rfl rfl (by decide +kernel), ⟨canonical_of rfl rfl (by decide +kernel), rfl, by decide +kernel, by decide +kernel, by decide +kernel, by decide +kernel, by decide +kernel,
      by decide +kernel⟩,
    canonical_of rfl rfl (by decide +kernel), by decide +kernel, by decide +kernel, by decide +kernel, by decide +kernel⟩
  · exact okWith_elim (by decide +kernel)
  · exact okWith_elim (by decide +kernel)

/-! ## Commands of every queue -/

/-- Setup's descriptor with 64 uniform words at 0x10000, or with so much local store for a block that no core has it. -/
def descU (fits : Bool) : BitVec 1024 :=
  at_ 1024 0 0x10000 ||| at_ 1024 128 1024 ||| at_ 1024 144 64 ||| at_ 1024 160 64 ||| at_ 1024 176 (if fits then 1 else 65) |||
    at_ 1024 192 4 ||| at_ 1024 320 0x10000 ||| at_ 1024 376 64

/-- A queue whose LAUNCH carries a descriptor read ahead. -/
def launching (d : BitVec 1024) : State := desk0 { withCur .kernel 0 with cur := [⟨1, pkt 1 0x10080 0 0 0, some d⟩] }

/-- The packet of `launching`. -/
def launchF (d : BitVec 1024) : Fetched := ⟨1, pkt 1 0x10080 0 0 0, some d⟩

/-- DeskCommands, LAUNCH: a descriptor out of its ranges, one that fits no core, and one of 1,024 threads and 64 uniforms. -/
theorem deskCommands_launch_met :
    (∀ d, d = 0 ∨ d = descU false ∨ d = descU true → Dispatches (launching d) 9 1 (launchF d)) ∧ Canonical (launching 0) ∧ Canonical (launching (descU false)) ∧
    Canonical (launching (descU true)) ∧
    descOk false (launchOf (launching 0) 9 (launchF 0) 0) = false ∧
    (descOk false (launchOf (launching (descU false)) 9 (launchF (descU false)) (descU false)) = true ∧
      launchFits (launchOf (launching (descU false)) 9 (launchF (descU false)) (descU false)) = false) ∧
    (descOk false (launchOf (launching (descU true)) 9 (launchF (descU true)) (descU true)) = true ∧
      launchFits (launchOf (launching (descU true)) 9 (launchF (descU true)) (descU true)) = true ∧
      ∃ x, deskRead (openCur (launching (descU true)) 9 (launchF (descU true))) 9 1 0x10000 256 = .ok x) ∧
    (Canonical (kern (pkt 1 0x10080 0 0 0)) ∧ Dispatches (kern (pkt 1 0x10080 0 0 0)) 9 1 (got (pkt 1 0x10080 0 0 0)) ∧
      descCopy (openCur (kern (pkt 1 0x10080 0 0 0)) 9 (got (pkt 1 0x10080 0 0 0))) 9 (got (pkt 1 0x10080 0 0 0)) = none ∧
      ∃ x, deskRead (openCur (kern (pkt 1 0x10080 0 0 0)) 9 (got (pkt 1 0x10080 0 0 0))) 9 1 0x10080 128 = .ok x) :=
  ⟨fun d h => by rcases h with rfl | rfl | rfl <;> constructor <;> decide +kernel,
   canonical_of rfl rfl (by decide +kernel), canonical_of rfl rfl (by decide +kernel), canonical_of rfl rfl (by decide +kernel),
   by decide +kernel, by decide +kernel, ⟨by decide +kernel, by decide +kernel, ok_of (by decide +kernel)⟩,
   canonical_of rfl rfl (by decide +kernel), by constructor <;> decide +kernel, by decide +kernel, ok_of (by decide +kernel)⟩

/-- The kernel queue's machine with packet `p` and tally 40 as `t`. -/
def kernTally (t : Tally) (p : BitVec 512) : State := { kern p with hub := { idle.hub with tallies := [(40, t)] } }

/-- A walk that cleans every cache for the command at position 3 of queue 9. -/
def walk : CcWalk := { op := 1, l1 := true, next := 0, owner := some (9, 3) }

/-- The machine of that walk: a dirty line, and an eviction. -/
def walking : State :=
  let s := kern 0
  { s with
      desk := { s.desk with queues := [(9, { atRest .active 4 4 with opened := [⟨3, pkt 4 0x1D 0 0 0⟩] })] },
      power := { s.power with ccMaint := [walk] },
      clusters := [(0, { cached with evict := evicting.evict })] }

/-- DeskCommands, tallies and caches: WAIT in its four cases, EVENT_WATCH, and CACHE_MAINT with a dirty line and an
eviction, its walk, and one of a range. -/
theorem deskCommands_met :
    DispatchMet (kern (pkt 2 40 10 0 0)) (pkt 2 40 10 0 0) (let s := kern 0
      (s.tally 40).assigned = true ∧ (s.tally 40).tenant = tenantOf s (s.queue 9).ctx ∧ (s.tally 40).abandoned = false ∧ 10 ≤ (s.tally 40).value) ∧
    DispatchMet (kern (pkt 2 41 10 0 0)) (pkt 2 41 10 0 0) (((kern 0).tally 41).assigned = false) ∧
    DispatchMet (kernTally { tally0 with abandoned := true } (pkt 2 40 10 0 0)) (pkt 2 40 10 0 0)
      (((kernTally { tally0 with abandoned := true } 0).tally 40).abandoned = true) ∧
    DispatchMet (kern (pkt 2 40 11 0 0)) (pkt 2 40 11 0 0) (let s := kern 0
      (s.tally 40).value < 11 ∧ s.hub.watches.length < 16384 ∧ watchesOf s (tenantOf s (s.queue 9).ctx) < s.hub.quota) ∧
    DispatchMet (kern (pkt 3 (40 ||| 1 <<< 16 ||| 1 <<< 32) 11 0 0)) (pkt 3 (40 ||| 1 <<< 16 ||| 1 <<< 32) 11 0 0) (let s := kern 0
      eventSession s 1 (s.queue 9).ctx = true ∧ (s.tally 40).value < 11) ∧
    DispatchMet { kern (pkt 4 0x1D 0 0 0) with clusters := [(0, { cached with evict := evicting.evict })] } (pkt 4 0x1D 0 0 0)
      (let p := pkt 4 0x1D 0 0 0
       arg p 0 0 2 ≠ 0 ∧ arg p 0 3 1 = 1 ∧ arg p 0 4 1 = 1 ∧ arg p 1 0 64 = 0 ∧ arg p 2 0 64 = 0) ∧
    (Canonical walking ∧ walk ∈ walking.power.ccMaint ∧ ((walking.queue 9).opened.find? fun c => c.pos == 3) = some ⟨3, pkt 4 0x1D 0 0 0⟩ ∧
      stampedLate walking 9 = false ∧ ∀ k ∈ List.range 24, (walking.cluster k).evict.length ≤ 32) ∧
    DispatchMet { kern (pkt 4 0x09 0x10000 0x80 0) with clusters := [(0, cached)] } (pkt 4 0x09 0x10000 0x80 0)
      (let p := pkt 4 0x09 0x10000 0x80 0
       arg p 0 0 2 = 1 ∧ arg p 0 2 1 = 0 ∧ arg p 0 3 1 = 1 ∧ arg p 0 4 1 = 0 ∧ 512 ∈ physLines (arg p 1 0 56) (arg p 2 0 44) ∧
       homeOfLine 512 = 0 ∧ cached.find 512 = some 8195) :=
  ⟨dispatchMet_of rfl rfl (by decide +kernel), dispatchMet_of rfl rfl (by decide +kernel), dispatchMet_of rfl rfl (by decide +kernel),
   dispatchMet_of rfl rfl (by decide +kernel), dispatchMet_of rfl rfl (by decide +kernel), dispatchMet_of rfl rfl (by decide +kernel),
   ⟨canonical_of rfl rfl (by decide +kernel), by decide +kernel, by decide +kernel, by decide +kernel, by decide +kernel⟩,
   dispatchMet_of rfl rfl (by decide +kernel)⟩

/-! ## Kernel commands -/

/-- The kernel queue's machine with packet `p` and a teardown of context 5 that may complete. -/
def tearing : State :=
  let s := kern 0
  { s with
      ctxs := [(0, { Ctx.fresh with state := .live }), (5, { Ctx.fresh with state := .teardown, tenant := 7 })],
      desk := { s.desk with
        queues := [(8, { atRest .stopped 2 2 with ctx := 5 }), (9, { atRest .active 4 4 with opened := [⟨3, pkt 0x41 5 0 0 0⟩] })],
        teardowns := [⟨9, 3, 5, true⟩] } }

/-- The kernel queue's machine in which a change of context 5 waits for accesses. -/
def changing : State :=
  let s := kern 0
  { s with
      desk := { s.desk with queues := [(9, { atRest .active 4 4 with opened := [⟨3, pkt 0x43 5 0x10000 0 0⟩] })] },
      xlat := { s.xlat with changes := [⟨9, 3, 5, 7, Code.success⟩] } }

/-- MAP of two 64 KiB pages of context 5 at the top of the address space onto DRAM pages 5,000 and 5,001. -/
def mapPkt : BitVec 512 := pkt 0x42 5 (2 ^ 56 - 0x20000) 1 (5000 <<< 16 ||| 0x3B)

/-- UNMAP, and PROTECT to read only, of the two pages of context 5. -/
def unmapPkt : BitVec 512 := pkt 0x43 5 0x10000 1 0

/-- See `unmapPkt`. -/
def protectPkt : BitVec 512 := pkt 0x44 5 0x10000 1 0x8

/-- The kernel queue's machine in which context 5 maps pages that lie behind the table area. -/
def mapped (p : BitVec 512) : State :=
  let s := kern p
  { s with xlat := { s.xlat with leaves := [(0, [leafTo 0x10000 3]), (5, [leafTo 0x10000 5001, leafTo 0x20000 5002])] } }

/-- What UNMAP and PROTECT ask of the pages. -/
def ChangeOk (s : State) (p : BitVec 512) : Prop :=
  mappingFree s 9 = true ∧ mapArgs p = (5, 0, 0x10000, 2) ∧ mapRangeOk 0 0x10000 2 = true ∧ (s.ctx 5).state = .live ∧
    ∀ x ∈ rangeVas p, holds (exactLeaf s 5 x 0) (fun l => !bit l.word 7 && !ownLeaf 5 l) = true

/-- ContextsAndMappings: each clause, with the highest context, page and carrel that its range admits. -/
theorem contextsAndMappings_met :
    DispatchMet (kern (pkt 0x40 (1023 ||| 7 <<< 16) 0 0 0)) (pkt 0x40 (1023 ||| 7 <<< 16) 0 0 0) (let s := kern 0
      (s.ctx 1023).state = .free ∧ carrelAdmits s 0 7 = true ∧
      (takeRun (openCur s 9 (got (pkt 0x40 (1023 ||| 7 <<< 16) 0 0 0))) 0 8 1023 (.node 0 0)).isSome = true) ∧
    DispatchMet (kern (pkt 0x41 0 0 0 0)) (pkt 0x41 0 0 0 0) (arg (pkt 0x41 0 0 0 0) 0 0 10 = 0) ∧
    DispatchMet (kern (pkt 0x41 5 0 0 0)) (pkt 0x41 5 0 0 0) (((kern 0).ctx 5).state = .live ∧ folioNames (kern 0) 5 = false) ∧
    (Canonical tearing ∧ (tearing.desk.teardowns.find? fun y => y.ctx == 5) = some ⟨9, 3, 5, true⟩ ∧ deskUp tearing = true ∧
      teardownReady tearing ⟨9, 3, 5, true⟩ = true) ∧
    DispatchMet (kern mapPkt) mapPkt (let s := kern 0
      mappingFree s 9 = true ∧ mapArgs mapPkt = (5, 0, 2 ^ 56 - 0x20000, 2) ∧ mapRangeOk 0 (2 ^ 56 - 0x20000) 2 = true ∧
      leafFormOk (BitVec.ofNat 64 (arg mapPkt 3 0 64)) 0 = true ∧
      leafAddr (BitVec.ofNat 64 (arg mapPkt 3 0 64)) + 2 * pageBytes 0 ≤ 2 ^ 44 ∧ (s.ctx 5).state = .live ∧
      (∀ l ∈ mapLeaves mapPkt, (∀ o ∈ leavesOf s 5, leafOverlaps l o = false) ∧ leafPlaceOk s 5 l = true ∧ leafReserved l = false ∧
        ∀ p ∈ leafPages l, s.dram.retired p = false ∧ mapCount s p < 65535) ∧ (addLeaves (openCur s 9 (got mapPkt)) 5 (mapLeaves mapPkt)).isSome = true) ∧
    (DispatchMet (mapped unmapPkt) unmapPkt True ∧ ChangeOk (mapped unmapPkt) unmapPkt) ∧
    (DispatchMet (mapped protectPkt) protectPkt True ∧ ChangeOk (mapped protectPkt) protectPkt ∧
      ∀ x ∈ rangeVas protectPkt, holds (exactLeaf (mapped protectPkt) 5 x 0) (fun l =>
        leafFormOk (setBit (protectLeaf protectPkt l).word 7 false) 0 && leafPlaceOk (mapped protectPkt) 5 (protectLeaf protectPkt l)) = true) ∧
    (Canonical changing ∧ (changing.xlat.changes.find? fun x => x.queue == 9) = some ⟨9, 3, 5, 7, Code.success⟩ ∧ deskUp changing = true ∧
      ((changing.queue 9).opened.find? fun x => x.pos == 3) = some ⟨3, pkt 0x43 5 0x10000 0 0⟩) ∧
    DispatchMet (kern (pkt 0x45 (15 ||| 255 <<< 8 ||| 1 <<< 16 ||| 256 <<< 32) 4096 0 0)) (pkt 0x45 (15 ||| 255 <<< 8 ||| 1 <<< 16 ||| 256 <<< 32) 4096 0 0)
      (carrelRefusal (projected (openCur (kern 0) 9 (got 0))) 15 ⟨255, 1, 256, 4096⟩ = some Code.carrelOverlap) ∧
    DispatchMet (kern (pkt 0x45 (15 ||| 257 <<< 32) 0 0 0)) (pkt 0x45 (15 ||| 257 <<< 32) 0 0 0)
      (carrelRefusal (projected (openCur (kern 0) 9 (got 0))) 15 ⟨0, 0, 257, 0⟩ = some Code.valueOutOfRange) ∧
    DispatchMet (kern (pkt 0x45 (15 ||| 256 <<< 32) 0 0 0)) (pkt 0x45 (15 ||| 256 <<< 32) 0 0 0)
      (carrelArgs (pkt 0x45 (15 ||| 256 <<< 32) 0 0 0) = (15, ⟨0, 0, 256, 0⟩) ∧ carrelRefusal (projected (openCur (kern 0) 9 (got 0))) 15 ⟨0, 0, 256, 0⟩ = none) := by
  refine ⟨dispatchMet_of rfl rfl (by decide +kernel), dispatchMet_of rfl rfl (by decide +kernel), dispatchMet_of rfl rfl (by decide +kernel),
    ⟨canonical_of rfl rfl (by decide +kernel), by decide +kernel, by decide +kernel, by decide +kernel⟩,
    dispatchMet_of rfl rfl (by decide +kernel), ⟨dispatchMet_of rfl rfl (by decide +kernel), by unfold ChangeOk; decide +kernel⟩,
    ⟨dispatchMet_of rfl rfl (by decide +kernel), by unfold ChangeOk; decide +kernel, by decide +kernel⟩,
    ⟨canonical_of rfl rfl (by decide +kernel), by decide +kernel, by decide +kernel, by decide +kernel⟩,
    dispatchMet_of rfl rfl (by decide +kernel), dispatchMet_of rfl rfl (by decide +kernel), dispatchMet_of rfl rfl (by decide +kernel)⟩

/-- The kernel queue's machine with packet `p` and queue 4,095 in a state. -/
def withOther (p : BitVec 512) (st : QState) : State :=
  let s := kern p
  { s with desk := { s.desk with queues := [(9, withCur .kernel p), (4095, { atRest st 2 4 with ctx := 5 })] } }

/-- PAGE_RETIRE's machine: DRAM page 7,000 is retired, page 7,001 mapped. -/
def retiring (p : BitVec 512) : State :=
  let s := kern p
  { s with dram := { s.dram with fieldRetired := [7000] }, xlat := { s.xlat with mapCount := [(7001, 1)] } }

/-- TalliesPagesQueues: tallies up to the last, pages in each case up to the last, and queue 4,095. -/
theorem talliesPagesQueues_met :
    DispatchMet (kern (pkt 0x46 (65534 ||| 2 <<< 16 ||| 5 <<< 40) 3 0 0)) (pkt 0x46 (65534 ||| 2 <<< 16 ||| 5 <<< 40) 3 0 0) (let s := kern 0
      (s.ctx 5).state = .live ∧ (s.tally 65534).assigned = false ∧ (s.tally 65535).assigned = false) ∧
    DispatchMet (kern (pkt 0x47 (40 ||| 65496 <<< 16) 0 0 0)) (pkt 0x47 (40 ||| 65496 <<< 16) 0 0 0)
      (arg (pkt 0x47 (40 ||| 65496 <<< 16) 0 0 0) 0 16 17 = 65496 ∧ 40 + 65496 ≤ 65536) ∧
    DispatchMet (kern (pkt 0x48 40 0x1FFF0 0 0)) (pkt 0x48 40 0x1FFF0 0 0)
      ((virtWrite (openCur (kern (pkt 0x48 40 0x1FFF0 0 0)) 9 (got (pkt 0x48 40 0x1FFF0 0 0))) .desk 0 0x1FFF0
        (leBytes 16 ((kern 0).tally 40).image.toNat) deskMayUse).isOk = true) ∧
    DispatchMet (retiring (pkt 0x49 (384 * 65536) 0 0 0)) (pkt 0x49 (384 * 65536) 0 0 0) (384 ≤ arg (pkt 0x49 (384 * 65536) 0 0 0) 0 0 25 / 65536) ∧
    DispatchMet (retiring (pkt 0x49 7000 0 0 0)) (pkt 0x49 7000 0 0 0) ((retiring 0).dram.retired 7000 = true) ∧
    DispatchMet (retiring (pkt 0x49 7001 0 0 0)) (pkt 0x49 7001 0 0 0) ((retiring 0).dram.retired 7001 = false ∧ mapCount (retiring 0) 7001 ≠ 0) ∧
    DispatchMet (retiring (pkt 0x49 (384 * 65536 - 1) 0 0 0)) (pkt 0x49 (384 * 65536 - 1) 0 0 0) (let s := retiring 0
      s.dram.retired (384 * 65536 - 1) = false ∧ mapCount s (384 * 65536 - 1) = 0 ∧
      (carrelOf s (384 * 65536 - 1)).all (fun c => !inTableArea s.dram (s.carrel c.1) c.2) = true) ∧
    DispatchMet (kern (pkt 0x4A (4095 ||| 1 <<< 12 ||| 5 <<< 16 ||| 191 <<< 32 ||| 16 <<< 48) 0x10000 0x20000 0))
      (pkt 0x4A (4095 ||| 1 <<< 12 ||| 5 <<< 16 ||| 191 <<< 32 ||| 16 <<< 48) 0x10000 0x20000 0) (let s := kern 0
      (s.queue 4095).state = .disabled ∧ (s.ctx 5).state = .live ∧ classOf 1 = some .serving ∧ classFits s .serving 5 = true ∧
      (s.slot 191).queue = 0xFFFF) ∧
    DispatchMet (kern (pkt 0x4B 0 0 0 0)) (pkt 0x4B 0 0 0 0) (arg (pkt 0x4B 0 0 0 0) 0 0 12 = 0) ∧
    DispatchMet (withOther (pkt 0x4B 4095 0 0 0) .stopped) (pkt 0x4B 4095 0 0 0) (((withOther 0 .stopped).queue 4095).state = .stopped) ∧
    DispatchMet (withOther (pkt 0x4F 4095 0 0 0) .halted) (pkt 0x4F 4095 0 0 0) (((withOther 0 .halted).queue 4095).state = .halted) ∧
    DispatchMet (withOther (pkt 0x4F (4095 ||| 1 <<< 12) 0 0 0) .active) (pkt 0x4F (4095 ||| 1 <<< 12) 0 0 0)
      (((withOther 0 .active).queue 4095).state = .active) ∧
    DispatchMet (withOther (pkt 0x4F (4095 ||| 2 <<< 12) 0 0 0) .halted) (pkt 0x4F (4095 ||| 2 <<< 12) 0 0 0)
      (((withOther 0 .halted).queue 4095).state = .halted) :=
  ⟨dispatchMet_of rfl rfl (by decide +kernel), dispatchMet_of rfl rfl (by decide +kernel), dispatchMet_of rfl rfl (by decide +kernel),
   dispatchMet_of rfl rfl (by decide +kernel), dispatchMet_of rfl rfl (by decide +kernel), dispatchMet_of rfl rfl (by decide +kernel),
   dispatchMet_of rfl rfl (by decide +kernel), dispatchMet_of rfl rfl (by decide +kernel), dispatchMet_of rfl rfl (by decide +kernel),
   dispatchMet_of rfl rfl (by decide +kernel), dispatchMet_of rfl rfl (by decide +kernel), dispatchMet_of rfl rfl (by decide +kernel),
   dispatchMet_of rfl rfl (by decide +kernel)⟩

end Sys2Proof.Tests
end

