-- ==== Sys2Proof/Tests/Faults.lean ====
section
/-! SUPPORT. Witnesses for the statements about faults, blocks, launches, the check code, vaults, caches and sensors. -/

namespace Sys2Proof.Tests

-- one theorem after another: each `decide` waits for the kernel, and waiting side by side costs a thread each
set_option Elab.async false

open Machine Says

/-- A fault of context 5 with every field at its largest value. -/
def info (ctx : Nat) : FaultInfo :=
  { ctx := ctx, status := Code.translationFault, kind := 3, unit := 3, core := 383, slot := 15, lane := some 31, queue := 4095,
    pos := 2 ^ 32 - 1, pc := 0xFFFFFFFFFFFFF8, va := some (2 ^ 56 - 1), pa := some (2 ^ 44 - 1) }

/-- FaultLosesContext: a fault of a LIVE context, of a FREE one and of one in teardown that has its record. -/
theorem faultLosesContext_met :
    Canonical run ∧ (run.ctx (info 5).ctx).state = .live ∧ (run.ctx (info 1023).ctx).state ≠ .live ∧
    (run.ctx (info 1023).ctx).state ≠ .teardown ∧
    (let s := { run with ctxs := [(5, { Ctx.fresh with state := .teardown, tenant := 7, faultStatus := 1 })] }
     Canonical s ∧ (s.ctx (info 5).ctx).state = .teardown ∧ (s.ctx (info 5).ctx).faultStatus ≠ 0) :=
  ⟨run_canonical, rfl, by decide, by decide, canonical_of rfl rfl (by decide +kernel), by decide, by decide⟩

/-- FaultRecordFields: the largest fields, the first and the last context's entry, and a LIVE context. -/
theorem faultRecordFields_met :
    tenantOf run (info 1023).ctx < 256 ∧ (info 1023).kind < 16 ∧ (info 1023).unit < 4 ∧ (info 1023).core < 512 ∧ (info 1023).slot < 16 ∧
    (info 1023).queue < 4096 ∧ (info 1023).pos < 2 ^ 32 ∧ (∀ l, (info 1023).lane = some l → l < 32) ∧ (∀ p, (info 1023).pa = some p → p < 2 ^ 44) ∧
    steepNow run < 2 ^ 64 ∧ run.power.now < 2 ^ 64 ∧ (∃ e, catEntry run 0x5000 0x0A = some e) ∧
    (∃ e, catEntry run (0x5000 + 1023) 0x0A = some e) ∧ (run.ctx (info 5).ctx).state = .live :=
  ⟨by decide, by decide, by decide, by decide, by decide, by decide, by decide, fun l h => by cases h; decide, fun p h => by cases h; decide, by decide, by decide,
   Option.isSome_iff_exists.1 (by decide +kernel), Option.isSome_iff_exists.1 (by decide +kernel), rfl⟩

/-- The fetch of what a group is at passes. -/
def fetchOk (e : Env) : Bool := match fetchCheck e with | .ok _ => true | _ => false

theorem fetchOk_elim {e : Env} (h : fetchOk e = true) : fetchCheck e = .ok (fetched e).s := by
  unfold fetchOk at h
  unfold fetched
  split at h
  · rename_i u hu
    rw [hu]
  · cases h

theorem fetched_before {s : State} {e : Env} (h : e.s = s) : (fetched e).before s = e := by
  subst h
  unfold fetched
  split <;> rfl

theorem fetched_launch (e : Env) : (fetched e).l = e.l := by
  unfold fetched
  split <;> rfl

/-- In `s` the test group issues an instruction of form `i` and its fetch passes, and `P` holds of what it sees. -/
def IssuesWith (s : State) (i : Form) (P : Env → Prop) : Prop :=
  ∃ e, Canonical s ∧ Issues s ref i e ∧ fetchCheck (e.before s) = .ok e.s ∧ P e

theorem issuesWith_of {s : State} {i : Form} {P : Env → Prop} [DecidablePred P] (hc : Canonical s)
    (h : holds (ready? s ref) (fun e => !hazard e i && decide ((s.ctx e.l.ctx).state = .live) && fetchOk e &&
      decide (P (fetched e))) = true) : IssuesWith s i P := by
  obtain ⟨e, he, hp⟩ := holds_elim h
  simp only [Bool.and_eq_true, decide_eq_true_eq, Bool.not_eq_true'] at hp
  obtain ⟨⟨⟨h1, h2⟩, h3⟩, h4⟩ := hp
  have hb := fetched_before (ready_state he)
  exact ⟨fetched e, hc, ⟨by rw [hb]; exact he, by rw [hb]; exact h1, by rw [fetched_launch]; exact h2⟩, by rw [hb]; exact fetchOk_elim h3, h4⟩

/-- The fetch of what a group is at raises an exception. -/
def fetchTraps (e : Env) : Bool := match fetchCheck e with | .trap _ _ => true | _ => false

/-- A group at an unmapped page, and one with lane 0 alone active. -/
def groupLost : Group := { group with pc := 0x50000 }

/-- See `groupLost`. -/
def groupOne : Group := { group with active := 1 }

/-- `add` to a register, and with a reserved bit. -/
def addFields (dst : BitVec 9) (m : BitVec 12) : RFields := { bare with dst := dst, srcA := 2, srcB := 3, mod := m }

theorem unmapped_issues :
    ∃ e u tr, Canonical (withGroup groupLost) ∧ Issues (withGroup groupLost) ref (form2 tAll true (addFields 1 0xB)) e ∧
      fetchCheck (e.before (withGroup groupLost)) = .trap u tr := by
  have h : holds (ready? (withGroup groupLost) ref) (fun e => !hazard e (form2 tAll true (addFields 1 0xB)) &&
      decide (((withGroup groupLost).ctx e.l.ctx).state = .live) && fetchTraps e) = true := by decide +kernel
  obtain ⟨e, he, hp⟩ := holds_elim h
  simp only [Bool.and_eq_true, decide_eq_true_eq, Bool.not_eq_true'] at hp
  have hb : e.before (withGroup groupLost) = e := by rw [← ready_state he]
  have h3 := hp.2
  unfold fetchTraps at h3
  split at h3
  · rename_i u tr ht
    exact ⟨e, u, tr, canonical_of rfl rfl (by decide +kernel), ⟨by rw [hb]; exact he, by rw [hb]; exact hp.1.1, hp.1.2⟩, by rw [hb]; exact ht⟩
  · cases h3

/-- InstructionFaults: each clause; the register is the first beyond the launch's 64. -/
theorem instructionFaults_met :
    IssuesWith run { guard := ⟨false, false, 0⟩, dsts := [], srcs := [], legal := false, uniform := false } (fun _ => True) ∧
    (∃ e u tr, Canonical (withGroup groupLost) ∧ Issues (withGroup groupLost) ref (form2 tAll true (addFields 1 0xB)) e ∧
      fetchCheck (e.before (withGroup groupLost)) = .trap u tr) ∧
    IssuesWith run (form2 tAll true (addFields 1 0x80B)) (fun _ => (form2 tAll true (addFields 1 0x80B)).legal = false) ∧
    IssuesWith run (form2 tAll true (addFields 64 0xB)) (fun e => (form2 tAll true (addFields 64 0xB)).legal = true ∧
      e.l.regs < (addFields 64 0xB).dst.toNat + regs (addFields 64 0xB)) ∧
    IssuesWith run (formLd (mFields true 4 1 1 0)) (fun e => formTrap e (formLd (mFields true 4 1 1 0)) = none ∧
      0 ∈ e.acts (formLd (mFields true 4 1 1 0)) ∧ mAddr (mFields true 4 1 1 0) e.g 0 % mBytes (mFields true 4 1 1 0) ≠ 0) ∧
    IssuesWith (withGroup groupOne) (formUniform bare true) (fun e => formTrap e (formUniform bare true) = none ∧
      e.acts (formUniform bare true) ≠ [] ∧ e.g.active ≠ ~~~e.g.exited) ∧ ∃ u, fetchCheck (envAt run group) = .ok u :=
  ⟨issuesWith_of run_canonical (by decide +kernel),
   unmapped_issues,
   issuesWith_of run_canonical (by decide +kernel), issuesWith_of run_canonical (by decide +kernel),
   issuesWith_of run_canonical (by decide +kernel), issuesWith_of (canonical_of rfl rfl (by decide +kernel)) (by decide +kernel),
   _, fetchOk_elim (by decide +kernel)⟩

/-! ## Blocks and launches -/

/-- BlocksArePlaced: a second block on the core, of one group, and the groups of a launch of 1,024 threads and 64 uniforms. -/
theorem blocksArePlaced_met :
    (Canonical run ∧ run.launch 3 = some launch ∧ roomFor run 2 3 launch = true ∧ launch.blocksPer ≤ 32 ∧ 1 ≤ launch.groupsPer ∧
      launch.perQuad ≤ 16 ∧ (olist (run.core 2).work.groups).length + launch.groupsPer ≤ 4 * launch.perQuad ∧
      ∀ e ∈ olist (run.core 2).work.groups, e.1 < 64) ∧
    (let l : Launch := { launch with desc := at_ 1024 128 1024, uniforms := List.replicate 64 1 }
     32 * 31 < l.threads ∧ l.threads ≤ 1024 ∧ l.uniforms.length ≤ 64) :=
  ⟨⟨run_canonical, by decide +kernel, by decide +kernel, by decide +kernel, by decide +kernel, by decide +kernel, by decide +kernel,
    by decide +kernel⟩, by decide +kernel⟩

/-- The machine whose group has exited, and whose launch has retired `n` blocks. -/
def ending (n : Nat) (st : CoreStage) (saved : List CoreWork) : State :=
  let s := withGroup { group with active := 0, exited := BitVec.allOnes 32 }
  { s with
      cores := [(2, { coreWith { group with active := 0, exited := BitVec.allOnes 32 } with stage := st, saved := saved })],
      desk := { s.desk with launches := [(3, some { launch with retired := n })] } }

/-- LaunchesEnd: a block whose threads have exited, a launch whose last block has retired, a stopped core and a restored one. -/
theorem launchesEnd_met :
    (let s := ending 0 .running []
     Canonical s ∧ oget (s.core 2).work.blocks 0 = some { launch := 3, number := 0, region := 0, slots := [17] } ∧
      s.launch 3 = some launch ∧ (∀ e ∈ blockGroups s 2 0, e.2.done = true) ∧ blockGroups s 2 0 ≠ [] ∧
      (∀ i ∈ List.range 4, (s.streamer 2 i).descs = []) ∧ (s.core 2).stage = .running) ∧
    (let s := ending 4 .running []
     Canonical s ∧ s.launch 3 = some { launch with retired := 4 } ∧ launch.blocks = 4 ∧ launch.ended = false ∧ stampedLate s 9 = false ∧ ∀ a ∈ s.accesses, a.launch ≠ 3) ∧
    (let s := ending 0 .saving []
     Canonical s ∧ (s.core 2).work.launch = some 3 ∧ (s.core 2).stage = .saving ∧ drained s 2 3 = true ∧ failedGroup s 2 3 = none) ∧
    (let s := ending 0 .restoring [(coreWith group).work]
     Canonical s ∧ (s.core 2).saved = [(coreWith group).work] ∧ (coreWith group).work.launch = some 3 ∧ (s.core 2).work.launch = some 3 ∧
      s.launch 3 = some launch ∧ (s.core 2).stage = .restoring) :=
  ⟨⟨canonical_of rfl rfl (by decide +kernel), by decide +kernel, by decide +kernel, by decide +kernel, by decide +kernel, by decide +kernel,
    by decide +kernel⟩, ⟨canonical_of rfl rfl (by decide +kernel), by decide +kernel, by decide +kernel, by decide +kernel, by decide +kernel,
    by decide +kernel⟩,
   ⟨canonical_of rfl rfl (by decide +kernel), by decide +kernel, by decide +kernel, by decide +kernel, by decide +kernel⟩,
   ⟨canonical_of rfl rfl (by decide +kernel), by decide +kernel, by decide +kernel, by decide +kernel, by decide +kernel, by decide +kernel⟩⟩

end Sys2Proof.Tests
end

