-- ==== Sys2Proof/Tests/Folio.lean ====
section
/-! SUPPORT. Witnesses for the statements about the Steep boundary, Folio commands and migrations. -/

namespace Sys2Proof.Tests

-- one theorem after another: each `decide` waits for the kernel, and waiting side by side costs a thread each
set_option Elab.async false

open Machine Says

/-- `dispatchMet_of` for a machine whose DRAM lists bytes. -/
theorem dispatchMet_dram {s : State} {p : BitVec 512} {P : Fetched → Prop} (hb : Memory.wf s.dram) (hk : Memory.checksWf s.dram)
    (hc : canonicalB s = true) (hg : packetStatus (s.queue 9).cls p = Code.success)
    (hr : holds (readyPacket s 9) (fun f => decide (f = ⟨1, p, none⟩ ∧ stampedLate s 9 = false ∧ BitVec.ofNat 32 f.pos ∉ (s.queue 9).overBudget)) = true)
    (h : P ⟨1, p, none⟩) : ∃ f, f.packet = p ∧ Canonical s ∧ Dispatches s 9 (cmdOf p) f ∧ P f := by
  obtain ⟨f, hf, hp⟩ := holds_elim hr
  rw [decide_eq_true_eq] at hp
  obtain ⟨rfl, ht, ha⟩ := hp
  exact ⟨_, rfl, canonical_dram hb hk hc, ⟨hf, rfl, hg, ht, ha⟩, h⟩

/-- Context 5 is loaned and tracks dirty pages; the Folio unit is as given; a locator of host session 1 stands at 0x10100 of context 0,
with `len` units of 65,536 bytes. -/
def folio0 (q : Queue) (len : Nat) (f : Folio) : State :=
  let s := desk0 q
  { s with
      ctxs := [(0, { Ctx.fresh with state := .live }), (5, { Ctx.fresh with state := .live, tenant := 7, loaned := true, dirtyTrack := true })],
      folio := f,
      dram := { s.dram with
        bytes := [(0x30100, (3 : Byte)), (0x30105, 1), (0x30106, 1), (0x3011A, BitVec.ofNat 8 len)].filter (·.2 != 0) } }

/-- The locator. -/
def hostLoc (len : Nat) : BitVec 256 := at_ 256 0 3 ||| at_ 256 40 1 ||| at_ 256 48 1 ||| at_ 256 192 (65536 * len)

/-- A Folio command of queue 9 for context 5 with that locator. -/
def folioCmd (k : FolioKind) (len : Nat) : FolioCmd :=
  { kind := k, queue := 9, pos := 1, packet := pkt 0x4D (5 ||| 1 <<< 16) 77 0x10100 0, ctx := 5, locs := [hostLoc len] }

/-- A running command. -/
def folioRun (k : FolioKind) (len : Nat) (p : FolioPhase) : FolioRun :=
  { FolioRun.start (folioCmd k len) p 0 with freezeAt := 1000, steep := 3 }

/-- The machine in which a command runs. -/
def running (r : FolioRun) : State := folio0 (atRest .active 4 4) 9 { idle.folio with run := some r }

/-- A context that was frozen. -/
def frozen (s : State) : State :=
  { s with ctxs := [(0, { Ctx.fresh with state := .live }), (5, { Ctx.fresh with state := .frozen, tenant := 7, loaned := true, dirtyTrack := true })] }

/-- SteepBoundary: a period of 250 µs, aligned and not, with a Folio command that waits for the boundary. -/
theorem steepBoundary_met :
    ∀ a, let s := running (folioRun .write 9 .waitBoundary)
      let t : State := { s with desk := { s.desk with align := a, periodUs := 250, phaseNs := 7 } }
      Canonical t ∧ bit t.power.clocks 1 = true ∧ t.power.devState = .running ∧ t.desk.txns = [] ∧ 0 < t.desk.periodUs ∧
      t.folio.run = some (folioRun .write 9 .waitBoundary) ∧ (t.ctx 5).state = .live ∧ t.folio.thaws = [] := by
  intro a
  cases a <;> exact ⟨canonical_dram (by decide +kernel) (by decide +kernel) (by decide +kernel), by decide +kernel, by decide +kernel,
    by decide +kernel, by decide, rfl, by decide +kernel, by decide +kernel⟩

/-- FOLIO_WRITE, RECALL and FOLIO_RESTORE for context 5. -/
def writePkt : BitVec 512 := pkt 0x4D (5 ||| 1 <<< 16) 77 0x10100 0

/-- See `writePkt`. -/
def recallPkt : BitVec 512 := pkt 0x4C (5 ||| 1 <<< 16) 77 0x10100 0

/-- See `writePkt`. -/
def restorePkt : BitVec 512 := pkt 0x4E (5 ||| 1 <<< 16) 0x10100 0 0

/-- What the locator at `va` gives to the packet `p` in `s`. -/
def reads (s : State) (p : BitVec 512) (test : State → List (BitVec 256) → Bool) (f : Fetched) : Prop :=
  f.packet = p → ∃ x, deskRead (openCur s 9 f) 9 1 0x10100 32 = .ok x ∧ test x.2 (locatorsOf x.1) = true

theorem reads_of {s : State} {p : BitVec 512} {test : State → List (BitVec 256) → Bool}
    (h : okWith (deskRead (openCur s 9 ⟨1, p, none⟩) 9 1 0x10100 32) (fun u => test u.2 (locatorsOf u.1)) = true) : reads s p test ⟨1, p, none⟩ :=
  fun _ => okWith_elim h

/-- The machine in which queue 9 dispatches `p`. -/
def folioPkt (p : BitVec 512) (f : Folio) : State := folio0 (withCur .kernel p) 9 f

/-- FolioCommands, dispatch: a RECALL that goes ahead of a write, a FOLIO_WRITE, a FOLIO_RESTORE, and a refusal. -/
theorem folioCommands_dispatch_met :
    (∃ f, f.packet = recallPkt ∧ Canonical (folioPkt recallPkt { idle.folio with waiting := [folioCmd .write 9] }) ∧
      Dispatches (folioPkt recallPkt { idle.folio with waiting := [folioCmd .write 9] }) 9 (cmdOf recallPkt) f ∧
      reads (folioPkt recallPkt { idle.folio with waiting := [folioCmd .write 9] }) recallPkt
        (fun u ls => (sinkRefusal u true recallPkt (ls.headD 0)).isNone) f) ∧
    (∃ f, f.packet = writePkt ∧ Canonical (folioPkt writePkt idle.folio) ∧ Dispatches (folioPkt writePkt idle.folio) 9 (cmdOf writePkt) f ∧
      reads (folioPkt writePkt idle.folio) writePkt (fun u ls => (sinkRefusal u false writePkt (ls.headD 0)).isNone) f) ∧
    (∃ f, f.packet = restorePkt ∧ Canonical (folioPkt restorePkt idle.folio) ∧
      Dispatches (folioPkt restorePkt idle.folio) 9 (cmdOf restorePkt) f ∧
      reads (folioPkt restorePkt idle.folio) restorePkt (fun u ls => (sourceRefusal u restorePkt ls).isNone) f) ∧
    (∃ f, f.packet = writePkt ∧ Canonical (frozen (folioPkt writePkt idle.folio)) ∧
      Dispatches (frozen (folioPkt writePkt idle.folio)) 9 (cmdOf writePkt) f ∧
      reads (frozen (folioPkt writePkt idle.folio)) writePkt (fun u ls => (sinkRefusal u false writePkt (ls.headD 0)).isSome) f) := by
  refine ⟨dispatchMet_dram (by decide +kernel) (by decide +kernel) (by decide +kernel) (by decide +kernel) (by decide +kernel) (reads_of (by decide +kernel)),
    dispatchMet_dram (by decide +kernel) (by decide +kernel) (by decide +kernel) (by decide +kernel) (by decide +kernel) (reads_of (by decide +kernel)),
    dispatchMet_dram (by decide +kernel) (by decide +kernel) (by decide +kernel) (by decide +kernel) (by decide +kernel) (reads_of (by decide +kernel)),
    dispatchMet_dram (by decide +kernel) (by decide +kernel) (by decide +kernel) (by decide +kernel) (by decide +kernel) (reads_of (by decide +kernel))⟩

/-- A command at the head of the Folio queue; the digest engines belong to `h`. -/
def queued (k : FolioKind) (h : Holder) : State :=
  let s := folio0 (atRest .active 4 4) 9 { idle.folio with waiting := [folioCmd k 1, folioCmd .write 9] }
  { s with ports := { s.ports with digHolder := h } }

/-- FolioCommands, start and freeze: each kind, with its claims made and not; a freeze that ends, also for a sink that is too small. -/
theorem folioCommands_met :
    (∀ k, Canonical (queued k .none) ∧ deskUp (queued k .none) = true ∧ claimsOk (queued k .none) (folioCmd k 1) = true ∧
      ((queued k .none).ctx 5).state = .live ∧ (queued k .none).folio.thaws = []) ∧
    (Canonical (queued .write .attest) ∧ claimsOk (queued .write .attest) (folioCmd .write 1) = false) ∧
    (∀ n, n = 0 ∨ n = 200 → let r := folioRun .write n .freezing
      Canonical (running r) ∧ (running r).folio.run = some r ∧ bit (running r).power.clocks 1 = true ∧ ((running r).ctx 5).state = .live ∧
      frozenDone (running r) 5 = true) ∧
    (locLength (hostLoc 0) = 0 ∧ locLength (hostLoc 200) = 13107200) := by
  refine ⟨fun k => ?_, ⟨canonical_dram (by decide +kernel) (by decide +kernel) (by decide +kernel), by decide +kernel⟩, fun n h => ?_, by decide +kernel⟩
  · cases k <;> exact ⟨canonical_dram (by decide +kernel) (by decide +kernel) (by decide +kernel), by decide +kernel, by decide +kernel,
      by decide +kernel, by decide +kernel⟩
  · rcases h with rfl | rfl <;> exact ⟨canonical_dram (by decide +kernel) (by decide +kernel) (by decide +kernel), rfl, by decide +kernel,
      by decide +kernel, by decide +kernel⟩

/-! ## Images -/

/-- A PAGE item of context 5 and the CONTEXT item. -/
def pageItem : FolioItem := { kind := 0x10, key := 1, poison := false, digest := [], hashed := false, page := 1 }

/-- See `pageItem`. -/
def ctxItem : FolioItem := { kind := 1, key := 0, poison := false, digest := [], hashed := false, page := 0 }

/-- A digest engine that hashes two items. -/
def hashing : State :=
  let s := frozen (running { folioRun .write 9 .writing with items := [pageItem, ctxItem] })
  { s with folio := { s.folio with digests := [(23, [⟨1, [1], 0⟩, ⟨0, [2], 1⟩])] } }

/-- An image in a phase with its items hashed. -/
def imaged (k : FolioKind) (p : FolioPhase) (f : Option Status) : State :=
  frozen (running { folioRun k 9 p with items := [{ ctxItem with hashed := true }], failure := f, storedBy := [1] })

/-- FolioImages: the second of two items; a failed write and Recall; an image that is sealed; one that is stored. -/
theorem folioImages_met :
    (Canonical hashing ∧ clusterUp hashing 23 = true ∧ ((sget (fun _ => []) hashing.folio.digests 23).take 8)[1]? = some ⟨0, [2], 1⟩ ∧
      hashing.folio.run = some { folioRun .write 9 .writing with items := [pageItem, ctxItem] }) ∧
    (∀ k, Canonical (imaged k .writing (some Code.folioSinkFailed))) ∧ (∀ k, Canonical (imaged k .stored none)) ∧
    Canonical (imaged .write .writing none) ∧ bit (imaged .write .writing none).power.clocks 1 = true ∧
    (∀ p, holds (imaged .write p none).folio.run fun r =>
      r.items.all (·.hashed) && sinkDone (imaged .write p none) r && r.cmd.sink == hostLoc 9 && (locSessions r.cmd.sink).all r.storedBy.contains) := by
  refine ⟨⟨canonical_dram (by decide +kernel) (by decide +kernel) (by decide +kernel), by decide +kernel, by decide +kernel, rfl⟩, fun k => ?_, fun k => ?_,
    canonical_dram (by decide +kernel) (by decide +kernel) (by decide +kernel), by decide +kernel, fun p => ?_⟩
  · cases k <;> exact canonical_dram (by decide +kernel) (by decide +kernel) (by decide +kernel)
  · cases k <;> exact canonical_dram (by decide +kernel) (by decide +kernel) (by decide +kernel)
  · cases p <;> decide +kernel

/-! ## A chain of images -/

/-- The neutral point's encoding. -/
def neutral : List Byte := 1 :: List.replicate 56 0

/-- The seal of an empty image of tenant 7, signed with the neutral key. -/
def emptySeal : List Byte :=
  let head := leBytes 4 0x4F494C46 ++ leBytes 4 1 ++ leBytes 8 77 ++ leBytes 12 0 ++ leBytes 4 (7 * 1024) ++ List.replicate 32 0
  head ++ treeRoot head [] ++ neutral ++ List.replicate 7 0 ++ neutral ++ List.replicate 57 0

/-- A restore that has read `bs` from the start of this device's DRAM, of `len` units. -/
def restoring (len : Nat) (bs : List Byte) (p : FolioPhase) (f : Option Status) : FolioRun :=
  { folioRun .restore 9 p with
      cmd := { folioCmd .restore 9 with locs := [at_ 256 0 1 ||| at_ 256 192 (65536 * len)] }
      got := [(0, bs)].filter (·.2 != []), failure := f }

/-- The image's one unit. -/
def emptyUnit : List Byte := emptySeal ++ List.replicate 65230 0

/-- A message of the host's session. -/
def hostMsg (a : Nat) (bs : List Byte) : Msg := msg a bs

/-- The machine with host port 0 up. -/
def linkedRun (r : FolioRun) : State := linked (running r)

/-- FolioAnswers, messages: FOLIO_STORED, FOLIO_REFUSE and the last segment of a unit. -/
theorem folioAnswers_messages_met :
    (∀ r, r = folioRun .write 9 .stored ∨ r = folioRun .write 9 .writing → Canonical (linkedRun r) ∧
      Delivered (linkedRun r) (hostMsg 0 (leBytes 8 77)) false ((linkedRun r).setSession 1 (some (counted desk0.session1))) desk0.session1 ∧
      r.cmd.usesSession 1 = true ∧ leNat (leBytes 8 77) = r.cmd.folioId ∧ r.failure = none) ∧
    (let r := folioRun .restore 1 .fetching
     let m := hostMsg 57344 (List.replicate 8192 5)
     Canonical (linkedRun r) ∧ Delivered (linkedRun r) m false ((linkedRun r).setSession 1 (some (counted desk0.session1))) desk0.session1 ∧
      m.payload.length = 8192 ∧ swf (fun _ => []) r.got = true ∧ locKind (r.loc r.image) = 3 ∧ 1 ∈ locSessions (r.loc r.image) ∧
      fld m.arg0 0 48 % 8192 = 0 ∧ fld m.arg0 0 48 < locUnits (r.loc r.image) * 65536) := by
  refine ⟨fun r h => ?_, canonical_dram (by decide +kernel) (by decide +kernel) (by decide +kernel), delivered_of (by decide +kernel) rfl,
    List.length_replicate, by decide +kernel, by decide +kernel, by decide +kernel, by decide +kernel, by decide +kernel⟩
  rcases h with rfl | rfl <;> exact ⟨canonical_dram (by decide +kernel) (by decide +kernel) (by decide +kernel), delivered_of (by decide +kernel) rfl,
    by decide +kernel, by decide +kernel, by decide +kernel⟩

/-- A restore that reads again the first of `n` images, each of no units, whose ROOTs passed the checks. -/
def rereading (n : Nat) (bs : List Byte) : FolioRun :=
  let r := restoring 0 bs .reading none
  { r with cmd := { r.cmd with locs := List.replicate n (at_ 256 0 1) }, roots := [treeRoot (emptySeal.take 64) []] }

/-- FolioAnswers, restores: a failed source, a chain that a check refuses, a frozen target, a ROOT that differs, an image that is
followed by another, and an image that installs. -/
theorem folioAnswers_met :
    (∀ r, r = restoring 0 [] .fetching (some Code.folioSinkFailed) ∨ r = restoring 0 [] .fetching none ∨ r = restoring 1 [] .freezing none →
      Canonical (running r) ∧ (running r).folio.run = some r ∧ bit (running r).power.clocks 1 = true ∧
      r.cmd.kind = .restore ∧ frozenDone (running r) 5 = true ∧ ((running r).ctx 5).state = .live) ∧
    (let r := restoring 0 [] .fetching none
     r.imageGot r.image = true ∧ r.image + 1 = r.cmd.locs.length ∧ chainRefusal (running r) r = some Code.folioSignature) ∧
    (∀ r, r = rereading 1 [] ∨ r = rereading 1 emptySeal ∨ r = rereading 2 emptySeal →
      Canonical (frozen (running r)) ∧ (frozen (running r)).folio.run = some r ∧ bit (frozen (running r)).power.clocks 1 = true ∧
      r.cmd.kind = .restore ∧ r.imageGot r.image = true ∧ ((frozen (running r)).ctx 5).state = .frozen) ∧
    (restoreImage (frozen (running (rereading 1 []))) (rereading 1 []) 0).1 = false ∧
    (restoreImage (frozen (running (rereading 2 emptySeal))) (rereading 2 emptySeal) 0).1 = true ∧
    (let r := rereading 1 emptySeal
     (restoreImage (frozen (running r)) r 0).1 = true ∧ ∃ w, installState (restoreImage (frozen (running r)) r 0).2 r = .ok w) := by
  refine ⟨fun r h => ?_, by decide +kernel, fun r h => ?_, by decide +kernel, by decide +kernel, by decide +kernel, ok_of (by decide +kernel)⟩
  · rcases h with rfl | rfl | rfl <;> exact ⟨canonical_dram (by decide +kernel) (by decide +kernel) (by decide +kernel), rfl,
      by decide +kernel, rfl, by decide +kernel, by decide +kernel⟩
  · rcases h with rfl | rfl | rfl <;> exact ⟨canonical_dram (by decide +kernel) (by decide +kernel) (by decide +kernel), rfl,
      by decide +kernel, rfl, by decide +kernel, by decide +kernel⟩

/-- FolioAnswers: a chain of one image that passes every check. -/
theorem folioAnswers_chain_met :
    let r := restoring 1 emptyUnit .fetching none
    Canonical (running r) ∧ r.imageGot r.image = true ∧ r.image + 1 = r.cmd.locs.length ∧ chainRefusal (running r) r = none := by
  refine ⟨canonical_dram (by decide +kernel) (by decide +kernel) (by decide +kernel), ?_, rfl, by decide +kernel⟩
  have h : emptySeal.length = 306 := by decide +kernel
  have hu : (restoring 1 emptyUnit .fetching none).unit 0 0 = emptyUnit := by
    have hg : (restoring 1 emptyUnit .fetching none).got = [(0, emptyUnit)] := rfl
    unfold FolioRun.unit
    rw [hg, show segBytes (locKind ((restoring 1 emptyUnit .fetching none).loc 0)) = 65536 by decide +kernel]
    simp [unitBytes, gotKey, sget]
  have hl : emptyUnit.length = 65536 := by
    unfold emptyUnit
    rw [List.length_append, h, List.length_replicate]
  unfold FolioRun.imageGot
  rw [show (restoring 1 emptyUnit .fetching none).image = 0 from rfl,
    show locUnits ((restoring 1 emptyUnit .fetching none).loc 0) = 1 by decide +kernel]
  simp only [List.range_one, List.all_cons, List.all_nil, hu, hl]
  decide

/-! ## Migrations -/

/-- A fault record of page 1 of context 5, whose first waiter would fault with `info 5`. -/
def migRec (st : MigStage) : MigRec := { ctx := 5, page := 1, queue := [], first := info 5, stage := st }

/-- Connection 1,023 of session 1. -/
def conn0 : Conn :=
  { session := 1, qpn := 5, rxPsn := 9, txPsn := 0xFFFFFF, pmtu := 1024, bound := none, error := false, reqs := [], retries := 0,
    rate := 400, cnpAt := 0, cnpSent := none }

/-- A machine with record 255, whose host answers on session 1. -/
def migrating (st : MigStage) : State :=
  let s := linked (desk0 (atRest .active 4 4))
  { s with
      ctxs := [(0, { Ctx.fresh with state := .live }), (5, { Ctx.fresh with state := .live, tenant := 7, migSession := 1 })],
      xlat := { s.xlat with
        records := [(255, some (migRec st))],
        leaves := [(5, [{ va := 0x10000, size := 0, word := BitVec.ofNat 64 (1 <<< 16 ||| 0xBF) }])] },
      ports := { s.ports with conns := [(1023, some conn0)] } }

/-- ARG0 of an answer for record 255, page 1, context 5. -/
def migArg : Nat := 1 ||| 255 <<< 40 ||| 5 <<< 48

/-- The payload of MIGRATE_SUPPLY: address, key and connection. -/
def supply : List Byte := leBytes 8 0x123456789000 ++ leBytes 4 0xABCD ++ leBytes 2 1023 ++ leBytes 2 0

/-- Migrations: an answer with a connection, a refusal, and the page's arrival. -/
theorem migrations_met :
    (∀ bs, bs = supply ∨ bs = [] → let s := migrating .awaiting
      let u := s.setSession 1 (some (counted desk0.session1))
      Canonical s ∧ Delivered s (msg migArg bs) false u desk0.session1 ∧ fld (msg migArg bs).arg0 58 6 = 0 ∧
      answeredRecord u (msg migArg bs) = some 255 ∧ oget u.xlat.records 255 = some (migRec .awaiting) ∧ u.conn 1023 = some conn0 ∧
      (u.ctx (info 5).ctx).state = .live) ∧
    (supply.length = 16 ∧ leNat (sub supply 12 2) = 1023 ∧ leNat (sub supply 14 2) = 0) ∧
    (let s := migrating (.arrived (List.replicate 65536 9))
     Canonical s ∧ oget s.xlat.records 255 = some (migRec (.arrived (List.replicate 65536 9))) ∧ bit s.power.clocks 1 = true ∧
      (List.replicate 65536 (9 : Byte)).length = 65536 ∧ (findLeaf s 5 0x10000).isSome = true) := by
  refine ⟨fun bs h => ?_, by decide +kernel, canonical_of rfl rfl (by decide +kernel), rfl, by decide +kernel, List.length_replicate,
    by decide +kernel⟩
  rcases h with rfl | rfl <;> exact ⟨canonical_of rfl rfl (by decide +kernel), delivered_of (by decide +kernel) rfl, by decide +kernel,
    by decide +kernel, rfl, rfl, by decide +kernel⟩

end Sys2Proof.Tests
end

