-- ==== Sys2Proof/Tests/Sessions.lean ====
section
/-! SUPPORT. Witnesses for the statements about sessions and their requests. -/

namespace Sys2Proof.Tests

-- one theorem after another: each `decide` waits for the kernel, and waiting side by side costs a thread each
set_option Elab.async false

open Machine Says

theorem error_of {ε α : Type} [DecidableEq ε] {x : Except ε α} {e : ε}
    (h : (match x with | .error y => decide (y = e) | .ok _ => false) = true) : x = .error e := by
  cases x with
  | error y => exact congrArg _ (of_decide_eq_true h)
  | ok _ => exact Bool.noConfusion h

theorem value_of {ε α : Type} [DecidableEq α] {x : Except ε α} {v : α}
    (h : (match x with | .ok y => decide (y = v) | .error _ => false) = true) : x = .ok v := by
  cases x with
  | ok y => exact congrArg _ (of_decide_eq_true h)
  | error _ => exact Bool.noConfusion h

/-- The running device with host port 0 up. -/
def door : State := linked (desk0 Queue.disabled)

/-- A message that asks for a session. -/
def openMsg : Msg := { msg 0 [] with session := 0xFFFF }

/-- The device with sessions 0 to 254 open and one record of the allow list: every address of tenant 255, with OPERATOR. -/
def crowded : State :=
  { door with ports := { door.ports with
      sessions := (List.range 255).map fun i => (i, some desk0.session1),
      allow := [(63, at_ 256 136 255 ||| at_ 256 144 3)] } }

/-- The device with session `x` in place of session 1. -/
def withSession (x : Session) : State := { door with ports := { door.ports with sessions := [(1, some x)] } }

/-- Two messages that the host has not acknowledged, the older one resent 12 times. -/
def twoUnacked (n : Nat) : Session :=
  { desk0.session1 with
      txNext := 1, unacked := [{ OutMsg.plain 5 0 0 0 with seq := 0xFFFFFFFF }, OutMsg.plain 5 0 1 0], resends := n, backoff := 1000000, owed := 1 }

/-- A message that comes. -/
theorem comes_of {s : State} {m : Msg} {cat opens : Bool}
    (h : (portUp s m.port && decide (m.port < 2) && admits s m.port m.vlan.toNat (ownBytes m.srcIp m.payload.length) &&
      vlanOk s m cat opens && msgOk m) = true) : Comes s m cat opens := by
  simp only [Bool.and_eq_true, decide_eq_true_eq] at h
  exact ⟨h.1.1.1.1, h.1.1.1.2, h.1.1.2, h.1.2, h.2⟩

/-- Sessions: a message in order, OPEN refused without a presence window and granted to the last free number, and CLOSE. -/
theorem sessions_met :
    (∀ cat, Canonical door ∧ door.power.devState = .running ∧ 8 ≤ door.power.step ∧ Comes door (msg 0 []) cat false ∧
      sessionOf door (msg 0 []) = some desk0.session1 ∧ (msg 0 []).seq = desk0.session1.rxNext ∧ (msg 0 []).ackValid = false) ∧
    (Canonical door ∧ Comes door openMsg false true ∧ openGrant door openMsg = .error Code.presenceRequired) ∧
    (Canonical crowded ∧ Comes crowded openMsg false true ∧ openGrant crowded openMsg = .ok (255, true) ∧ freeSession crowded = some 255) ∧
    Delivered door (msg 0 []) false (door.setSession 1 (some (counted desk0.session1))) desk0.session1 := by
  refine ⟨fun cat => ?_, ⟨canonical_of rfl rfl (by decide +kernel), comes_of (by decide +kernel), error_of (by decide +kernel)⟩,
    ⟨canonical_of rfl rfl (by decide +kernel), comes_of (by decide +kernel), value_of (by decide +kernel), by decide +kernel⟩,
    delivered_of (by decide +kernel) rfl⟩
  cases cat <;> exact ⟨canonical_of rfl rfl (by decide +kernel), rfl, by decide, comes_of (by decide +kernel), by decide +kernel⟩

/-- Sessions: an ACK of both messages of the window, and each timer. -/
theorem sessions_timers_met :
    (let m := { msg 0 [] with ackValid := true, ack := 1 }
     let s := withSession (twoUnacked 11)
     Canonical s ∧ Comes s m false false ∧ sessionOf s m = some (twoUnacked 11) ∧ m.gap = false ∧
      (m.ack - ((twoUnacked 11).txNext - BitVec.ofNat 32 (twoUnacked 11).unacked.length)).toNat = 2) ∧
    (∀ n, n = 11 ∨ n = 12 → Canonical (withSession (twoUnacked n)) ∧ (withSession (twoUnacked n)).session 1 = some (twoUnacked n) ∧
      bit (withSession (twoUnacked n)).power.clocks 1 = true ∧ 0 < (twoUnacked n).owed ∧ (twoUnacked n).unacked ≠ []) := by
  refine ⟨⟨canonical_of rfl rfl (by decide +kernel), comes_of (by decide +kernel), by decide +kernel⟩, fun n h => ?_⟩
  rcases h with rfl | rfl <;> exact ⟨canonical_of rfl rfl (by decide +kernel), by decide +kernel⟩

/-! ## Requests in a session -/

/-- Queue 0 in a state, its ring of 64 packets in the page of context 0. -/
def ringQueue (st : QState) : Queue := { atRest st 2 2 with log2 := 6, retiredPos := 2 }

/-- The device with queue 0 and `n` connections, each session 1's. -/
def linkedWith (st : QState) (n : Nat) : State :=
  { door with
      desk := { door.desk with queues := [(0, ringQueue st)] },
      ports := { door.ports with conns := (List.range n).map fun i => (i, some { conn0 with bound := some 0 }) } }

/-- The payload of CONNECT: QPN, PSN and PMTU 4,096. -/
def connectArg : List Byte := [5, 0, 0, 0, 9, 0, 0, 0, 2]

/-- A map that lists the numbers from `k` on, each with `v`. -/
theorem sget_run {α : Type} (v : Option α) (m k j : Nat) :
    sget (fun _ => none) ((List.range' k m).map fun i => (i, v)) j = if k ≤ j ∧ j < k + m then v else none := by
  induction m generalizing k with
  | zero => rw [if_neg (by omega)]; rfl
  | succ m ih =>
    rw [List.range'_succ, List.map_cons]
    simp only [sget]
    rw [ih]
    split
    · subst_vars; rw [if_pos (by omega)]
    · split
      · rw [if_neg (by omega)]
      · congr 1; simp only [eq_iff_iff]; omega

theorem linkedWith_conn {st : QState} {n j : Nat} : (linkedWith st n).conn j = if j < n then some { conn0 with bound := some 0 } else none := by
  show sget (fun _ => none) ((List.range n).map fun i => (i, some { conn0 with bound := some 0 })) j = _
  rw [List.range_eq_range', sget_run]
  simp

/-- SessionRequests: COMMAND of a wrong length and of 64 packets into the empty ring. -/
theorem sessionRequests_command_met :
    (let m := msg 0 (List.replicate 4160 0)
     Canonical (linkedWith .idle 0) ∧ Delivered (linkedWith .idle 0) m false ((linkedWith .idle 0).setSession 1 (some (counted desk0.session1))) desk0.session1 ∧
      4096 < m.payload.length) ∧
    (let m := msg 0 (List.replicate 4096 1)
     let u := (linkedWith .idle 0).setSession 1 (some (counted desk0.session1))
     let q := u.queue 0
     let w := q.writePos + BitVec.ofNat 32 (m.payload.length / 64)
     Delivered (linkedWith .idle 0) m false u desk0.session1 ∧ m.arg0 = 0 ∧ m.payload.length = 4096 ∧ q.state = .idle ∧
      MayRing u 0 desk0.session1 ∧ (w - q.retiredPos).toNat = 2 ^ q.log2 ∧ (q.writePos - q.readPos).toNat < (w - q.readPos).toNat ∧
      ∃ v, writeRing u 0 m.payload = .ok v) := by
  refine ⟨⟨canonical_of rfl rfl (by decide +kernel), delivered_of (by decide +kernel) rfl, by decide +kernel⟩,
    delivered_of (by decide +kernel) rfl, by decide +kernel, by decide +kernel, by decide +kernel, by unfold MayRing; decide +kernel,
    by decide +kernel, by decide +kernel, ok_of (by decide +kernel)⟩

/-- SessionRequests: CONNECT into the first, into the last free connection and into a full table; DISCONNECT of the session's own
connection and of another's. -/
theorem sessionRequests_met :
    (∀ n, n = 0 ∨ n = 1023 ∨ n = 1024 → let s := linkedWith .idle n
      let u := s.setSession 1 (some (counted desk0.session1))
      let m := msg 4096 connectArg
      Canonical s ∧ Delivered s m false u desk0.session1 ∧ fld m.arg0 13 51 = 0 ∧ connectOk m = true ∧ bit m.arg0 12 = true ∧
      mayBind u 0 desk0.session1 = true ∧ (∀ j, j < n → u.conn j ≠ none) ∧ u.conn n = none) ∧
    (∀ k, k = 1 ∨ k = 2 → let s := linkedWith .idle 1
      let s := s.setConn 1023 (some { conn0 with session := k })
      let u := s.setSession 1 (some (counted desk0.session1))
      let m := msg 1023 []
      Canonical s ∧ Delivered s m false u desk0.session1 ∧ fld m.arg0 10 54 = 0 ∧ u.conn (fld m.arg0 0 10) = some { conn0 with session := k }) := by
  refine ⟨fun n h => ?_, fun k h => ?_⟩
  · refine ⟨?_, ?_, by decide +kernel, by decide +kernel, by decide +kernel, ?_, fun j hj => ?_, ?_⟩
    · rcases h with rfl | rfl | rfl <;> exact canonical_of rfl rfl (by decide +kernel)
    · rcases h with rfl | rfl | rfl <;> exact delivered_of (by decide +kernel) rfl
    · rcases h with rfl | rfl | rfl <;> decide +kernel
    · show (linkedWith .idle n).conn j ≠ none
      rw [linkedWith_conn, if_pos hj]; nofun
    · show (linkedWith .idle n).conn n = none
      rw [linkedWith_conn, if_neg (Nat.lt_irrefl n)]
  · rcases h with rfl | rfl <;> exact ⟨canonical_of rfl rfl (by decide +kernel), delivered_of (by decide +kernel) rfl, by decide +kernel, by decide +kernel⟩

end Sys2Proof.Tests
end

