-- ==== Sys2Proof/Tests/Catalogue.lean ====
section
/-! SUPPORT. Witnesses for the statements about the Catalogue. -/

namespace Sys2Proof.Tests

-- one theorem after another: each `decide` waits for the kernel, and waiting side by side costs a thread each
set_option Elab.async false

open Machine Says

/-- A CAT_REQUEST of the operator's session. -/
def catMsg (op i sub off : Nat) (bs : List Byte) : Msg := msg (i + sub * 2 ^ 16 + op * 2 ^ 24 + off * 2 ^ 32) bs

/-- The state in which the server performs a request. -/
def asked (s : State) : State := s.setSession 1 (some (counted desk0.session1))

/-- A test of what `Delivered` and `Canonical` ask of a machine whose DRAM lists nothing. -/
def arrives (s : State) (m : Msg) : Bool :=
  canonicalB s && s.dram.bytes.isEmpty && s.dram.checks.isEmpty && decide (m.session = 1) && deliverable s m desk0.session1 true

theorem arrives_elim {s : State} {m : Msg} (h : arrives s m = true) (hx : s.session 1 = some desk0.session1) :
    Canonical s ∧ Delivered s m true (asked s) desk0.session1 := by
  simp only [arrives, Bool.and_eq_true, decide_eq_true_eq, List.isEmpty_iff] at h
  obtain ⟨⟨⟨⟨hc, hb⟩, hk⟩, h1⟩, h2⟩ := h
  have hs : m.session.toNat = 1 := by rw [h1]; rfl
  have d := delivered_of h2 (by rw [hs]; exact hx)
  rw [hs] at d
  exact ⟨canonical_of hb hk hc, d⟩

/-- A test of the common checks of a request. -/
def requestable (s : State) (m : Msg) (row : CatRow) : Bool :=
  decide (catRowOf m = row) && fld m.arg0 28 4 == 0 && (catGate (asked s) desk0.session1 m).isNone &&
  (catOp m == 4 || !catStopped (asked s) (catIdx m))

theorem requests_of {s : State} {m : Msg} {row : CatRow} (h : (arrives s m && requestable s m row) = true)
    (hx : s.session 1 = some desk0.session1) : Canonical s ∧ Requests s m row (asked s) desk0.session1 := by
  simp only [requestable, Bool.and_eq_true, decide_eq_true_eq, Bool.or_eq_true, beq_iff_eq, Bool.not_eq_true', Option.isNone_iff_eq_none] at h
  obtain ⟨ha, ⟨⟨h1, h2⟩, h3⟩, h4⟩ := h
  obtain ⟨hc, hd⟩ := arrives_elim ha hx
  exact ⟨hc, hd, h1, h2, h3, h4⟩

theorem performs_of {s : State} {m : Msg} {row : CatRow}
    (h : (arrives s m && requestable s m row && (itemRefusal (asked s) .now (itemOf m)).isNone) = true)
    (hx : s.session 1 = some desk0.session1) : Canonical s ∧ Performs s m row (asked s) desk0.session1 := by
  rw [Bool.and_eq_true, Option.isNone_iff_eq_none] at h
  exact ⟨(requests_of h.1 hx).1, (requests_of h.1 hx).2, h.2⟩

/-- The device inside a presence window; key slot 3 is revoked, and slot 0 holds the digest of the neutral key. -/
def office : State :=
  { door with sec := { door.sec with
      presenceEnd := some 1000000000000, keyRevoked := 8, keyDigests := [shake 32 neutral, [], [], []] } }

/-- A firmware image with a body of 64 bytes, signed with the neutral key. -/
def image : List Byte :=
  leBytes 4 fwMagic ++ [1, 0, 0, 0] ++ leBytes 4 7 ++ leBytes 4 64 ++ neutral ++ List.replicate 55 0 ++ neutral ++ List.replicate 135 0

/-- An image with a valid signature is staged. -/
def staged : State := { office with sec := { office.sec with fwStage := image } }

/-! ## Requests that are performed -/

/-- The device with peer `n`, a device of tenant 7 on every peer port. -/
def peered (n : Nat) : State :=
  { office with ports := { office.ports with peers := [(n, { Peer.unused with entry := 1 ||| at_ 512 8 0xFF ||| at_ 512 16 7 })] } }

/-- A reduce-scatter plan of context 5 with peer 9 on both sides, of two positions and the largest Strainer. -/
def planWord : BitVec 1024 :=
  1 ||| at_ 1024 8 256 ||| at_ 1024 20 1 ||| at_ 1024 32 1 ||| at_ 1024 44 9 ||| at_ 1024 64 9 ||| at_ 1024 80 5 ||| at_ 1024 96 1 |||
    at_ 1024 128 0x10000 ||| at_ 1024 192 0x10080 ||| at_ 1024 256 0x20000 ||| at_ 1024 320 0x20080 ||| at_ 1024 384 0x10100

/-- The device with plan 63 in use. -/
def planned : State := { peered 9 with plans := { office.plans with plans := [(63, { Plan.unused with raw := planWord })] } }

/-- The device with a scrub period. -/
def scrubEvery (h : Nat) : State := { office with dram := { office.dram with scrubPeriodH := h } }

/-- Requests of each row that is performed at once, at the ends of their ranges. -/
def actions : List (CatRow × State × Msg) :=
  [(.write, door, catMsg 1 0x2001 9 0 (leBytes 2 9000)), (.write, door, catMsg 1 0x2107 5 0 [128]), (.write, office, catMsg 1 0xA000 3 0 [1]),
   (.write, door, catMsg 1 0x8000 0x1A 0 (List.replicate 32 255)), (.scrubPeriod, scrubEvery 0, catMsg 1 0x7800 0x0B 0 (leBytes 2 168)),
   (.scrubPeriod, scrubEvery 24, catMsg 1 0x7800 0x0B 0 (leBytes 2 0)), (.linkMode, door, catMsg 1 0x2107 1 0 [3]),
   (.ptpMode, door, catMsg 1 0x2001 0x0D 0 [2]), (.ptpMode, door, catMsg 1 0x2000 0x0D 0 [0]), (.dramClear, door, catMsg 2 0x7800 0x0D 0 []),
   (.tallyClear, door, catMsg 2 0x6000 0x0D 0 []), (.ccMaint 1, office, catMsg 2 0xA000 0x21 0 [5]),
   (.ccMaint 2, office, catMsg 2 0xA000 0x21 0 [6]), (.ccMaint 3, office, catMsg 2 0xA000 0x21 0 [7]),
   (.peerSet, door, catMsg 2 0x2110 2 0 (leBytes 2 4095 ++ leBytes 64 1)), (.planSet, peered 9, catMsg 2 0x2120 1 0 (63 :: leBytes 128 planWord.toNat)),
   (.planClear, planned, catMsg 2 0x2120 2 0 [63]), (.warmReset, door, catMsg 2 0x1100 0x0E 0 []), (.powerDown, door, catMsg 2 0x1100 0x0F 0 []),
   (.domainReset, door, catMsg 2 0x1100 0x10 0 [3]), (.domainReset, door, catMsg 2 0x1100 0x10 0 [36]), (.keyRevoke, office, catMsg 2 0x9000 9 0 [3]),
   (.fwCommit, staged, catMsg 2 0x9000 0x0B 0 [])]

/-- A test that one of them is performed. -/
def performed (e : CatRow × State × Msg) : Bool :=
  arrives e.2.1 e.2.2 && requestable e.2.1 e.2.2 e.1 && (itemRefusal (asked e.2.1) .now (itemOf e.2.2)).isNone &&
  decide (e.2.1.session 1 = some desk0.session1)

/-- CatalogueWrites and CatalogueActions: every row that is performed at once. -/
theorem performs_met : ∀ e ∈ actions, Canonical e.2.1 ∧ Performs e.2.1 e.2.2 e.1 (asked e.2.1) desk0.session1 := by
  intro e he
  have h : actions.all performed = true := by decide +kernel
  have h := List.all_eq_true.1 h e he
  simp only [performed, Bool.and_eq_true, decide_eq_true_eq] at h
  exact performs_of (by simp only [Bool.and_eq_true]; exact h.1) h.2

/-- CatalogueWrites and CatalogueActions: what their clauses ask besides. -/
theorem actions_met :
    (∀ e ∈ actions, (∀ k, ((asked e.2.1).cluster k).evict.length ≤ 32) ∧ (asked e.2.1).desk.txns = [] ∧ bit e.2.1.power.clocks 1 = true) ∧
    (∀ e ∈ actions, e.1 = .write → ∃ y, catEntry (asked e.2.1) (catIdx e.2.2) (catSub e.2.2) = some y ∧
      decide ((y.acc = .rw ∨ y.acc = .rwp) ∧ catIdx e.2.2 ≠ 0x2800 ∧ ¬ (catIdx e.2.2 = 0xA000 ∧ catSub e.2.2 = 0x20) ∧
        ownSegments (asked e.2.1) e.2.2 = false) = true) := by
  have h : actions.all (fun e => e.2.1.clusters.isEmpty && decide ((asked e.2.1).desk.txns = [] ∧ bit e.2.1.power.clocks 1 = true) &&
      (e.1 != .write || holds (catEntry (asked e.2.1) (catIdx e.2.2) (catSub e.2.2)) fun y =>
        decide ((y.acc = .rw ∨ y.acc = .rwp) ∧ catIdx e.2.2 ≠ 0x2800 ∧ ¬ (catIdx e.2.2 = 0xA000 ∧ catSub e.2.2 = 0x20) ∧
          ownSegments (asked e.2.1) e.2.2 = false))) = true := by decide +kernel
  refine ⟨fun e he => ?_, fun e he hw => ?_⟩ <;> have h := List.all_eq_true.1 h e he <;>
    simp only [Bool.and_eq_true, Bool.or_eq_true, List.isEmpty_iff] at h
  · refine ⟨fun k => ?_, by simpa using h.1.2⟩
    show (sget _ e.2.1.clusters k).evict.length ≤ 32
    rw [h.1.1]
    exact Nat.zero_le 32
  · rcases h.2 with h | h
    · rw [hw] at h; exact absurd h (by decide)
    · exact holds_elim h

/-- A walk of every cache that CC_MAINT started. -/
def ccWalk (op : Nat) : CcWalk := { op := op, l1 := true, next := 0, owner := none }

/-- The device with that walk, a dirty line and an eviction. -/
def maintaining (op : Nat) : State :=
  { door with power := { door.power with ccMaint := [ccWalk op] }, clusters := [(0, { cached with evict := evicting.evict })] }

/-- CatalogueActions: the end of a walk that cleans, that invalidates, and that does both. -/
theorem ccMaintComplete_met : ∀ op, op = 1 ∨ op = 2 ∨ op = 3 → Canonical (maintaining op) ∧ bit (maintaining op).power.clocks 1 = true ∧
    ((maintaining op).power.ccMaint.find? fun w => w.owner.isNone) = some (ccWalk op) ∧
    ∀ k ∈ List.range 24, ((maintaining op).cluster k).evict.length ≤ 32 := by
  intro op h
  rcases h with rfl | rfl | rfl <;>
    exact ⟨canonical_of rfl rfl (by decide +kernel), by decide +kernel, by decide +kernel, by decide +kernel⟩

/-! ## Requests that are refused, reads -/

/-- A session without OPERATOR. -/
def guestSession : Session := { desk0.session1 with operator := false }

/-- The device with that session. -/
def guest : State := withSession guestSession

/-- A request of each row. -/
def sample : CatRow → Msg
  | .read => catMsg 0 0x2000 1 0 []
  | .write => catMsg 1 0x2000 9 0 [0, 6]
  | .describe => catMsg 3 0x2000 1 0 []
  | .txn => catMsg 4 0 0 0 []
  | .segment => { catMsg 5 0x9000 0x0A 0 [] with more := true }
  | .lastSegment => catMsg 5 0x9000 0x0A 0 [1]
  | .scrubPeriod => catMsg 1 0x7800 0x0B 0 [24, 0]
  | .carrel => catMsg 1 0x400F 4 0 [0, 1, 0, 0]
  | .steepAlign => catMsg 1 0x3010 1 0 [1]
  | .linkMode => catMsg 1 0x2107 1 0 [3]
  | .ptpMode => catMsg 1 0x2001 0x0D 0 [2]
  | .dramClear => catMsg 2 0x7800 0x0D 0 []
  | .tallyClear => catMsg 2 0x6000 0x0D 0 []
  | .ccMaint op => catMsg 2 0xA000 0x21 0 [BitVec.ofNat 8 op]
  | .peerSet => catMsg 2 0x2110 2 0 []
  | .planSet => catMsg 2 0x2120 1 0 []
  | .planClear => catMsg 2 0x2120 2 0 [63]
  | .warmReset => catMsg 2 0x1100 0x0E 0 []
  | .powerDown => catMsg 2 0x1100 0x0F 0 []
  | .domainReset => catMsg 2 0x1100 0x10 0 [3]
  | .keyRevoke => catMsg 2 0x9000 9 0 [3]
  | .fwCommit => catMsg 2 0x9000 0x0B 0 []
  | .attest => catMsg 2 0x9000 0x0D 0 []

/-- CatalogueReads: a session without OPERATOR asks for each row. -/
theorem catalogueReads_gate_met : ∀ p ∈ catCommands,
    Canonical guest ∧ Delivered guest (sample p.2) true (guest.setSession 1 (some (counted guestSession))) guestSession ∧
    catRowOf (sample p.2) = p.2 ∧ fld (sample p.2).arg0 28 4 = 0 ∧
    catGate (guest.setSession 1 (some (counted guestSession))) guestSession (sample p.2) = some Code.accessDenied := by
  intro p hp
  have h : (catCommands.map (·.2)).all (fun r => decide ((sample r).session = 1) && deliverable guest (sample r) guestSession true &&
      decide (catRowOf (sample r) = r ∧ fld (sample r).arg0 28 4 = 0 ∧
        catGate (guest.setSession 1 (some (counted guestSession))) guestSession (sample r) = some Code.accessDenied)) = true := by decide +kernel
  have h := List.all_eq_true.1 h p.2 (List.mem_map_of_mem hp)
  rw [Bool.and_eq_true, Bool.and_eq_true, decide_eq_true_eq, decide_eq_true_eq] at h
  have hs : (sample p.2).session.toNat = 1 := by rw [h.1.1]; rfl
  have d := delivered_of h.1.2 (by rw [hs]; rfl)
  rw [hs] at d
  exact ⟨canonical_of rfl rfl (by decide +kernel), d, h.2⟩

/-- CatalogueReads: an action's entry, a whole entry, an offset at the end of an empty one and one beyond it, DESCRIBE of the last
context's record, and ATTEST with the shortest and the longest nonce, with the digest engines free and held. -/
theorem catalogueReads_met :
    (∀ m, m = catMsg 0 0x1100 0x0E 0 [] ∨ m = catMsg 0 0x1000 1 0 [] ∨ m = catMsg 0 0x9000 0x0A 0 [] ∨ m = catMsg 0 0x9000 0x0A 8192 [] →
      Canonical door ∧ Requests door m .read (asked door) desk0.session1 ∧ ∃ e, catEntry (asked door) (catIdx m) (catSub m) = some e) ∧
    (∃ e, catEntry (asked door) 0x9000 0x0A = some e ∧ (catValue (asked door) 0x9000 e == []) = true) ∧
    (let m := catMsg 3 0x53FF 0x0A 0 []
     Canonical door ∧ Requests door m .describe (asked door) desk0.session1 ∧ ∃ e, catEntry (asked door) (catIdx m) (catSub m) = some e) ∧
    (∀ n, n = 32 ∨ n = 64 → ∀ h, h = Holder.none ∨ h = Holder.folio → let s : State := { door with ports := { door.ports with digHolder := h } }
      let m := catMsg 2 0x9000 0x0D 0 (List.replicate n 7)
      Canonical s ∧ Requests s m .attest (asked s) desk0.session1 ∧ m.payload.length = n ∧ (asked s).ports.digHolder = h) ∧
    (∀ k ∈ [(0x1000, 1), (0x1100, 1), (0x3000, 1), (0x7000, 1), (0x7800, 6), (0x5000, 0x0A), (0x53FF, 0x0A)],
      ∃ e, catEntry door k.1 k.2 = some e) := by
  refine ⟨fun m h => ?_, holds_elim (by decide +kernel), ?_, fun n h k hk => ?_, ?_⟩
  · have key : (arrives door m && requestable door m .read) = true ∧ (catEntry (asked door) (catIdx m) (catSub m)).isSome = true := by
      rcases h with rfl | rfl | rfl | rfl <;> decide +kernel
    exact ⟨(requests_of key.1 rfl).1, (requests_of key.1 rfl).2, Option.isSome_iff_exists.1 key.2⟩
  · exact ⟨canonical_of rfl rfl (by decide +kernel), (requests_of (by decide +kernel) rfl).2, Option.isSome_iff_exists.1 (by decide +kernel)⟩
  · have key : (arrives { door with ports := { door.ports with digHolder := k } } (catMsg 2 0x9000 0x0D 0 (List.replicate n 7)) &&
        requestable { door with ports := { door.ports with digHolder := k } } (catMsg 2 0x9000 0x0D 0 (List.replicate n 7)) .attest) = true := by
      rcases h with rfl | rfl <;> rcases hk with rfl | rfl <;> decide +kernel
    exact ⟨(requests_of key rfl).1, (requests_of key rfl).2, List.length_replicate, rfl⟩
  · intro k hk
    have h : [(0x1000, 1), (0x1100, 1), (0x3000, 1), (0x7000, 1), (0x7800, 6), (0x5000, 0x0A), (0x53FF, 0x0A)].all
        (fun k => (catEntry door k.1 k.2).isSome) = true := by decide +kernel
    exact Option.isSome_iff_exists.1 (List.all_eq_true.1 h k hk)

/-! ## Stamped writes, transactions, segments -/

/-- An item's bytes in a TXN. -/
def item (i sub op : Nat) (v : List Byte) : List Byte :=
  leBytes 2 i ++ leBytes 1 sub ++ leBytes 1 op ++ leBytes 2 v.length ++ [0, 0] ++ v ++ List.replicate (8 * cdiv v.length 8 - v.length) 0

/-- A TXN of 64 items, the last as given. -/
def txnMsg (last : List Byte) : Msg :=
  catMsg 4 0 0 0 ((List.range 63).flatMap (fun _ => item 0x2000 5 1 [128]) ++ last)

/-- The device with a firmware image staged up to byte `n`. -/
def segmented (n : Nat) : State := { office with sec := { office.sec with fwSeg := some (1, List.replicate n 0) } }

/-- The device with the first 8,192 bytes of an image of 8,256 bytes staged. -/
def halfStaged : State := { office with sec := { office.sec with fwSeg := some (1, firstHalf) } }
where
  /-- The header and the body's first bytes. -/
  firstHalf : List Byte := leBytes 4 fwMagic ++ [1, 0, 0, 0] ++ leBytes 4 7 ++ leBytes 4 8000 ++ List.replicate 8176 0

/-- CatalogueWrites: a value out of range, and stamped writes of each row. -/
theorem catalogueWrites_met :
    (let m := catMsg 1 0x2000 5 0 [129]
     Canonical door ∧ Requests door m .write (asked door) desk0.session1 ∧ itemRefusal (asked door) .now (itemOf m) = some Code.valueOutOfRange ∧
      namesRws (asked door) m = false ∧ ownSegments (asked door) m = false) ∧
    (let m := catMsg 1 0x3010 2 0 (leBytes 4 1000000)
     Requests door m .write (asked door) desk0.session1 ∧ namesRws (asked door) m = true ∧ ownSegments (asked door) m = false ∧
      ∃ v, acceptItems (asked door) m [itemOf m] = .ok v) ∧
    (let m := catMsg 1 0x400F 4 0 (leBytes 4 65536)
     Requests door m .carrel (asked door) desk0.session1 ∧ ∃ v, acceptItems (asked door) m [itemOf m] = .ok v) ∧
    (let m := catMsg 1 0x3010 1 0 [1]
     Requests door m .steepAlign (asked door) desk0.session1 ∧ ∃ v, acceptItems (asked door) m [itemOf m] = .ok v) :=
  ⟨⟨canonical_of rfl rfl (by decide +kernel), (requests_of (by decide +kernel) rfl).2, by decide +kernel⟩,
   ⟨(requests_of (by decide +kernel) rfl).2, by decide +kernel, by decide +kernel, ok_of (by decide +kernel)⟩,
   ⟨(requests_of (by decide +kernel) rfl).2, ok_of (by decide +kernel)⟩, (requests_of (by decide +kernel) rfl).2, ok_of (by decide +kernel)⟩

/-- CatalogueWrites: a TXN of 64 items. -/
theorem catalogueWrites_txn_met :
    Requests door (txnMsg (item 0x3010 5 1 [255, 255])) .txn (asked door) desk0.session1 ∧
    (parseItems 64 (txnMsg (item 0x3010 5 1 [255, 255])).payload).2 = true ∧
    (parseItems 64 (txnMsg (item 0x3010 5 1 [255, 255])).payload).1.length = 64 :=
  ⟨(requests_of (by decide +kernel) rfl).2, by decide +kernel, by decide +kernel⟩

/-- CatalogueWrites: that TXN is accepted, and one whose last value is out of range is not. -/
theorem catalogueWrites_items_met :
    (∃ v, acceptItems (asked door) (txnMsg (item 0x3010 5 1 [255, 255])) (parseItems 64 (txnMsg (item 0x3010 5 1 [255, 255])).payload).1 = .ok v) ∧
    Requests door (txnMsg (item 0x3010 5 1 [0, 0])) .txn (asked door) desk0.session1 ∧
    acceptItems (asked door) (txnMsg (item 0x3010 5 1 [0, 0])) (parseItems 64 (txnMsg (item 0x3010 5 1 [0, 0])).payload).1 =
      .error (63, Code.valueOutOfRange) :=
  ⟨ok_of (by decide +kernel), (requests_of (by decide +kernel) rfl).2, error_of (by decide +kernel)⟩

/-- CatalogueWrites: the first and a later segment, and a last one that completes an image. -/
theorem catalogueWrites_segments_met :
    (let m := { catMsg 5 0x9000 0x0A 0 (List.replicate 8192 1) with more := true }
     Canonical office ∧ Requests office m .segment (asked office) desk0.session1 ∧ (asked office).sec.commit = none ∧
      (asked office).sec.fwSeg = none ∧ catOff m = 0 ∧ m.payload.length = 8192) ∧
    (let m := { catMsg 5 0x9000 0x0A 8192 (List.replicate 8192 1) with more := true }
     Canonical (segmented 8192) ∧ Requests (segmented 8192) m .segment (asked (segmented 8192)) desk0.session1 ∧
      (asked (segmented 8192)).sec.fwSeg = some (m.session.toNat, List.replicate 8192 0) ∧ catOff m = 8192) ∧
    (let m := catMsg 5 0x9000 0x0A 8192 (List.replicate 64 1)
     let u := asked halfStaged
     let img := halfStaged.firstHalf ++ m.payload
     Canonical halfStaged ∧ Requests halfStaged m .lastSegment u desk0.session1 ∧ u.sec.fwSeg = some (m.session.toNat, halfStaged.firstHalf) ∧
      catOff m = halfStaged.firstHalf.length ∧ presenceOpen u = true ∧ imgMagicOk img = true ∧ img.length = 256 + imgBody img) := by
  refine ⟨⟨canonical_of rfl rfl (by decide +kernel), (requests_of (by decide +kernel) rfl).2, rfl, rfl, by decide +kernel, List.length_replicate⟩,
    ⟨canonical_of rfl rfl (by decide +kernel), (requests_of (by decide +kernel) rfl).2, rfl, by decide +kernel⟩,
    canonical_of rfl rfl (by decide +kernel), (requests_of (by decide +kernel) rfl).2, rfl, by decide +kernel, by decide +kernel, by decide +kernel,
    by decide +kernel⟩

end Sys2Proof.Tests
end

