-- ==== Sys2Proof/Tests/Reset.lean ====
section
/-! SUPPORT. Witnesses for the statements about start-up, resets and pins. -/

namespace Sys2Proof.Tests

-- one theorem after another: each `decide` waits for the kernel, and waiting side by side costs a thread each
set_option Elab.async false

open Machine Says

/-- The device in start-up after step `k`, with `fl` in flash; `m` says that DRAM has been cleared since the cold reset. -/
def startAt (k : Nat) (m : Bool) (fl : List Byte) : State :=
  { office with
      power := { office.power with devState := .starting, step := k, memReady := m, stepDone := [] },
      sec := { office.sec with flash := fl },
      ctxs := [], xlat := Xlat.reset, hub := SyncHub.reset }

/-- The state of a flash that holds the image with more bytes behind it. -/
def flashed : List Byte := image ++ [255, 255]

/-- StartUp: PORST_N asserted and released, and every step from which a clause starts; an image that passes and one that does not. -/
theorem startUp_met :
    idle.power.porstLow = false ∧ State.reset.power.porstLow = true ∧
    (∀ k m, k ≤ 8 → 1 ≤ k → Canonical (startAt k m flashed) ∧ startupRuns (startAt k m flashed) = true ∧ (startAt k m flashed).desk.txns = []) ∧
    (let s := startAt 5 true flashed
     flashImage s.sec.flash = image ∧ verifyImage s.sec image = Code.success) ∧
    verifyImage (startAt 5 true []).sec (flashImage []) = Code.fwFormat := by
  refine ⟨rfl, rfl, fun k m hk h1 => ?_, ⟨by decide +kernel, by decide +kernel⟩, by decide +kernel⟩
  have key : ∀ k, k ≤ 8 → ∀ m, 1 ≤ k → canonicalB (startAt k m flashed) = true ∧ startupRuns (startAt k m flashed) = true := by decide +kernel
  exact ⟨canonical_of rfl rfl (key k hk m h1).1, (key k hk m h1).2, rfl⟩

/-- The device that is stopping. -/
def stopping : State := { door with power := { door.power with devState := .stopping } }

/-- The device with a domain reset owed to session 1. -/
def resetting (d : Nat) : State := { door with power := { door.power with resets := [⟨d, 1, 77, true⟩] } }

/-- The device while a commit runs, as the staged image and `held` say. -/
def committing (img : List Byte) : State :=
  { office with sec := { office.sec with fwStage := img, flash := List.replicate 400 9, commit := some (1, 77) } }

/-- ResetsAndPins: resets by pin and by message, a power-down's end, and a commit's end with an image that passes and one that does not. -/
theorem resetsAndPins_met :
    (Canonical door ∧ warmIgnored door = false ∧ door.sec.commit = none) ∧
    (Canonical (committing image) ∧ warmIgnored (committing image) = false ∧ (committing image).sec.commit ≠ none) ∧
    (Canonical stopping ∧ stopping.power.clocks ≠ 1 ∧ writesPending stopping = false ∧ ∀ k, (stopping.cluster k).evict.length ≤ 32) ∧
    (∀ d, d = 3 ∨ d = 26 ∨ d = 27 ∨ d = 36 → Canonical (resetting d) ∧ ((resetting d).power.resets.find? fun x => x.dom == d) = some ⟨d, 1, 77, true⟩ ∧
      bit (resetting d).power.clocks 1 = true ∧ (d < 27 → domainIdle (resetting d) d = true) ∧ (resetting d).session 1 ≠ none) ∧
    (∀ img, img = image ∨ img = [] → Canonical (committing img) ∧ bit (committing img).power.clocks 1 = true ∧
      (committing img).power.warmHeld = false ∧ (committing img).power.devState = .running) ∧
    verifyImage (committing image).sec (committing image).sec.fwStage = Code.success := by
  refine ⟨⟨canonical_of rfl rfl (by decide +kernel), by decide +kernel⟩, ⟨canonical_of rfl rfl (by decide +kernel), by decide +kernel⟩,
    ⟨canonical_of rfl rfl (by decide +kernel), by decide +kernel, by decide +kernel, fun _ => Nat.zero_le 32⟩, fun d h => ?_, fun img h => ?_, by decide +kernel⟩
  · rcases h with rfl | rfl | rfl | rfl <;> exact ⟨canonical_of rfl rfl (by decide +kernel), by decide +kernel⟩
  · rcases h with rfl | rfl <;> exact ⟨canonical_of rfl rfl (by decide +kernel), by decide +kernel⟩

/-- The device whose tamper loop has mismatched three times, with JTAG locked or not. -/
def tampered (unlock : Nat) : State := { office with sec := { office.sec with mismatches := 3, jtagUnlock := unlock } }

/-- The device without reference clock `n`. -/
def unclocked (n : Nat) : State := { door with power := { door.power with ethRef := setBit 3 n false } }

/-- ResetsAndPins: the presence window, the tamper loop, JTAG and the reference clocks. -/
theorem resetsAndPins_pins_met :
    (aonUp office = true ∧ office.sec.sealBroken = false ∧ office.sec.presenceEnd = some 1000000000000 ∧ presenceOpen office = true) ∧
    (aonUp (tampered 0) = true ∧ 3 ≤ (tampered 0).sec.mismatches ∧ (tampered 0).sec.jtagUnlock ≠ 1 ∧ (tampered 1).sec.jtagUnlock = 1) ∧
    Canonical door ∧
    (∀ n, n < 2 → Canonical (unclocked n) ∧ bit (unclocked n).power.ethRef n = false ∧ bit (unclocked n).power.clocks 1 = true) := by
  refine ⟨by decide +kernel, by decide +kernel, canonical_of rfl rfl (by decide +kernel), fun n h => ?_⟩
  have key : ∀ n, n < 2 → canonicalB (unclocked n) = true ∧ bit (unclocked n).power.ethRef n = false ∧ bit (unclocked n).power.clocks 1 = true := by
    decide +kernel
  exact ⟨canonical_of rfl rfl (key n h).1, (key n h).2⟩

end Sys2Proof.Tests
end

