-- ==== Sys2Proof/Tests/Net.lean ====
section
/-! SUPPORT. Witnesses for the statements about the RoCEv2 subset, the ports, the peer transport and the plan engines. -/

namespace Sys2Proof.Tests

-- one theorem after another: each `decide` waits for the kernel, and waiting side by side costs a thread each
set_option Elab.async false

open Machine Says

/-! ## RoCEv2 -/

/-- The device with connection 1,023 as `c`. -/
def wired (c : Conn) : State := (linkedWith .active 0).setConn 1023 (some c)

/-- A packet on that connection for virtual address 0x10000 of context 0, with an R_Key of tag `key`. -/
def packet (key len : Nat) (bs : List Byte) : RocePacket :=
  { port := 0, conn := 1023, psn := 9, va := 0x10000, rkey := BitVec.ofNat 32 key, length := len, syndrome := 0, marked := true, vlan := 0,
    payload := bs }

/-- The connection bound to queue 0. -/
def bound0 : Conn := { conn0 with bound := some 0 }

/-- A packet of a connection of session 1 comes on host port 0, whatever it carries. -/
theorem roceComes_of {s : State} {p : RocePacket} {ext : Nat} {c : Conn} (hc : s.conn p.conn = some c)
    (hs : s.session c.session = some desk0.session1) (hq : s.port 0 = door.port 0) (hw : s.power = idle.power) (hp : p.port = 0)
    (hv : p.vlan = 0) (hm : c.pmtu = 1024) (he : ext ≤ 16) (hg : c.error = false) : RoceComes s p ext c desk0.session1 := by
  have h1 : portUp door 0 = true := by decide +kernel
  have h2 : (0 == (door.port 0).vlan || 0 == (door.port 0).mgmtVlan) = true ∧ (door.port 0).mtu = 9000 := by decide +kernel
  have h3 : ipHeader desk0.session1.ip = 40 := by decide +kernel
  have hl : linkUp s 0 = linkUp door 0 := by unfold linkUp; rw [hq, hw]; rfl
  have hrun : s.power.devState = .running := by rw [hw]; rfl
  have hstep : s.power.step = 9 := by rw [hw]; rfl
  refine ⟨hc, hs, ?_, by rw [hp]; decide, ?_, by rw [hp]; rfl, hg⟩
  · rw [hp]
    unfold portUp at h1 ⊢
    rw [hl, hw]
    exact h1
  · rw [hp, hv, hm]
    unfold admits vlansOf
    rw [hrun, hq]
    simp only [reduceCtorEq, if_false, Bool.and_eq_true, decide_eq_true_eq]
    refine ⟨h2.1, ?_⟩
    rw [h2.2]
    unfold roceBytes cdiv
    rw [h3]
    have : Nat.min p.payload.length 1024 ≤ 1024 := Nat.min_le_right _ _
    omega

theorem wired_comes {c : Conn} {p : RocePacket} {ext : Nat} (hc : c.session = 1) (he : c.error = false) (hn : p.conn = 1023) (hp : p.port = 0)
    (hv : p.vlan = 0) (hm : c.pmtu = 1024) (hx : ext ≤ 16) : RoceComes (wired c) p ext c desk0.session1 :=
  roceComes_of (by rw [hn]; rfl) (by rw [hc]; rfl) rfl rfl hp hv hm hx he

/-- RoceRequests, requests: a write of two packets, a read of no bytes and of 4,097, a SEND, and those without right. -/
theorem roceRequests_met :
    Canonical (wired conn0) ∧ Canonical (wired bound0) ∧
    (∀ key n, RoceInOrder (wired conn0) (packet key n []) 16 conn0 desk0.session1) ∧
    (RoceInOrder (wired conn0) (packet 0 0 []) 0 conn0 desk0.session1) ∧
    (∀ ext bs, ext ≤ 16 → RoceInOrder (wired bound0) (packet 0 bs.length bs) ext bound0 desk0.session1) ∧
    keyOk (wired conn0) desk0.session1 0 = true ∧ keyOk (wired conn0) desk0.session1 1 = false ∧ keyOk (wired bound0) desk0.session1 0 = true ∧
    (∃ v, virtWrite (congested (wired bound0) (packet 0 1025 (List.replicate 1025 7))) (.port 0) (keyCtx 0) 0x10000 (List.replicate 1025 7)
      hostMayUse = .ok v) ∧
    (∀ n, n = 0 ∨ n = 4097 → ∃ g, virtRead (congested (wired conn0) (packet 0 n [])) (.port 0) (keyCtx 0) 0x10000 n hostMayUse = .ok g) ∧
    (∃ v, submit (congested (wired bound0) (packet 0 64 (List.replicate 64 0))) 0 (List.replicate 64 0) 0 true = .ok v) ∧
    bound0.bound = some 0 ∧ conn0.bound = none ∧ conn0.reqs = [] := by
  refine ⟨canonical_of rfl rfl (by decide +kernel), canonical_of rfl rfl (by decide +kernel),
    fun _ _ => ⟨wired_comes rfl rfl rfl rfl rfl rfl (by decide), rfl, rfl⟩, ⟨wired_comes rfl rfl rfl rfl rfl rfl (by decide), rfl, rfl⟩,
    fun _ _ h => ⟨wired_comes rfl rfl rfl rfl rfl rfl h, rfl, rfl⟩, by decide +kernel, by decide +kernel, by decide +kernel,
    ok_of (by decide +kernel), fun n h => ?_, ok_of (by decide +kernel), rfl, rfl, rfl⟩
  rcases h with rfl | rfl <;> exact ok_of (by decide +kernel)

/-- RoceRequests, congestion: a marked packet 50 µs after the last CNP, one a nanosecond earlier, and one without the mark. -/
theorem roceRequests_congestion_met :
    let c := fun t => { conn0 with cnpSent := some t }
    let due := fun (s : State) (p : RocePacket) (c : Conn) => p.marked && c.cnpSent.all fun t => decide (t + 50000 ≤ s.power.now)
    let at_ := fun t => let s := wired (c t); { s with power := { s.power with now := 50000 } }
    (∀ t, t = 0 ∨ t = 1 → roceHears (at_ t) (packet 0 0 []) = some (c t)) ∧ due (at_ 0) (packet 0 0 []) (c 0) = true ∧
      due (at_ 1) (packet 0 0 []) (c 1) = false ∧ due (at_ 0) { packet 0 0 [] with marked := false } (c 0) = false := by
  refine ⟨?_, rfl, rfl, rfl⟩
  rintro t (rfl | rfl) <;> decide +kernel

/-- RoceRequests, order: a packet as far ahead of its turn as a sequence NAK reaches. -/
theorem roceRequests_order_met :
    let p := { packet 0 0 [] with psn := 9 + 0x7FFFFF }
    Canonical (wired conn0) ∧ (wired conn0).power.devState = .running ∧ p.psn ≠ conn0.rxPsn ∧ (p.psn - conn0.rxPsn).toNat < 2 ^ 23 ∧
      ∀ ext, ext = 16 ∨ ext = 0 → RoceComes (wired conn0) p ext conn0 desk0.session1 :=
  ⟨canonical_of rfl rfl (by decide +kernel), rfl, by decide, by decide, fun _ h => wired_comes rfl rfl rfl rfl rfl rfl (by omega)⟩

/-- A remote store in flight on the connection. -/
def roceStore : Access := { acc .store (.remote 9) 4 8 [⟨0, 0x100, 0x10000, 5, 0⟩] with stage := .sent 0 }

/-- Requests of the device: a write for that store, or a read for migration record 255. -/
def roceReq (w : Bool) : RdmaReq :=
  { psn := 0xFFFFFF, write := w, va := 0x1000, rkey := 3, length := if w then 4 else 65536, data := if w then [5, 0, 0, 0] else [],
    use := if w then .access 4 else .migration 255, sent := true }

/-- The connection with one of them. -/
def askedConn (w : Bool) (n : Nat) : Conn := { conn0 with reqs := [roceReq w], retries := n }

/-- The group's machine with host port 0 up, session 1 and that connection. -/
def asking (w : Bool) (n : Nat) : State :=
  { withAcc roceStore with
      ports := { door.ports with conns := [(1023, some (askedConn w n))] },
      xlat := { run.xlat with records := [(255, some (migRec (.reading 1023)))] } }

/-- RoceRequests, answers: an acknowledgement, a page's response, a sequence NAK and another, and the two timers. -/
theorem roceRequests_answers_met : ∀ w n, n = 6 ∨ n = 7 →
    Canonical (asking w n) ∧ (∀ bs, RoceComes (asking w n) { packet 0 0 bs with psn := 0xFFFFFF } 4 (askedConn w n) desk0.session1) ∧
    (asking w n).conn 1023 = some (askedConn w n) ∧ (askedConn w n).error = false ∧ (∃ r ∈ (askedConn w n).reqs, r.sent = true) ∧
    bit (asking w n).power.clocks 1 = true ∧ oget (asking w n).xlat.records 255 = some (migRec (.reading 1023)) ∧
    (ackedWrites 1024 0xFFFFFF (askedConn true n).reqs).length = 1 ∧
    (let r := roceReq false
     (askedConn false n).reqs = [r] ∧ r.write = false ∧ r.sent = true ∧ r.psn = 0xFFFFFF ∧ r.length = (List.replicate 65536 (0 : Byte)).length ∧
      r.use = .migration 255) := by
  intro w n h
  refine ⟨?_, fun bs => roceComes_of rfl rfl rfl rfl rfl rfl rfl (by decide) rfl, rfl, rfl, ⟨roceReq w, List.mem_singleton.2 rfl, rfl⟩,
    (by decide +kernel : bit run.power.clocks 1 = true), rfl, ?_, rfl, rfl, rfl, rfl, ?_, rfl⟩
  · cases w <;> rcases h with rfl | rfl <;> exact canonical_of rfl rfl (by decide +kernel)
  · rcases h with rfl | rfl <;> decide +kernel
  · rw [List.length_replicate]; rfl

/-! ## Ports -/

/-- The device with every port up, port 9 as given. -/
def portsUp (p : Port) : State :=
  { door with ports := { door.ports with
      ports := (List.range 9).map (fun k => (k, { Port.reset k with linkState := 2 })) ++ [(9, { p with linkState := 2 })], ptpPort := some 1 } }

/-- Port 9 with priority 7 paused, the address of the next hop resolved. -/
def pausing : Port := { Port.reset 9 with paused := [(7, 50000000)], ip := 5, pfxLen := 64, resolved := [(6, 1)] }

/-- The machine with an echo that waits for port 9, whose link is down. -/
def waitingFrame : State :=
  let s := portsUp pausing
  { s with ports := { s.ports with ports := (List.range 9).map (fun k => (k, { Port.reset k with linkState := 2 })) ++ [(9, pausing)],
                                   held := [.echo 9 6 [1, 2]] } }

/-- The machine of a PTP slave on port 1 that awaits the rest of an exchange. -/
def ptpSlave (m : Nat) (y : Option PtpSync) : State :=
  let s := (portsUp pausing).modPort 1 fun x => { x with ptpMode := m }
  { s with ports := { s.ports with ptpSync := y } }

/-- PortFrames: each clause on a host port or on the last peer port. -/
theorem portFrames_met :
    Canonical (portsUp pausing) ∧
    (∀ p, p < 10 → portUp (portsUp pausing) p = true ∧ admits (portsUp pausing) p 0 60 = true ∧ bit (portsUp pausing).power.clocks (27 + p) = true ∧
      admits (portsUp pausing) p 4095 0 = false ∧ ((portsUp pausing).port p).mtu < 9001) ∧
    sget (fun _ => 0) ((portsUp pausing).port 9).paused 7 = 50000000 ∧ ownIp (portsUp pausing) 9 = some 5 ∧ ownIp (portsUp pausing) 8 ≠ some 5 ∧
    ((portsUp pausing).port 1).ip = 0 ∧ admits (portsUp pausing) 9 0 (ipHeader 6 + 8 + 2) = true ∧
    (portsUp pausing).session 1 = some desk0.session1 ∧ desk0.session1.port = 0 ∧
    (∀ m, m = 1 ∨ m = 2 → ∀ y, y = none ∨ y = some { t1 := none, t2 := 9, t3 := none } ∨ y = some { t1 := some 5, t2 := 9, t3 := some 20 } →
      let s := ptpSlave m y
      portUp s 1 = true ∧ admits s 1 0 0 = true ∧ s.ports.ptpPort = some 1 ∧ (s.port 1).ptpMode = m ∧ s.ports.ptpSync = y) ∧
    (Canonical waitingFrame ∧ linkRuns (waitingFrame.port 9).linkMode 4 = 3 ∧ waitingFrame.ports.held = [.echo 9 6 [1, 2]] ∧
      bit waitingFrame.power.clocks 1 = true ∧
      ∃ r, routeOf waitingFrame (.echo 9 6 [1, 2]) = some r ∧ r.port = 9 ∧ r.bytes ≤ (waitingFrame.port 9).mtu ∧ r.prio = some 0 ∧
        sget (fun _ => 0) (waitingFrame.port 9).paused 0 = 0 ∧ r.mac = none ∧ resolvedMac waitingFrame 9 (nextHop waitingFrame 9 r.ip) = some 1) := by
  refine ⟨canonical_of rfl rfl (by decide +kernel), by decide +kernel, by decide +kernel, by decide +kernel, by decide +kernel, by decide +kernel,
    by decide +kernel, rfl, rfl, fun m h y hy => ?_, canonical_of rfl rfl (by decide +kernel), by decide +kernel, rfl, by decide +kernel, _, rfl,
    by decide +kernel, by decide +kernel, rfl, by decide +kernel, rfl, by decide +kernel⟩
  rcases h with rfl | rfl <;> rcases hy with rfl | rfl | rfl <;> decide +kernel

/-! ## The peer transport -/

/-- The entry of a device peer of tenant 7 in state `st`: every port, every carrel, address 77. -/
def peerEntry (st : Nat) : BitVec 512 :=
  1 ||| at_ 512 2 st ||| at_ 512 8 0xFF ||| at_ 512 16 7 ||| at_ 512 48 0xFFFF ||| at_ 512 256 77

/-- The group's machine with every port up, accesses `as`, peer 9 with its channel on P0 as given, and plan 63. -/
def meshed (c : Chan) (as : List Access) (pl : Plan) : State :=
  { run with
      accesses := as, nextAcc := 9,
      ports := { (portsUp (Port.reset 9)).ports with peers := [(9, { entry := peerEntry 1, chans := [(0, c)].filter (·.2 != Chan.fresh) })] },
      plans := { run.plans with plans := [(63, pl)].filter (·.2 != Plan.unused) } }

/-- A channel that expects the last sequence number. -/
def chan0 : Chan := { Chan.fresh with rxNext := 0xFFFFFFFF, ever := true }

/-- A frame of peer 9 on P0, in order. -/
def frame (opx addr len : Nat) (bs : List Byte) : PeerFrame :=
  { port := 0, srcIp := 77, vlan := 0, version := 1, rsv := false, tag := 0x80000004, opx := BitVec.ofNat 8 opx, addr := BitVec.ofNat 44 addr,
    length := len, status := 0, ack := 0, seq := 0xFFFFFFFF, context := 5, tenant := 7, dst := 0, src := 9, poison := [], payload := bs }

/-- A frame that is heard. -/
def heard (s : State) (p : PeerFrame) : State := peerAcked (peerHeard s p.src.toNat p.port) p.src.toNat p.port p.ack.toNat

/-- A frame that is accepted. -/
def taken (s : State) (p : PeerFrame) : State :=
  (heard s p).modChan p.src.toNat p.port fun c => { c with rxNext := (c.rxNext + 1) % 2 ^ 32, owed := c.owed + 1 }

/-- A test that a frame comes. -/
def comes (s : State) (p : PeerFrame) : Bool :=
  portUp s (2 + p.port) && admits s (2 + p.port) p.vlan.toNat (ownBytes p.srcIp p.payload.length) && peerKnown s p

theorem frameComes_of {s : State} {p : PeerFrame} (h : comes s p = true) : FrameComes s p := by
  simp only [comes, Bool.and_eq_true] at h
  exact ⟨h.1.1, h.1.2, h.2⟩

/-- A test that a frame is accepted, and that its machine is canonical before and after. -/
def accepts (s : State) (p : PeerFrame) : Bool :=
  canonicalB s && canonicalB (taken s p) && (taken s p).dram.bytes.isEmpty && (taken s p).dram.checks.isEmpty && comes s p && !p.rsv &&
  decide (((heard s p).peer p.src.toNat).state = 1 ∧ p.seq.toNat = ((heard s p).chan p.src.toNat p.port).rxNext ∧
    ((heard s p).chan p.src.toNat p.port).owed + 1 < 16 ∧ s.dram = (taken s p).dram ∧ (taken s p).power.devState = .running)

theorem arrives_of {s : State} {p : PeerFrame} (h : accepts s p = true) :
    Canonical s ∧ Canonical (taken s p) ∧ ∀ up, Arrives s p up (taken s p) (heard s p) := by
  simp only [accepts, comes, Bool.and_eq_true, Bool.not_eq_true', decide_eq_true_eq, List.isEmpty_iff] at h
  obtain ⟨⟨⟨⟨⟨⟨h1, h2⟩, h3⟩, h4⟩, ⟨hu, ha⟩, h5⟩, hr⟩, h6, h7, h8, h9, h10⟩ := h
  have key : ∀ up refuse take declined, peerTakes s p up refuse take declined = (take (taken s p)).getD (declined (heard s p)) := by
    intro up refuse take declined
    unfold peerTakes frameArrives arrive
    rw [hu, ha]
    simp only [Bool.not_true, Bool.false_eq_true, if_false, if_true]
    rw [h5]
    simp only [Bool.not_true, Bool.false_eq_true, if_false]
    change (if (up && ((heard s p).peer p.src.toNat).state != 1) = true then heard s p else _) = _
    rw [h6]
    simp only [bne_self_eq_false, Bool.and_false, Bool.false_eq_true, if_false]
    change (if p.seq.toNat ≠ ((heard s p).chan p.src.toNat p.port).rxNext then _ else _) = _
    rw [if_neg (by rw [h7]; exact fun h => h rfl), if_neg (by rw [hr]; nofun),
      if_neg (by change ¬ 16 ≤ ((heard s p).chan p.src.toNat p.port).owed + 1; omega)]
    rfl
  exact ⟨canonical_of (by rw [h9]; exact h3) (by rw [h9]; exact h4) h1, canonical_of h3 h4 h2, fun up =>
    ⟨fun r t d v hv => by rw [key, hv]; rfl, fun r t d ht => by rw [key, ht]; rfl, h10⟩⟩

/-- The machine that hears peer 9, with accesses `as`. -/
def hears (as : List Access) : State := meshed chan0 as Plan.unused

/-- The first byte of DRAM page 5,000, which lies behind the table area. -/
def far : Nat := 5000 * 65536

/-- PeerFrames, order: a frame in order with its reserved bits clear and with one set. -/
theorem peerFrames_order_met : ∀ r, r = false ∨ r = true → let p := { frame 0 far 128 (List.replicate 128 1) with rsv := r }
    Canonical (hears []) ∧ (hears []).power.devState = .running ∧ FrameComes (hears []) p ∧ ((hears []).peer p.src.toNat).state = 1 ∧
      p.seq.toNat = ((hears []).chan p.src.toNat p.port).rxNext := by
  rintro r (rfl | rfl) <;> exact ⟨canonical_of rfl rfl (by decide +kernel), rfl, frameComes_of (by decide +kernel), by decide +kernel, by decide +kernel⟩

/-- PeerFrames, requests: a write, the longest read and an atomic of each size, in reach and out of it. -/
theorem peerFrames_requests_met :
    (∀ p ∈ [frame 0 0x10000 128 (List.replicate 128 1), frame 0 far 128 (List.replicate 128 1), frame 0 far 4096 [],
        frame 0 0x10000 4096 [], frame 0 far 4 (3 :: List.replicate 8 1), frame 0x20 far 8 (3 :: List.replicate 16 1), frame 0 0x10000 4 []],
      accepts (hears []) p = true) ∧
    (let p := frame 0 0x10000 128 (List.replicate 128 1)
     peerWriteAt (taken (hears []) p) p = .error Code.remoteRefused) ∧
    (let p := frame 0 far 128 (List.replicate 128 1)
     ∃ v, peerWriteAt (taken (hears []) p) p = .ok v) ∧
    (let p := frame 0 0x10000 4096 []
     peerCheck (taken (hears []) p) p p.length false = some Code.remoteRefused) ∧
    (let p := frame 0 far 4096 []
     peerCheck (taken (hears []) p) p p.length false = none ∧ ∃ g, physRead (taken (hears []) p) p.addr.toNat p.length p.tenant.toNat (bit p.opx 0) = .ok g) ∧
    (let p := frame 0 0x10000 4 []
     peerCheck (taken (hears []) p) p 4 true = some Code.remoteRefused) ∧
    (∀ w, w = false ∨ w = true → let p := if w then frame 0x20 far 8 (3 :: List.replicate 16 1) else frame 0 far 4 (3 :: List.replicate 8 1)
     let size := if w then 8 else 4
     bit p.opx 5 = w ∧ peerCheck (taken (hears []) p) p size true = none ∧ (dramRead (taken (hears []) p) p.addr.toNat size false).1.bad = false ∧
      (atomOperands p.payload size).length = 1) := by
  refine ⟨?_, error_of (by decide +kernel), ok_of (by decide +kernel), by decide +kernel, ⟨by decide +kernel, ok_of (by decide +kernel)⟩,
    by decide +kernel, fun w h => ?_⟩
  · exact List.all_eq_true.1 (by decide +kernel : List.all _ (fun p => accepts (hears []) p) = true)
  · rcases h with rfl | rfl <;> decide +kernel

/-- An access of lane 31 that waits for peer 9. -/
def remoteAcc (kind : AccKind) (size : Nat) : Access := { acc kind (.remote 9) size 4 [⟨31, far, 0x10000, 5, 0⟩] with stage := .sent 4 }

/-- PeerFrames, answers: loads of the smallest and the largest size, atomics of both sizes, and a store. -/
theorem peerFrames_answers_met : ∀ a ∈ [remoteAcc .load 1, remoteAcc .load 16, remoteAcc (.atomic .add 1) 4, remoteAcc (.atomic .cas 0) 8, remoteAcc .store 4],
    let p := frame 0 far 16 (List.replicate 16 9)
    accepts (hears [a]) p = true ∧ Awaits (taken (hears [a]) p) p a 2 17 group ⟨31, far, 0x10000, 5, 0⟩ ∧ vDst a ∧
      a.dst.toNat % regsFor a.size = 0 ∧ a.acq = false := by
  intro a h
  simp only [List.mem_cons, List.not_mem_nil, or_false] at h
  rcases h with rfl | rfl | rfl | rfl | rfl <;>
    exact ⟨by decide +kernel, by constructor <;> decide +kernel, by unfold vDst; decide +kernel, by decide +kernel, rfl⟩

/-- PeerFrames, keepalives and timers: a channel that was heard and one that has missed three. -/
theorem peerFrames_timers_met :
    FrameComes (hears []) (frame 0 0 0 []) ∧
    (let s := meshed { chan0 with misses := 3, owed := 1, unacked := [OutFrame.plain 1 9 7 5 0] } [remoteAcc .load 4] Plan.unused
     Canonical s ∧ chanRuns s 9 0 = true ∧ portUp s 2 = true ∧ 0 < (s.chan 9 0).owed ∧ 3 ≤ (s.chan 9 0).misses ∧ (s.accesses.map (·.id)).Nodup) :=
  ⟨frameComes_of (by decide +kernel), canonical_of rfl rfl (by decide +kernel), by decide +kernel⟩

/-! ## Plans -/

/-- Plan 63 of kind 1 as `planWord` says, or of kind 2, at a step. -/
def planAt (kind step : Nat) (running : Bool) : Plan :=
  { Plan.unused with
      raw := if kind = 1 then planWord else 2 ||| at_ 1024 44 9 ||| at_ 1024 80 5 ||| at_ 1024 384 0x10100 ||| at_ 1024 448 0x10200
      running := running, step := step, written := if running then [1, 0] else [], moved := running }

/-- The machine with plan 63 and a control block whose START is `n`. -/
def requesting (n : Nat) : State :=
  let s := meshed chan0 [] (planAt 1 0 false)
  { s with dram := { s.dram with bytes := [(0x10100, BitVec.ofNat 8 n)].filter (·.2 != 0) } }

/-- A frame of plan 63's step `t`. -/
def planFrame (t : Nat) (form : Nat) : PeerFrame :=
  { frame (63 + 64 * form) 0 0 [] with tag := BitVec.ofNat 32 t, context := 0 }

/-- The machine in which plan 63 runs step 5 and P0's staging pool is full. -/
def fullPool : State :=
  let s := meshed chan0 [] (planAt 1 5 true)
  { s with plans := { s.plans with
      staged := [{ plan := 63, step := 5, bucket := 0, port := 0, bytes := 2 ^ 22, entries := [], poisoned := false, whole := false, bad := false }] } }

/-- PlanEngines: polls with and without a step to run, a step's end at the last number, frames of a past and of the farthest later
step, ABORT of the step that runs, a full pool, and re-shard writes. -/
theorem planEngines_met :
    (∀ n, n = 0 ∨ n = 1 → Canonical (requesting n) ∧ ((requesting n).plan 63).kind ≠ 0 ∧ bit (requesting n).power.clocks 1 = true ∧
      ((requesting n).plan 63).failed = false ∧ ∃ x, planRead (requesting n) 5 0x10100 8 = .ok x ∧ (leNat (x.1.1.take 4) == n) = true) ∧
    (∀ k, k = 1 ∨ k = 2 → let s := meshed chan0 [] (planAt k 0xFFFFFFFF true)
      Canonical s ∧ stepDone s 63 = true ∧ ∃ v, planWrite s 5 (0x10100 + 4) (leBytes 4 0) (fun _ => false) = .ok v) ∧
    (accepts (hears []) (planFrame 0 0) = true ∧ ((taken (hears []) (planFrame 0 0)).plan 63).kind = 0 ∧
      (heard (hears []) (planFrame 0 0)).plans = (taken (hears []) (planFrame 0 0)).plans) ∧
    (∀ t, t = 4 ∨ t = 5 ∨ t = 2 ^ 31 + 4 → ∀ b, b = false ∨ b = true → let s := meshed chan0 [] (planAt 1 5 b)
      let p := planFrame t 2
      accepts s p = true ∧ ((taken s p).plan 63).kind = 1 ∧ ((taken s p).plan 63).failed = false ∧ p.src.toNat = ((taken s p).plan 63).prev ∧
      p.tenant.toNat = tenantOf (taken s p) 5 ∧ fld p.opx 6 2 ≠ 3 ∧ fld p.context 2 8 = 0 ∧ ((taken s p).plan 63).running = b ∧
      stepAge ((taken s p).plan 63) p.tag.toNat = (if t = 4 then .past else if t = 5 ∧ b then .now else .later) ∧
      poolUsed (taken s p) p.port + p.payload.length ≤ 2 ^ 22) ∧
    (let s := fullPool
     let p := { planFrame 5 2 with payload := [1] }
     accepts s p = true ∧ ((taken s p).plan 63).kind = 1 ∧ ((taken s p).plan 63).failed = false ∧ p.src.toNat = ((taken s p).plan 63).prev ∧
      p.tenant.toNat = tenantOf (taken s p) 5 ∧ fld p.opx 6 2 ≠ 3 ∧ fld p.context 2 8 = 0 ∧ stepAge ((taken s p).plan 63) p.tag.toNat = .now ∧
      (heard s p).plans = (taken s p).plans ∧ 2 ^ 22 < poolUsed (taken s p) p.port + p.payload.length) ∧
    (∀ t, t = 4 ∨ t = 5 ∨ t = 6 → let s := meshed chan0 [] (planAt 2 5 true)
      let p := { frame 63 far 128 (List.replicate 128 1) with tag := BitVec.ofNat 32 t }
      accepts s p = true ∧ ((taken s p).plan 63).kind = 2 ∧ ((taken s p).plan 63).failed = false ∧
      stepAge ((taken s p).plan 63) p.tag.toNat = (if t = 4 then .past else if t = 5 then .now else .later) ∧ ∃ v, peerWriteAt (taken s p) p = .ok v) := by
  refine ⟨fun n h => ?_, fun k h => ?_, ⟨by decide +kernel, by decide +kernel, by decide +kernel⟩, fun t h b hb => ?_,
    ⟨by decide +kernel, by decide +kernel, by decide +kernel, by decide +kernel, by decide +kernel, by decide +kernel, by decide +kernel,
     by decide +kernel, by decide +kernel, by decide +kernel⟩, fun t h => ?_⟩
  · rcases h with rfl | rfl <;>
      exact ⟨canonical_dram (by decide +kernel) (by decide +kernel) (by decide +kernel), by decide +kernel, by decide +kernel, by decide +kernel,
        okWith_elim (by decide +kernel)⟩
  · rcases h with rfl | rfl <;> exact ⟨canonical_of rfl rfl (by decide +kernel), by decide +kernel, ok_of (by decide +kernel)⟩
  · rcases h with rfl | rfl | rfl <;> rcases hb with rfl | rfl <;> decide +kernel
  · rcases h with rfl | rfl | rfl <;> exact ⟨by decide +kernel, by decide +kernel, by decide +kernel, by decide +kernel, ok_of (by decide +kernel)⟩

end Sys2Proof.Tests
end

