-- ==== Sys2Proof/Tests/Slice0.lean ====
section
/-! SUPPORT. Tests: ill-formed commands, words and records that the spec writes out, its worked examples, single steps, and the
witnesses of the statements about the whole machine. Each test names the place in spec/ that its expected value comes from. -/

namespace Sys2Proof.Tests

-- one theorem after another: each `decide` waits for the kernel, and waiting side by side costs a thread each
set_option Elab.async false

open Machine Says

/-! ## Well-formedness -/

/-- A message that arrives on port `p`. -/
def msgOn (p : Nat) : Msg := { msg 0 [] with port := p }

/-- Each check of `Instr.wf` refuses a term that is one past its range. -/
theorem test_wf_refuses : ([.nop ⟨384, 0, 0⟩ bare, .nop ⟨0, 4, 0⟩ bare, .nop ⟨0, 0, 16⟩ bare, .watchWake 65536, .deviceBarrierRelease 64,
    .coreGrantRestoreDone 384, .tsDescriptorStart 0 4, .digestComplete 24 0, .digestComplete 0 8, .blockRetire 0 32, .vaultRead 31,
    .evictionDrain 24, .scrubRead 384, .refresh 0 16, .temperatureEvaluation ⟨[], 0, 0, 0⟩, .doorbell (msgOn 10), .queueFetch 4096,
    .contextTeardownComplete 1024, .migrationComplete 256, .smtAckTimer 256, .domainResetComplete 37, .rdmaWrite { packet 0 0 [] with port := 10 },
    .rdmaWrite { packet 0 0 [] with conn := 1024 }, .roceRetryTimer 1024, .pfcPauseExpiry 0 8, .linkStateChange 10 ⟨0, 0⟩, .peerLost 4096,
    .keepaliveTimer 0 8, .planControlPoll 64, .undefinedOpcode ref 0x10, .ethRefclkLoss 2] : List Instr).all (fun i => !i.wf) = true := by
  decide +kernel

/-- The last number of each range is accepted. -/
theorem test_wf_accepts : ([.nop ⟨383, 3, 15⟩ bare, .watchWake 65535, .deviceBarrierRelease 63, .tsDescriptorStart 383 3, .digestComplete 23 7,
    .blockRetire 383 31, .vaultRead 32, .refresh 383 15, .doorbell (msgOn 9), .queueFetch 4095, .contextTeardownComplete 1023, .migrationComplete 255,
    .smtAckTimer 255, .domainResetComplete 36, .roceRetryTimer 1023, .pfcPauseExpiry 9 7, .peerLost 4095, .keepaliveTimer 4095 7,
    .planControlPoll 63, .undefinedOpcode ref 0x0B, .ethRefclkLoss 1] : List Instr).all Instr.wf = true := by decide +kernel

/-! ## Words (04_instruction_set.md) -/

/-- The example under R106: `@!p1 ld.acq.b32 v8, [v4+64]` with the reuse bit of the address pair. -/
theorem test_decode_ld : decodeWord ref 0x0404220001011960 =
    .ld ref { guard := ⟨true, true, 1⟩, data := 8, addr := 4, data2 := 0, size := 2, cache := 0, sem := 1, space := false, sext := false,
              reuseData := false, reuseAddr := true, reuseD2 := false, offset := 0x40 } := by decide +kernel

/-- The `mx.op` of the worked step in 06_matrix_engine.md. -/
theorem test_decode_mxOp : decodeWord ref 0x21FE000004670092 =
    .mxOp ref { guard := ⟨false, false, 0⟩, acc := 0, zero := true, fmtA := 3, fmtB := 3, axisA := false, axisB := true, aOff := 0, bOff := 0,
                kM1 := 255, expand := 0, caddy := 2, rsv := 0 } := by decide +kernel

/-- The R format: `fma v8, v1, v5, v9` of the example of 03_cores_and_thread_groups.md, reuse bits on v1 and v9:
0x43 + 8 * 2^13 + 1 * 2^22 + 5 * 2^31 + 9 * 2^40 + 2^49 + 2^51. -/
theorem test_decode_fma : decodeWord ref 0x000A090280410043 =
    .fma ref { bare with dst := 8, srcA := 1, srcB := 5, srcC := 9, reuseA := true, reuseC := true } := by decide +kernel

/-- The I format: `add.i v5, v6, 0x12345678`: 0x30 + 5 * 2^13 + 6 * 2^22 + 0x12345678 * 2^32. -/
theorem test_decode_addI : decodeWord ref 0x123456780180A030 =
    .addI ref { guard := ⟨false, false, 0⟩, dst := 5, srcA := 6, reuseA := false, imm := 0x12345678 } := by decide +kernel

/-- The B format: `bra` with TARGET 3 and RECONV 5: 0x01 + 3 * 2^13 + 5 * 2^38. -/
theorem test_decode_bra : decodeWord ref 0x0000014000006001 =
    .bra ref { guard := ⟨false, false, 0⟩, target := 3, reconv := 5, rsv := false } := by decide +kernel

/-- R107: opcode 0x0B is reserved. -/
theorem test_decode_reserved : decodeWord ref 0x0B = .undefinedOpcode ref 0x0B := by decide +kernel

/-! ## The check code (02_bonded_memory.md) -/

/-- The first example: a sector with 0x30 in byte 0. -/
theorem test_checkOf : checkOf 0x30 = 0xC3C8 := by decide +kernel

/-- The second example: a sector of zeros read with symbol 21 equal to 7. -/
theorem test_decodeSector : decodeSector (BitVec.ofNat 256 (7 <<< 84)) 0 = .corrected 21 7 := by decide +kernel

/-! ## Leaf formats and atomics (04, 05) -/

/-- LF4: 3.0 under rm 0 and rm 4, 0.125 and -20 (the example under R149). -/
theorem test_leafEncode : leafEncode 6 0 0 false 3 1 = (4, fInexact) ∧ leafEncode 6 0 4 false 3 1 = (5, fInexact) ∧
    leafEncode 6 0 0 false 1 8 = (0, fInexact ||| fUnderflow) ∧ leafEncode 6 0 0 true 20 1 = (0xF, fOverflow ||| fInexact) := by decide +kernel

/-- The worked conversions: a block of largest magnitude 3,000 (0x453B8000) under `cdy.fit` and `cvt.pk`. -/
theorem test_cdyFit : caddyFit 3 0 [0x453B8000, 0x3F800000] = 131 ∧ caddyEncode 3 0 0 131 0x453B8000 = (0x7C, fInexact) ∧
    caddyEncode 3 0 0 131 0x3F800000 = (0x20, fNone) ∧ (caddyEncode 3 0 0 131 0xBE980000).1 = 0x92 ∧ (caddyEncode 3 0 1 131 0xBE980000).1 = 0x91 := by
  decide +kernel

/-- `cvt.up` of 0x7C under 131 is 3,072, and of 0x7D under 128 is 9,638,917 x 2^-13, inexact (the same section). -/
theorem test_cvtUp : caddyDecode 3 0 0 131 0x7C = (0x45400000, fNone) ∧ caddyDecode 3 0 0 128 0x7D = (0x44931405, fInexact) := by decide +kernel

/-- The floating-point `atom.add` of the example under R128. -/
theorem test_atomAdd : atomSet .add 2 0 4 0 [⟨0, 0x3F800000, 0⟩, ⟨1, 0x4B800000, 0⟩, ⟨2, 0x3F800000, 0⟩, ⟨3, 0x3F800000, 0⟩] =
    ([(0, 0), (1, 0x3F800000), (2, 0x4B800000), (3, 0x4B800000)], 0x4B800001) := by decide +kernel

/-! ## Placement (03) -/

/-- A launch of 72 registers, blocks of 128 threads, 40 KiB of local store per block and spill depth 4, with LS_SIZE_KIB `k`. -/
def camera (k : Nat) : Launch :=
  { launch with desc := at_ 1024 128 128 ||| at_ 1024 144 72 ||| at_ 1024 160 k ||| at_ 1024 176 40 ||| at_ 1024 192 4 }

/-- The example under R73: 4 blocks on a core with 192 KiB of local store and 7 with 320 KiB. -/
theorem test_blocksPer : (camera 192).blocksPer = 4 ∧ (camera 320).blocksPer = 7 := by decide +kernel

/-! ## The Catalogue (16) -/

/-- 64 slots of 120,000 core-microseconds each. -/
def depot : State :=
  { door with desk := { door.desk with
      slots := (List.range 64).map fun k => (k, { Slot.reset with enable := true, budget := 120000 }) } }

/-- The 48 bytes of the example's TXN. -/
def depotTxn : List Byte :=
  [0x10, 0x30, 0x04, 0x01, 0x01, 0, 0, 0, 2, 0, 0, 0, 0, 0, 0, 0, 0x40, 0x32, 0x01, 0x01, 0x01, 0, 0, 0, 1, 0, 0, 0, 0, 0, 0, 0,
   0x40, 0x32, 0x02, 0x01, 0x04, 0, 0, 0, 0xC0, 0xD4, 0x01, 0x00, 0, 0, 0, 0]

/-- The three items of the example. -/
theorem test_parseItems : parseItems 64 depotTxn =
    ([⟨0x3010, 4, false, [2]⟩, ⟨0x3240, 1, false, [1]⟩, ⟨0x3240, 2, false, leBytes 4 120000⟩], true) := by decide +kernel

/-- The example's TXN is accepted, and FLOOR_SHARE_32NDS = 16 behind it is refused with "budget exceeds Steep". -/
theorem test_budget : (match acceptItems depot (catMsg 4 0 0 0 depotTxn) (parseItems 64 depotTxn).1 with
    | .ok s => (match acceptItems s (catMsg 4 0 0 0 []) [⟨0x3010, 4, false, [16]⟩] with | .error e => e == (0, Code.budgetExceeds) | .ok _ => false)
    | .error _ => false) = true := by decide +kernel

/-! ## Ports (13, 17) -/

/-- R526: the link-local address of 00:11:22:33:44:55 is FE80::211:22FF:FE33:4455. -/
theorem test_linkLocal : linkLocal 0x001122334455 = 0xFE80000000000000021122FFFE334455 := by decide +kernel

/-- R404: `auto` takes a mode that the partner offers, a forced mode runs only where the partner offers it. -/
theorem test_linkRuns : linkRuns 0 4 = 3 ∧ linkRuns 0 0 = 0 ∧ linkRuns 2 2 = 2 ∧ linkRuns 2 5 = 0 := by decide +kernel

/-! ## Faults (20) -/

/-- The example under R602: words 0, 3 and 4 of the record. -/
theorem test_faultRecord :
    let s : State := { run with ctxs := [(211, { Ctx.fresh with state := .live, tenant := 3 })] }
    let f : FaultInfo := { ctx := 211, status := 0x0207, kind := 2, unit := 2, core := 40, slot := 0, lane := none, queue := 0, pos := 0, pc := 0x1000,
                           va := some 0x001234560000, pa := none }
    (faultImage s f).extractLsb' 0 64 = 0x0028220300D30207 ∧ (faultImage s f).extractLsb' 192 64 = 0x0100001234560000 ∧
      (faultImage s f).extractLsb' 64 64 = 0 ∧ (faultImage s f).extractLsb' 256 64 = 0 := by decide +kernel

/-! ## Steps -/

/-- A command that answers a next state which passes a test. -/
def gives (c : Instr) (s : State) (f : State → Bool) : Bool := match step { s with pending := [c, .steepBoundary] } with
  | .next t => decide (t.pending = [.steepBoundary]) && f t
  | _ => false

/-- `add v8, v1, v1` on U32 (R115) in the group of Setup, whose v1 holds 6 in lane 0 and 7 in lane 1. -/
theorem test_add : gives (.add ref { bare with dst := 8, srcA := 1, srcB := 1, mod := 0xB }) run
    (fun t => (t.group 2 17).any fun g => g.run 0 ⟨8, 1⟩ == 12 && g.run 1 ⟨8, 1⟩ == 14 && g.pc == 0x10008) = true := by decide +kernel

/-- R564 and R549: PORST_N is released, and the time base starts at 0. -/
theorem test_release : gives (.porstNRelease []) State.reset (fun t => t.power.step == 1 && t.power.now == 0 && !t.power.porstLow) = true := by
  decide +kernel

/-- R373: a doorbell raises WRITE_POS and makes an IDLE queue ACTIVE. -/
theorem test_doorbell : gives (.doorbell (msg (9 + 3 * 2 ^ 32) [])) (linked (desk0 (atRest .idle 2 2)))
    (fun t => (t.queue 9).writePos == 3 && (t.queue 9).state == .active) = true := by decide +kernel

/-- The stops: DRAM ends at 0x180_0000_0000 (R27), and JTAG on an unlocked port (R593). -/
theorem test_stops : (match exec (.vaultRead 0x18000000000) idle with | .fault (.noSuchAddress pa) => pa == 0x18000000000 | _ => false) = true ∧
    (match exec (.jtagInstruction (.other 3)) (tampered 1) with | .refused (.jtagUnspecified c) => c == 3 | _ => false) = true := by decide +kernel

/-- No row of the table gives bits. -/
theorem test_decodeTableWord : decodeTableWord 64 5 = none ∧ State.reset.withFetchWord 64 5 = State.reset := ⟨rfl, rfl⟩

/-! ## Statements about the whole machine -/

/-- StepRunsFront: a queue with a command and an empty one. -/
theorem stepRunsFront_met : ({ idle with pending := [.steepBoundary] } : State).pending = .steepBoundary :: [] ∧ idle.pending = [] ∧
    idle.power.slew = 0 := ⟨rfl, rfl, rfl⟩

/-- ResetState: an entry that may be written and has a fixed width. -/
theorem resetState_met : ∃ e, catEntry State.reset 0x3010 5 = some e ∧
    (decide (e.acc = .rws) && (typWidth e.typ).isSome) = true := holds_elim (by decide +kernel)

/-- EveryCommandAnswers has no hypothesis; DecodeAndEncodeAgree: a well-formed instruction, its word and its group. -/
theorem decodeAndEncodeAgree_met : (Instr.addI ref { guard := ⟨false, false, 0⟩, dst := 5, srcA := 6, reuseA := false, imm := 0x12345678 }).wf = true ∧
    encodeWord (.addI ref { guard := ⟨false, false, 0⟩, dst := 5, srcA := 6, reuseA := false, imm := 0x12345678 }) = some 0x123456780180A030 ∧
    ref.ok = true := by decide +kernel

/-- MemoryStaysCanonical and MapsStayCanonical: a canonical machine that steps to a next state. -/
theorem staysCanonical_met : Canonical idle ∧ ∃ t, step idle = .next t :=
  ⟨canonical_of rfl rfl (by decide +kernel), _, rfl⟩

end Sys2Proof.Tests
end

namespace Sys2Proof.CheckCode

open Machine

/-! ## O31: the check code

Symbols are read as elements of Mathlib's GF(16), so that a syndrome is a sum of multiples of columns. Every column lies on the
elliptic quadric that R31 names, and so does every syndrome that the decoder takes for no error or for one; the sum of two
multiples of different columns never does. -/

/-! ### Symbols as elements of GF(16) -/

/-- GF(4), whose generator is the element 0x6 of GF(16). -/
abbrev GF4 := QuadraticAlgebra (ZMod 2) 1 1

/-- GF(16) over GF(4): its generator alpha has alpha^2 = 0x6 + alpha. -/
abbrev GF16 := QuadraticAlgebra GF4 ⟨0, 1⟩ 1

/-- The root alpha of x^4 + x + 1. -/
def alpha : GF16 := ⟨0, 1⟩

/-- Bit `i` of a symbol as the multiple of alpha^i that it stands for (02, The check code). -/
def bitGF (n i : Nat) : GF16 := if n.testBit i then alpha ^ i else 0

/-- A symbol as an element of GF(16). -/
def toGF (n : Nat) : GF16 := bitGF n 0 + bitGF n 1 + bitGF n 2 + bitGF n 3

theorem two_eq_zero : (2 : GF16) = 0 := by decide +kernel

theorem add_self_GF (x : GF16) : x + x = 0 := by linear_combination x * two_eq_zero

theorem bitGF_xor (a b i : Nat) : bitGF (a ^^^ b) i = bitGF a i + bitGF b i := by
  cases ha : a.testBit i <;> cases hb : b.testBit i <;> simp [bitGF, ha, hb, add_self_GF]

@[simp] theorem toGF_xor (a b : Nat) : toGF (a ^^^ b) = toGF a + toGF b := by
  simp only [toGF, bitGF_xor]; ring

@[simp] theorem toGF_zero : toGF 0 = 0 := by simp [toGF, bitGF]

@[simp] theorem toGF_one : toGF 1 = 1 := by decide +kernel

theorem toGF_injOn : ∀ a < 16, ∀ b < 16, toGF a = toGF b → a = b := by decide +kernel

theorem toGF_gfMul : ∀ a < 16, ∀ b < 16, toGF (gfMul a b) = toGF a * toGF b := by decide +kernel

/-- A sum of symbols is a symbol. -/
theorem xor_lt_16 {a b : Nat} (ha : a < 16) (hb : b < 16) : a ^^^ b < 16 := Nat.xor_lt_two_pow (n := 4) ha hb

theorem gfMul_lt : ∀ a < 16, ∀ b < 16, gfMul a b < 16 := by decide +kernel

theorem gfMul_zero (e : Nat) : gfMul e 0 = 0 := if_pos (.inr rfl)

theorem gfMul_one : ∀ e < 16, gfMul e 1 = e := by decide +kernel

theorem gfDiv_lt : ∀ a < 16, ∀ b < 16, gfDiv a b < 16 := by decide +kernel

theorem gfDiv_gfMul : ∀ e < 16, 0 < e → ∀ x < 16, gfDiv (gfMul e x) e = x := by decide +kernel

theorem gfMul_gfDiv : ∀ e < 16, 0 < e → ∀ x < 16, gfMul e (gfDiv x e) = x := by decide +kernel

theorem gfG_lt {a b : Nat} (ha : a < 16) (hb : b < 16) : gfG a b < 16 :=
  xor_lt_16 (xor_lt_16 (gfMul_lt a ha a ha) (gfMul_lt a ha b hb))
    (gfMul_lt 8 (by decide) _ (gfMul_lt b hb b hb))

/-- The quadratic form of R31 has no zero but the trivial one, which makes the quadric elliptic. -/
theorem gfG_anisotropic : ∀ a < 16, ∀ b < 16, gfG a b = 0 → a = 0 ∧ b = 0 := by decide +kernel

theorem isUnit_toGF {e : Nat} (he0 : 0 < e) (he : e < 16) : IsUnit (toGF e) :=
  .of_mul_eq_one (toGF (gfDiv 1 e)) (by
    rw [← toGF_gfMul e he _ (gfDiv_lt 1 (by decide) e he), gfMul_gfDiv e he he0 1 (by decide), toGF_one])

/-! ### Syndromes as vectors -/

/-- A syndrome or a column of the check matrix, in the model's symbols. -/
abbrev Syn := Nat × Nat × Nat × Nat

/-- The four entries are symbols. -/
def InField (s : Syn) : Prop := s.1 < 16 ∧ s.2.1 < 16 ∧ s.2.2.1 < 16 ∧ s.2.2.2 < 16

/-- A syndrome as a vector over GF(16). -/
def synGF (s : Syn) : GF16 × GF16 × GF16 × GF16 := (toGF s.1, toGF s.2.1, toGF s.2.2.1, toGF s.2.2.2)

@[simp] theorem synGF_zero : synGF (0, 0, 0, 0) = 0 := by simp [synGF]

/-- A multiple of a column, in the model's symbols. -/
def scale (v : Nat) (h : Syn) : Syn := (gfMul v h.1, gfMul v h.2.1, gfMul v h.2.2.1, gfMul v h.2.2.2)

/-- Column `j` of the check matrix as a vector over GF(16). -/
def col (j : Nat) : GF16 × GF16 × GF16 × GF16 := synGF (hcol j)

theorem synGF_injOn {s t : Syn} (hs : InField s) (ht : InField t) (h : synGF s = synGF t) : s = t := by
  obtain ⟨s0, s1, s2, s3⟩ := hs
  obtain ⟨t0, t1, t2, t3⟩ := ht
  simp only [synGF, Prod.mk.injEq] at h
  obtain ⟨h0, h1, h2, h3⟩ := h
  exact Prod.ext (toGF_injOn _ s0 _ t0 h0) (Prod.ext (toGF_injOn _ s1 _ t1 h1)
    (Prod.ext (toGF_injOn _ s2 _ t2 h2) (toGF_injOn _ s3 _ t3 h3)))

theorem inField_scale {v : Nat} {h : Syn} (hv : v < 16) (hh : InField h) : InField (scale v h) := by
  obtain ⟨h0, h1, h2, h3⟩ := hh
  exact ⟨gfMul_lt v hv _ h0, gfMul_lt v hv _ h1, gfMul_lt v hv _ h2, gfMul_lt v hv _ h3⟩

theorem synGF_scale {v : Nat} {h : Syn} (hv : v < 16) (hh : InField h) : synGF (scale v h) = toGF v • synGF h := by
  obtain ⟨h0, h1, h2, h3⟩ := hh
  simp [synGF, scale, toGF_gfMul v hv _ h0, toGF_gfMul v hv _ h1, toGF_gfMul v hv _ h2, toGF_gfMul v hv _ h3]

/-- A column other than that of k0 is a point (1, a, b, g(a, b)) (R31). -/
theorem hcol_affine {j : Nat} (hj : j < 68) (h64 : j ≠ 64) : ∃ a < 16, ∃ b < 16, hcol j = (1, a, b, gfG a b) := by
  unfold hcol
  split_ifs with h1 h2 h3
  · exact ⟨j % 16, by omega, j / 16, by omega, rfl⟩
  · exact ⟨0, by decide, 4, by decide, rfl⟩
  · exact ⟨1, by decide, 4, by decide, rfl⟩
  · exact ⟨0, by decide, 5, by decide, rfl⟩

theorem hcol_64 : hcol 64 = (0, 0, 0, 1) := rfl

theorem inField_hcol {j : Nat} (hj : j < 68) : InField (hcol j) := by
  by_cases h64 : j = 64
  · subst h64; simp [hcol_64, InField]
  · obtain ⟨a, ha, b, hb, h⟩ := hcol_affine hj h64
    rw [h]; exact ⟨Nat.one_lt_succ_succ 14, ha, hb, gfG_lt ha hb⟩

theorem hcol_injOn {j k : Nat} (hj : j < 68) (hk : k < 68) (h : hcol j = hcol k) : j = k := by
  simp only [hcol] at h
  split_ifs at h <;> simp only [Prod.mk.injEq] at h <;> omega

theorem inField_synAdd {s : Syn} {j v : Nat} (hs : InField s) (hj : j < 68) (hv : v < 16) : InField (synAdd s j v) := by
  unfold synAdd
  split_ifs
  · exact hs
  · obtain ⟨s0, s1, s2, s3⟩ := hs
    obtain ⟨h0, h1, h2, h3⟩ := inField_scale hv (inField_hcol hj)
    exact ⟨xor_lt_16 s0 h0, xor_lt_16 s1 h1, xor_lt_16 s2 h2,
      xor_lt_16 s3 h3⟩

theorem synGF_synAdd {s : Syn} {j v : Nat} (hj : j < 68) (hv : v < 16) :
    synGF (synAdd s j v) = synGF s + toGF v • col j := by
  rw [col, ← synGF_scale hv (inField_hcol hj)]
  unfold synAdd
  split_ifs with h0
  · subst h0; simp [synGF, scale, gfMul]
  · simp [synGF, scale]

/-- Adding columns one after another adds the sum of their multiples. -/
theorem foldl_synAdd (f c : Nat → Nat) (n : Nat) (s : Syn) (hs : InField s) (hf : ∀ i < n, f i < 68) (hc : ∀ i, c i < 16) :
    InField ((List.range n).foldl (fun s i => synAdd s (f i) (c i)) s) ∧
    synGF ((List.range n).foldl (fun s i => synAdd s (f i) (c i)) s) =
      synGF s + ∑ i ∈ Finset.range n, toGF (c i) • col (f i) := by
  induction n with
  | zero => simpa using hs
  | succ n ih =>
    have hn : f n < 68 := hf n n.lt_succ_self
    obtain ⟨hin, hsum⟩ := ih fun i hi => hf i (hi.trans n.lt_succ_self)
    rw [List.range_succ, List.foldl_append, Finset.sum_range_succ, ← add_assoc, ← hsum]
    exact ⟨inField_synAdd hin hn (hc n), synGF_synAdd hn (hc n)⟩

/-! ### The symbols of a codeword and its syndrome -/

theorem fld_lt {n : Nat} (x : BitVec n) (lo : Nat) : fld x lo 4 < 16 := Nat.mod_lt _ (by decide)

theorem fld_xor {n : Nat} (x y : BitVec n) (lo len : Nat) : fld (x ^^^ y) lo len = fld x lo len ^^^ fld y lo len := by
  simp [fld, Nat.shiftRight_xor_distrib, Nat.xor_mod_two_pow]

/-- A word that is zero but for symbol `j`. -/
theorem fld_symbol {n i j e : Nat} (hi : 4 * i + 4 ≤ n) (he : e < 16) :
    fld (BitVec.ofNat n (e <<< (4 * j))) (4 * i) 4 = if i = j then e else 0 := by
  refine Nat.eq_of_testBit_eq fun t => ?_
  have high (u : Nat) (hu : 4 ≤ u) : e.testBit u = false :=
    Nat.testBit_lt_two_pow (he.trans_le (Nat.pow_le_pow_right (by decide) hu : 2 ^ 4 ≤ 2 ^ u))
  simp only [fld, BitVec.toNat_ofNat, Nat.testBit_mod_two_pow, Nat.testBit_shiftRight, Nat.testBit_shiftLeft]
  rcases lt_trichotomy i j with hij | rfl | hij
  · rw [if_neg hij.ne, Nat.zero_testBit]
    by_cases ht : t < 4
    · simp [show ¬ 4 * i + t ≥ 4 * j by omega]
    · simp [ht]
  · by_cases ht : t < 4
    · simp [ht, show 4 * i + t < n by omega]
    · simp [ht, high t (by omega)]
  · simp [hij.ne', high (4 * i + t - 4 * j) (by omega)]

/-- Symbol `i` of received data and check symbols (R30). -/
def symbol (x : Sector × BitVec 16) (i : Nat) : Nat := if i < 64 then fld x.1 (4 * i) 4 else fld x.2 (4 * (i - 64)) 4

/-- The syndrome of received data and check symbols (R33). -/
def syndrome (x : Sector × BitVec 16) : Syn :=
  (List.range 4).foldl (fun s i => synAdd s (64 + i) (fld x.2 (4 * i) 4)) (dataSyn x.1)

/-- An error `e` added to symbol `j`. -/
def damage (j e : Nat) (x : Sector × BitVec 16) : Sector × BitVec 16 :=
  if j < 64 then (x.1 ^^^ BitVec.ofNat 256 (e <<< (4 * j)), x.2) else (x.1, x.2 ^^^ BitVec.ofNat 16 (e <<< (4 * (j - 64))))

theorem symbol_damage {i j e : Nat} (x : Sector × BitVec 16) (hi : i < 68) (he : e < 16) :
    symbol (damage j e x) i = symbol x i ^^^ if i = j then e else 0 := by
  unfold symbol damage
  by_cases hj : j < 64 <;> by_cases hi64 : i < 64
  · simp [hj, hi64, fld_xor, fld_symbol (show 4 * i + 4 ≤ 256 by omega) he]
  · simp [hj, hi64, show i ≠ j by omega]
  · simp [hj, hi64, show i ≠ j by omega]
  · simp [hj, hi64, fld_xor, fld_symbol (show 4 * (i - 64) + 4 ≤ 16 by omega) he, show i - 64 = j - 64 ↔ i = j by omega]

theorem dataSyn_eq_foldl (d : Sector) :
    dataSyn d = (List.range 64).foldl (fun s j => synAdd s j (fld d (4 * j) 4)) (0, 0, 0, 0) := by
  unfold dataSyn
  split_ifs with h
  · subst h; simp [fld, synAdd]
  · rfl

theorem dataSyn_sum (d : Sector) : InField (dataSyn d) ∧
    synGF (dataSyn d) = ∑ i ∈ Finset.range 64, toGF (fld d (4 * i) 4) • col i := by
  rw [dataSyn_eq_foldl, ← zero_add (∑ i ∈ _, _), ← synGF_zero]
  exact foldl_synAdd (fun i => i) (fun i => fld d (4 * i) 4) 64 (0, 0, 0, 0) (by simp [InField])
    (fun i hi => by omega) (fun i => fld_lt d _)

theorem syndrome_eq_dataSyn_add (x : Sector × BitVec 16) : InField (syndrome x) ∧
    synGF (syndrome x) = synGF (dataSyn x.1) + ∑ i ∈ Finset.range 4, toGF (fld x.2 (4 * i) 4) • col (64 + i) :=
  foldl_synAdd (fun i => 64 + i) (fun i => fld x.2 (4 * i) 4) 4 (dataSyn x.1) (dataSyn_sum x.1).1
    (fun i hi => by omega) (fun i => fld_lt x.2 _)

theorem inField_syndrome (x : Sector × BitVec 16) : InField (syndrome x) := (syndrome_eq_dataSyn_add x).1

/-- The syndrome is H r (R31). -/
theorem synGF_syndrome (x : Sector × BitVec 16) :
    synGF (syndrome x) = ∑ i ∈ Finset.range 68, toGF (symbol x i) • col i := by
  rw [(syndrome_eq_dataSyn_add x).2, (dataSyn_sum x.1).2, Finset.sum_range_add _ 64 4]
  refine congrArg₂ (· + ·) (Finset.sum_congr rfl fun i hi => ?_) (Finset.sum_congr rfl fun i _ => ?_)
  · rw [symbol, if_pos (Finset.mem_range.mp hi)]
  · rw [symbol, if_neg (by omega), Nat.add_sub_cancel_left]

theorem synGF_syndrome_damage {j e : Nat} (x : Sector × BitVec 16) (hj : j < 68) (he : e < 16) :
    synGF (syndrome (damage j e x)) = synGF (syndrome x) + toGF e • col j := by
  have hterm (i : Nat) (hi : i ∈ Finset.range 68) :
      toGF (symbol (damage j e x) i) • col i = toGF (symbol x i) • col i + if i = j then toGF e • col i else 0 := by
    rw [symbol_damage x (Finset.mem_range.mp hi) he, toGF_xor, add_smul]
    split_ifs <;> simp
  rw [synGF_syndrome, synGF_syndrome, Finset.sum_congr rfl hterm, Finset.sum_add_distrib, Finset.sum_ite_eq' _ j,
    if_pos (Finset.mem_range.mpr hj)]

/-- The check symbols k0 to k3 for a data syndrome (R32). -/
def checkSymbols (s : Syn) : Syn :=
  let k2 := s.2.1
  let k3 := s.2.2.1 ^^^ gfMul 4 s.1
  let k1 := s.1 ^^^ s.2.1 ^^^ k3
  (s.2.2.2 ^^^ gfMul 0xB k1 ^^^ gfMul 0xE k2 ^^^ gfMul 3 k3, k1, k2, k3)

theorem inField_checkSymbols {s : Syn} (hs : InField s) : InField (checkSymbols s) := by
  obtain ⟨s0, s1, s2, s3⟩ := hs
  have k3 := xor_lt_16 s2 (gfMul_lt 4 (by decide) _ s0)
  have k1 := xor_lt_16 (xor_lt_16 s0 s1) k3
  exact ⟨xor_lt_16 (xor_lt_16 (xor_lt_16 s3 (gfMul_lt 0xB (by decide) _ k1)) (gfMul_lt 0xE (by decide) _ s1))
    (gfMul_lt 3 (by decide) _ k3), k1, s1, k3⟩

theorem fld_pack {k : Syn} (hk : InField k) :
    let w := BitVec.ofNat 16 (k.1 + 16 * k.2.1 + 256 * k.2.2.1 + 4096 * k.2.2.2)
    fld w 0 4 = k.1 ∧ fld w 4 4 = k.2.1 ∧ fld w 8 4 = k.2.2.1 ∧ fld w 12 4 = k.2.2.2 := by
  obtain ⟨h0, h1, h2, h3⟩ := hk
  simp only [fld, BitVec.toNat_ofNat, Nat.shiftRight_eq_div_pow]
  omega

theorem fld_checkOf (v : Sector) : let k := checkSymbols (dataSyn v)
    fld (checkOf v) 0 4 = k.1 ∧ fld (checkOf v) 4 4 = k.2.1 ∧ fld (checkOf v) 8 4 = k.2.2.1 ∧ fld (checkOf v) 12 4 = k.2.2.2 :=
  fld_pack (inField_checkSymbols (dataSyn_sum v).1)

theorem col_64 : col 64 = (0, 0, 0, 1) := by simp [col, synGF, hcol_64]

theorem col_65 : col 65 = (1, 0, toGF 4, toGF 0xB) := by decide +kernel

theorem col_66 : col 66 = (1, 1, toGF 4, toGF 0xE) := by decide +kernel

theorem col_67 : col 67 = (1, 0, toGF 4 + 1, toGF 3) := by decide +kernel

/-- The sum of the multiples of the check columns for check symbols `k`. -/
def checkSum (k : Syn) : GF16 × GF16 × GF16 × GF16 :=
  toGF k.1 • col 64 + toGF k.2.1 • col 65 + toGF k.2.2.1 • col 66 + toGF k.2.2.2 • col 67

theorem checkSum_eq (k : Syn) : checkSum k =
    (toGF k.2.1 + toGF k.2.2.1 + toGF k.2.2.2, toGF k.2.2.1,
      toGF k.2.1 * toGF 4 + toGF k.2.2.1 * toGF 4 + toGF k.2.2.2 * (toGF 4 + 1),
      toGF k.1 + toGF k.2.1 * toGF 0xB + toGF k.2.2.1 * toGF 0xE + toGF k.2.2.2 * toGF 3) := by
  simp only [checkSum, col_64, col_65, col_66, col_67, Prod.smul_mk, Prod.mk_add_mk, smul_eq_mul, mul_zero, mul_one, zero_add,
    add_zero]

/-- The check symbols cancel the data syndrome. -/
theorem synGF_add_checkSum {s : Syn} (hs : InField s) : synGF s + checkSum (checkSymbols s) = 0 := by
  obtain ⟨k0, k1, k2, k3⟩ := inField_checkSymbols hs
  obtain ⟨s0, s1, s2, s3⟩ := hs
  rw [checkSum_eq]
  simp only [checkSymbols] at *
  simp only [synGF, toGF_xor, toGF_gfMul 4 (by decide) _ s0, toGF_gfMul 0xB (by decide) _ k1, toGF_gfMul 0xE (by decide) _ k2,
    toGF_gfMul 3 (by decide) _ k3, Prod.mk_add_mk]
  generalize toGF s.1 = a, toGF s.2.1 = b, toGF s.2.2.1 = c, toGF s.2.2.2 = d
  refine Prod.ext ?_ (Prod.ext ?_ (Prod.ext ?_ ?_)) <;> dsimp only [Prod.fst_zero, Prod.snd_zero]
  · linear_combination (a + b + c + toGF 4 * a) * two_eq_zero
  · linear_combination b * two_eq_zero
  · linear_combination (c + toGF 4 * a + toGF 4 * (b + c + toGF 4 * a)) * two_eq_zero
  · linear_combination (d + toGF 0xB * (a + b + (c + toGF 4 * a)) + toGF 0xE * b + toGF 3 * (c + toGF 4 * a)) * two_eq_zero

/-- The check symbols of R32 make the syndrome zero. -/
theorem syndrome_checkOf (v : Sector) : syndrome (v, checkOf v) = (0, 0, 0, 0) := by
  obtain ⟨hin, hsum⟩ := syndrome_eq_dataSyn_add (v, checkOf v)
  obtain ⟨k0, k1, k2, k3⟩ := fld_checkOf v
  refine synGF_injOn hin (by simp [InField]) ?_
  rw [hsum, synGF_zero, ← synGF_add_checkSum (dataSyn_sum v).1, checkSum, ← k0, ← k1, ← k2, ← k3]
  simp only [Finset.sum_range_succ, Finset.sum_range_zero, zero_add]

/-! ### The quadric -/

/-- The form g of R31 over GF(16). -/
def formGF (a b : GF16) : GF16 := a * a + a * b + toGF 8 * (b * b)

/-- The form x0 x3 + g(x1, x2), whose zeros are the quadric of R31. -/
def quadric (x : GF16 × GF16 × GF16 × GF16) : GF16 := x.1 * x.2.2.2 + formGF x.2.1 x.2.2.1

theorem toGF_gfG {a b : Nat} (ha : a < 16) (hb : b < 16) : toGF (gfG a b) = formGF (toGF a) (toGF b) := by
  simp only [gfG, formGF, toGF_xor, toGF_gfMul a ha a ha, toGF_gfMul a ha b hb, toGF_gfMul b hb b hb,
    toGF_gfMul 8 (by decide) _ (gfMul_lt b hb b hb)]

theorem quadric_smul (c : GF16) (x : GF16 × GF16 × GF16 × GF16) : quadric (c • x) = c * c * quadric x := by
  simp only [quadric, formGF, Prod.smul_fst, Prod.smul_snd, smul_eq_mul]; ring

/-- On two points of the quadric the form is a multiple of its value at their sum. -/
theorem quadric_smul_add_smul {x y : GF16 × GF16 × GF16 × GF16} (hx : quadric x = 0) (hy : quadric y = 0) (e f : GF16) :
    quadric (e • x + f • y) = e * f * quadric (x + y) := by
  simp only [quadric, formGF, Prod.smul_fst, Prod.smul_snd, Prod.fst_add, Prod.snd_add, smul_eq_mul] at *
  linear_combination (e * e - e * f) * hx + (f * f - e * f) * hy

theorem quadric_affine {a b : Nat} (ha : a < 16) (hb : b < 16) : quadric (synGF (1, a, b, gfG a b)) = 0 := by
  simp only [quadric, synGF, toGF_one, one_mul, toGF_gfG ha hb, add_self_GF]

theorem quadric_col {j : Nat} (hj : j < 68) : quadric (col j) = 0 := by
  by_cases h64 : j = 64
  · subst h64; simp [quadric, formGF, col, synGF, hcol_64]
  · obtain ⟨a, ha, b, hb, h⟩ := hcol_affine hj h64
    rw [col, h, quadric_affine ha hb]

/-- The sum of two points (1, a, b, g(a, b)) lies on the quadric only if they are the same, because g has no other zero. -/
theorem quadric_affine_add_ne_zero {a b c d : Nat} (ha : a < 16) (hb : b < 16) (hc : c < 16) (hd : d < 16)
    (hne : ¬ (a = c ∧ b = d)) : quadric (synGF (1, a, b, gfG a b) + synGF (1, c, d, gfG c d)) ≠ 0 := by
  have hac : a ^^^ c < 16 := xor_lt_16 ha hc
  have hbd : b ^^^ d < 16 := xor_lt_16 hb hd
  intro h
  simp only [quadric, synGF, Prod.mk_add_mk, add_self_GF, zero_mul, zero_add, ← toGF_xor, ← toGF_gfG hac hbd] at h
  have hz := toGF_injOn _ (gfG_lt hac hbd) 0 (by decide) (h.trans toGF_zero.symm)
  obtain ⟨h1, h2⟩ := gfG_anisotropic _ hac _ hbd hz
  exact hne ⟨Nat.xor_eq_zero_iff.mp h1, Nat.xor_eq_zero_iff.mp h2⟩

theorem quadric_col_add_col_64 {j : Nat} (hj : j < 68) (h64 : j ≠ 64) : quadric (col j + col 64) = 1 := by
  obtain ⟨a, ha, b, hb, h⟩ := hcol_affine hj h64
  simp only [quadric, col, synGF, h, hcol_64, Prod.mk_add_mk, toGF_zero, toGF_one, add_zero, one_mul, toGF_gfG ha hb]
  rw [add_right_comm, add_self_GF, zero_add]

theorem quadric_col_add_col_ne_zero {j k : Nat} (hj : j < 68) (hk : k < 68) (hjk : j ≠ k) : quadric (col j + col k) ≠ 0 := by
  by_cases hj64 : j = 64
  · subst hj64; rw [add_comm, quadric_col_add_col_64 hk hjk.symm]; exact one_ne_zero
  by_cases hk64 : k = 64
  · subst hk64; rw [quadric_col_add_col_64 hj hj64]; exact one_ne_zero
  obtain ⟨a, ha, b, hb, hab⟩ := hcol_affine hj hj64
  obtain ⟨c, hc, d, hd, hcd⟩ := hcol_affine hk hk64
  rw [col, col, hab, hcd]
  refine quadric_affine_add_ne_zero ha hb hc hd fun ⟨h1, h2⟩ => hjk (hcol_injOn hj hk ?_)
  rw [hab, hcd, h1, h2]

/-! ### The decoder on a syndrome -/

theorem decodeSector_of_syndrome_zero {x : Sector × BitVec 16} (h : syndrome x = (0, 0, 0, 0)) :
    decodeSector x.1 x.2 = .clean := by
  rw [decodeSector, ← syndrome, h]; rfl

/-- A syndrome e (1, a, b, t) is looked up by (a, b, t) (R33). -/
theorem decodeSector_of_syndrome_affine {x : Sector × BitVec 16} {e a b t : Nat} (he0 : 0 < e) (he : e < 16) (ha : a < 16)
    (hb : b < 16) (ht : t < 16) (h : syndrome x = scale e (1, a, b, t)) : decodeSector x.1 x.2 =
      if b ≤ 3 ∧ t = gfG a b then .corrected (16 * b + a) e else if (a, b, t) = (0, 4, 0xB) then .corrected 65 e
      else if (a, b, t) = (1, 4, 0xE) then .corrected 66 e else if (a, b, t) = (0, 5, 3) then .corrected 67 e
      else .uncorrectable := by
  rw [decodeSector, ← syndrome, h]
  simp only [scale, gfMul_one e he, Prod.mk.injEq, he0.ne', false_and, if_false, gfDiv_gfMul e he he0 _ ha,
    gfDiv_gfMul e he he0 _ hb, gfDiv_gfMul e he he0 _ ht]

/-- A syndrome that is a multiple of a column names the column and the multiple (R33). -/
theorem decodeSector_of_syndrome_scale {x : Sector × BitVec 16} {j e : Nat} (hj : j < 68) (he0 : 0 < e) (he : e < 16)
    (h : syndrome x = scale e (hcol j)) : decodeSector x.1 x.2 = .corrected j e := by
  have look {a b : Nat} (ha : a < 16) (hb : b < 16) (hc : hcol j = (1, a, b, gfG a b)) :=
    decodeSector_of_syndrome_affine he0 he ha hb (gfG_lt ha hb) (hc ▸ h)
  rcases (by omega : j < 64 ∨ j = 64 ∨ j = 65 ∨ j = 66 ∨ j = 67) with h64 | rfl | rfl | rfl | rfl
  · rw [look (a := j % 16) (b := j / 16) (by omega) (by omega) (if_pos h64), if_pos ⟨by omega, rfl⟩, Nat.div_add_mod]
  · rw [decodeSector, ← syndrome, h]
    simp [scale, hcol_64, gfMul_one e he, gfMul_zero, he0.ne']
  · exact look (a := 0) (b := 4) (by decide) (by decide) rfl
  · exact look (a := 1) (b := 4) (by decide) (by decide) rfl
  · exact look (a := 0) (b := 5) (by decide) (by decide) rfl

theorem exists_scale_affine {s : Syn} (hs : InField s) (h0 : 0 < s.1) :
    ∃ a < 16, ∃ b < 16, ∃ t < 16, s = scale s.1 (1, a, b, t) := by
  obtain ⟨s0, s1, s2, s3⟩ := hs
  refine ⟨_, gfDiv_lt _ s1 _ s0, _, gfDiv_lt _ s2 _ s0, _, gfDiv_lt _ s3 _ s0, ?_⟩
  simp only [scale, gfMul_one _ s0, gfMul_gfDiv _ s0 h0 _ s1, gfMul_gfDiv _ s0 h0 _ s2, gfMul_gfDiv _ s0 h0 _ s3]

/-- What the decoder takes for no error or for one is a multiple of a column. -/
theorem syndrome_of_accepted {x : Sector × BitVec 16} (hu : decodeSector x.1 x.2 ≠ .uncorrectable)
    (hp : decodeSector x.1 x.2 ≠ .poisoned) : ∃ j < 68, ∃ e < 16, syndrome x = scale e (hcol j) := by
  have hin := inField_syndrome x
  obtain ⟨s0, -, -, s3⟩ := id hin
  rcases Nat.eq_zero_or_pos (syndrome x).1 with h0 | h0
  · rw [decodeSector, ← syndrome] at hu hp
    dsimp only at hu hp
    split_ifs at hu hp with hz hm h12
    · exact ⟨0, by decide, 0, by decide, hz.trans rfl⟩
    · exact absurd rfl hp
    · refine ⟨64, by decide, _, s3, ?_⟩
      obtain ⟨h1, h2⟩ := h12
      simp only [scale, hcol_64, gfMul_zero, gfMul_one _ s3]
      exact Prod.ext h0 (Prod.ext h1 (Prod.ext h2 rfl))
    · exact absurd rfl hu
  · obtain ⟨a, ha, b, hb, t, ht, hs⟩ := exists_scale_affine hin h0
    rw [decodeSector_of_syndrome_affine h0 s0 ha hb ht hs] at hu
    split_ifs at hu with hd h65 h66 h67
    · obtain ⟨hb3, rfl⟩ := hd
      refine ⟨16 * b + a, by omega, _, s0, hs.trans (congrArg _ ?_)⟩
      rw [hcol, if_pos (by omega), Nat.mul_add_mod, Nat.mod_eq_of_lt ha, Nat.mul_add_div (by decide), Nat.div_eq_of_lt ha, add_zero]
    · exact ⟨65, by decide, _, s0, by rwa [h65] at hs⟩
    · exact ⟨66, by decide, _, s0, by rwa [h66] at hs⟩
    · exact ⟨67, by decide, _, s0, by rwa [h67] at hs⟩
    · exact absurd rfl hu

theorem quadric_syndrome_of_accepted {x : Sector × BitVec 16} (hu : decodeSector x.1 x.2 ≠ .uncorrectable)
    (hp : decodeSector x.1 x.2 ≠ .poisoned) : quadric (synGF (syndrome x)) = 0 := by
  obtain ⟨j, hj, e, he, hs⟩ := syndrome_of_accepted hu hp
  rw [hs, synGF_scale he (inField_hcol hj), quadric_smul, ← col, quadric_col hj, mul_zero]

/-! ### The obligation -/

theorem correctData_damage (v : Sector) (k : BitVec 16) (j e : Nat) : correctData (damage j e (v, k)).1 j e = v := by
  unfold correctData damage
  split_ifs <;> simp

theorem decodeSector_one_error (v : Sector) {j e : Nat} (hj : j < 68) (he0 : 0 < e) (he : e < 16) :
    let x := damage j e (v, checkOf v)
    decodeSector x.1 x.2 = .corrected j e := by
  refine decodeSector_of_syndrome_scale hj he0 he
    (synGF_injOn (inField_syndrome _) (inField_scale he (inField_hcol hj)) ?_)
  rw [synGF_syndrome_damage _ hj he, syndrome_checkOf, synGF_zero, zero_add, synGF_scale he (inField_hcol hj), col]

theorem decodeSector_two_errors (v : Sector) {j e k f : Nat} (hjk : j < k) (hk : k < 68) (he0 : 0 < e) (he : e < 16)
    (hf0 : 0 < f) (hf : f < 16) : let x := damage k f (damage j e (v, checkOf v))
    decodeSector x.1 x.2 = .uncorrectable ∨ decodeSector x.1 x.2 = .poisoned := by
  intro x
  have hj : j < 68 := hjk.trans hk
  have hsyn : synGF (syndrome x) = toGF e • col j + toGF f • col k := by
    rw [synGF_syndrome_damage _ hk hf, synGF_syndrome_damage _ hj he, syndrome_checkOf, synGF_zero, zero_add]
  have hoff : quadric (synGF (syndrome x)) ≠ 0 := by
    rw [hsyn, quadric_smul_add_smul (quadric_col hj) (quadric_col hk)]
    rw [ne_eq, ((isUnit_toGF he0 he).mul (isUnit_toGF hf0 hf)).mul_right_eq_zero]
    exact quadric_col_add_col_ne_zero hj hk hjk.ne
  by_contra h
  rw [not_or] at h
  exact hoff (quadric_syndrome_of_accepted h.1 h.2)

/-- Settles O31: one error leaves a multiple of a column, and two leave the quadric on which the decoder accepts. -/
theorem checkCode : Obligations.CheckCode := by
  unfold Obligations.CheckCode
  exact fun v => ⟨decodeSector_of_syndrome_zero (x := (v, checkOf v)) (syndrome_checkOf v),
    fun j e hj he0 he => ⟨decodeSector_one_error v hj he0 he, correctData_damage v (checkOf v) j e⟩,
    fun j e k f hjk hk he0 he hf0 hf => decodeSector_two_errors v hjk hk he0 he hf0 hf⟩

end Sys2Proof.CheckCode

namespace Sys2Proof.GroupInstr

open Machine Says

/-! ## O6 and O9: instructions that write a value or a predicate of each acting lane

Each instruction is reduced to `laneEffect` or `predEffect`, whose whole effect `Sys2Proof/Laws/Lanes.lean` states; what is left
is that the form of an instruction that runs was legal, and that the model's value is the one that the statement names. -/

/-! ### What the checks of an issue leave -/

theorem formTrap_eq_none_iff {e : Env} {i : Form} : formTrap e i = none ↔
    i.legal = true ∧ (i.uniform = true → (i.dsts ++ i.srcs.map (·.1)).all Use.uni = true) ∧
    ((i.dsts ++ i.srcs.map (·.1)).all fun u => u.inRange e.l.regs) = true := by
  simp only [formTrap, ite_eq_iff, reduceCtorEq, and_false, false_or, and_true, Bool.or_eq_true, Bool.not_eq_true',
    Bool.and_eq_true, not_or, not_and, Bool.not_eq_false, and_assoc]

theorem runs_legal {s : State} {r : GroupRef} {i : Form} {e : Env} (h : Runs s r i e) : i.legal = true :=
  (formTrap_eq_none_iff.mp h.legal).1

theorem formSetpI_legal_iff {f : IFields} : (formSetpI f).legal = true ↔
    fld f.dst 3 4 < 6 ∧ bit f.dst 8 = false ∧ (Role.reg 1).ok f.srcA f.reuseA = true := by
  simp [formSetpI, iForm, Role.ok, and_assoc]

theorem rForm_legal_iff {f : RFields} {d a b c : Role} {modOk uniform noGuard : Bool} :
    (rForm f d a b c modOk uniform noGuard).legal = true ↔
      modOk = true ∧ d.ok f.dst false = true ∧ a.ok f.srcA f.reuseA = true ∧ b.ok f.srcB f.reuseB = true ∧
      c.ok f.srcC f.reuseC = true ∧ (noGuard = false ∨ f.guard.en = false) := by
  simp [rForm, and_assoc]

theorem role_pred_lt {code : BitVec 9} {reuse : Bool} (h : Role.pred.ok code reuse = true) : code.toNat < 8 := by
  simp only [Role.ok, Bool.and_eq_true, decide_eq_true_eq] at h
  exact h.1

theorem modStd_opx_lt {f : RFields} {types : List Nat} {rm sat : Bool} {n : Nat} (h : modStd f types rm sat n = true) :
    rOpx f < n := by
  simp only [modStd, Bool.and_eq_true, decide_eq_true_eq] at h
  exact h.2

theorem isS_uni {code : BitVec 9} {n : Nat} (h : isS code = true) : (Use.mk code n).uni = true := by
  simp only [isS, Bool.and_eq_true] at h
  exact h.1

/-- An instruction that runs also runs as a uniform one when its registers are all uniform. -/
theorem runs_withUniform {s : State} {r : GroupRef} {i : Form} {e : Env} {b : Bool} (h : Runs s r i e)
    (hu : b = true → (i.dsts ++ i.srcs.map (·.1)).all Use.uni = true) : Runs s r { i with uniform := b } e := by
  obtain ⟨hlegal, -, hrange⟩ := formTrap_eq_none_iff.mp h.legal
  exact ⟨h.ready, h.clear, h.fetch, formTrap_eq_none_iff.mpr ⟨hlegal, hu, hrange⟩⟩

theorem ready_quad {s : State} {r : GroupRef} {e : Env} (h : ready? s r = some e) : e.quad = r.quad := by
  unfold ready? at h
  split at h
  · split at h
    · cases h
    · split at h
      · cases h
      · split at h
        · cases h; rfl
        · cases h
  · cases h

/-! ### Finishing an instruction -/

section Finishing

variable {c : Instr} {s : State} {r : GroupRef} {i j : Form} {e : Env} {eff : Env → Except Trap State}

/-- An instruction whose effect is a `laneEffect` that raises no flag, under a form `j` that passes the checks as its own does. -/
theorem writesResult_of_laneEffect {dst : Use} {val : Nat → Group → Nat} {v : Nat → Nat} (hs : Canonical s) (hr : Runs s r i e)
    (hj : Runs s r j e) (hx : exec c s = issue s r i eff) (heff : eff e = laneEffect j dst (fun l g => (val l g, 0)) e)
    (hu : dst.ok = true) (hn : dst.n = 1 ∨ dst.n = 2) (huni : isS dst.code = true → j.uniform = true)
    (hv : ∀ l, val l e.g % 2 ^ (32 * dst.n) = v l) : WritesResult c s e j dst v 0 := by
  have hxj : exec c s = issue s r j (laneEffect j dst fun l g => (val l g, 0)) := by
    rw [hx, issue_runs hr, issue_runs hj, heff]
  have h := laneEffect_writes hs hj hxj hu (hn.imp_right Or.inl) huni
  rwa [flagsOf_none, funext hv] at h

/-- An instruction whose effect is a `predEffect` that raises no flag. -/
theorem writesPredicate_of_predEffect {p : Nat} {val : Nat → Group → Bool} {v : Nat → Bool} (hs : Canonical s)
    (hr : Runs s r i e) (hx : exec c s = issue s r i eff) (heff : eff e = predEffect i p (fun l g => (val l g, 0)) e)
    (hp : p < 8) (hv : ∀ l, val l e.g = v l) : WritesPredicate c s e i p v 0 := by
  have hxi : exec c s = issue s r i (predEffect i p fun l g => (val l g, 0)) := by
    rw [hx, issue_runs hr, issue_runs hr, heff]
  have h := predEffect_writes hs hr hxi hp
  rwa [flagsOf_none, funext hv] at h

/-- A group that has moved on with other sticky flags keeps its values and its place in the launch. -/
theorem movesOn_of_groupMoved {t : State} {g : Group} {fl : BitVec 5} (hx : exec c s = .next t) (hf : ReadsOnly s e.s)
    (ho : OnlyGroup e.s t e.c e.k) (hg : t.group e.c e.k = some g) (hm : GroupMoved { e.g with flags := fl } g)
    (hp : e.g.stack = [] → g.pc = e.g.pc + 8 ∧ g.active = e.g.active ∧ g.stack = []) :
    MovesOn c s t e g ∧ Advanced e.g g ∧ g.flags = fl := by
  obtain ⟨hv, hu, hpred, hfl⟩ := hm.regs
  refine ⟨⟨hx, hf, ho, hg, fun l code => ?_, fun l k => ?_⟩, ⟨hp, ?_⟩, hfl⟩
  · rw [Group.reg, hv, hu]; rfl
  · rw [Group.pred, hpred]; rfl
  · unfold GroupMoved at hm
    rw [hm]
    exact ⟨rfl, rfl, rfl, rfl, rfl, rfl, rfl⟩

end Finishing

/-! ### Operands and values -/

theorem run_lt (g : Group) (l : Nat) (u : Use) : g.run l u < 2 ^ (32 * u.n) := by
  unfold Group.run
  split
  · exact Nat.two_pow_pos _
  · generalize u.n = n
    induction n with
    | zero => simp
    | succ n ih =>
      rw [List.range_succ, List.foldl_append, List.foldl_cons, List.foldl_nil]
      refine Nat.or_lt_two_pow (ih.trans_le (Nat.pow_le_pow_right (by decide) (by omega))) ?_
      rw [Nat.shiftLeft_eq, Nat.mul_succ, Nat.pow_add, Nat.mul_comm (2 ^ (32 * n))]
      exact Nat.mul_lt_mul_of_pos_right (BitVec.isLt _) (Nat.two_pow_pos _)

/-- A run of one register is that register, which reads 0 for ZR (R101). -/
theorem run_one (g : Group) (l : Nat) (code : BitVec 9) : g.run l ⟨code, 1⟩ = (g.reg l code.toNat).toNat := by
  unfold Group.run
  split
  · next h => subst h; rfl
  · simp

theorem thirtyTwo_mul_tRegs (t : Nat) : 32 * tRegs t = tWidth t := by
  unfold tRegs tWidth
  split <;> rfl

theorem sgn_eq_toInt {w x : Nat} (hw : 0 < w) (hx : x < 2 ^ w) : sgn w x = (BitVec.ofNat w x).toInt := by
  obtain ⟨k, rfl⟩ := Nat.exists_eq_add_of_lt hw
  rw [sgn, BitVec.toInt_eq_toNat_cond, BitVec.toNat_ofNat, Nat.mod_eq_of_lt hx]
  have hcast : ((2 ^ k : Nat) : Int) = 2 ^ k := Nat.cast_pow 2 k
  simp only [Nat.zero_add, Nat.add_sub_cancel, Nat.pow_succ, Int.pow_succ, Nat.cast_mul, hcast] at hx ⊢
  generalize (2 : Int) ^ k = p at hcast ⊢
  split <;> split <;> omega

/-- The model reads an operand of an integer type as the statements do. -/
theorem tVal_eq_asInt {t x : Nat} (hx : x < 2 ^ tWidth t) : tVal t x = asInt t x := by
  have hw : 0 < tWidth t := by unfold tWidth; split <;> decide
  rw [tVal, asInt, sgn_eq_toInt hw hx]

theorem tVal_run (e : Env) (t l : Nat) (code : BitVec 9) :
    tVal t (e.g.run l ⟨code, tRegs t⟩) = asInt t (src e code (tRegs t) l) :=
  tVal_eq_asInt (thirtyTwo_mul_tRegs t ▸ run_lt e.g l ⟨code, tRegs t⟩)

/-- `setp.i` reads a 32-bit operand as U32 or S32. -/
theorem setpI_val_eq_asInt {unsigned : Bool} {x : Nat} (hx : x < 2 ^ 32) :
    (if unsigned then (x : Int) else sgn 32 x) = asInt (if unsigned then tU32 else tS32) x := by
  cases unsigned
  · exact tVal_eq_asInt (t := tS32) hx
  · rfl

theorem cmpInt_eq_relation {opx : Nat} (h : opx < 6) (a b : Int) : cmpInt opx a b = relation opx a b := by
  match opx, h with
  | 0, _ => rfl
  | 1, _ => simp [cmpInt, relation, bne, beq_eq_decide]
  | 2, _ | 3, _ | 4, _ | 5, _ => rfl

/-! ### Predicates (R113, R115) -/

section Predicates

variable {s : State} {r : GroupRef} {f : RFields} {e : Env}

theorem exec_setp : exec (.setp r f) s = issue s r (formSetp f) (predEffect (formSetp f) f.dst.toNat fun l g =>
    (cmpInt (rOpx f) (tVal (rTyp f) (g.run l ⟨f.srcA, regs f⟩)) (tVal (rTyp f) (g.run l ⟨f.srcB, regs f⟩)), 0)) := rfl

theorem exec_setpI {f : IFields} :
    exec (.setpI r f) s = issue s r (formSetpI f) (predEffect (formSetpI f) (fld f.dst 0 3) fun l g =>
      (cmpInt (fld f.dst 3 4) (if bit f.dst 7 then (g.run l ⟨f.srcA, 1⟩ : Int) else sgn 32 (g.run l ⟨f.srcA, 1⟩))
        (if bit f.dst 7 then (f.imm.toNat : Int) else sgn 32 f.imm.toNat), 0)) := rfl

theorem exec_plop : exec (.plop r f) s = issue s r (formPlop f) (predEffect (formPlop f) f.dst.toNat fun l g =>
    ((rOpx f).testBit (2 * b2n (g.pred l f.srcA.toNat) + b2n (g.pred l f.srcB.toNat)), 0)) := rfl

theorem setp_writes (hs : Canonical s) (hr : Runs s r (formSetp f) e) :
    WritesPredicate (.setp r f) s e (formSetp f) f.dst.toNat (fun l =>
      relation (rOpx f) (asInt (rTyp f) (src e f.srcA (regs f) l)) (asInt (rTyp f) (src e f.srcB (regs f) l))) 0 := by
  obtain ⟨hmod, hdst, -⟩ := rForm_legal_iff.mp (runs_legal hr)
  refine writesPredicate_of_predEffect hs hr exec_setp rfl (role_pred_lt hdst) fun l => ?_
  rw [cmpInt_eq_relation (modStd_opx_lt hmod), tVal_run, tVal_run]

theorem setpI_writes {f : IFields} (hs : Canonical s) (hr : Runs s r (formSetpI f) e) :
    WritesPredicate (.setpI r f) s e (formSetpI f) (fld f.dst 0 3) (fun l =>
      let t := if bit f.dst 7 then tU32 else tS32
      relation (fld f.dst 3 4) (asInt t (src e f.srcA 1 l)) (asInt t f.imm.toNat)) 0 := by
  obtain ⟨hcond, -, -⟩ := formSetpI_legal_iff.mp (runs_legal hr)
  refine writesPredicate_of_predEffect hs hr exec_setpI rfl (Nat.mod_lt _ (by decide)) fun l => ?_
  rw [cmpInt_eq_relation hcond, setpI_val_eq_asInt (run_lt e.g l ⟨f.srcA, 1⟩), setpI_val_eq_asInt f.imm.isLt]
  rfl

theorem plop_writes (hs : Canonical s) (hr : Runs s r (formPlop f) e) :
    WritesPredicate (.plop r f) s e (formPlop f) f.dst.toNat (fun l =>
      (rOpx f).testBit (2 * b2n (e.g.pred l f.srcA.toNat) + b2n (e.g.pred l f.srcB.toNat))) 0 := by
  obtain ⟨-, hdst, -⟩ := rForm_legal_iff.mp (runs_legal hr)
  exact writesPredicate_of_predEffect hs hr exec_plop rfl (role_pred_lt hdst) fun l => rfl

/-- What `vote` does behind the checks of an issue, for its two predicate operations and for the ballot. -/
def voteEffect (f : RFields) (e : Env) : Except Trap State :=
  if rOpx f = 2 then
    laneEffect { voteForm f with uniform := isS f.dst } ⟨f.dst, 1⟩
      (fun _ _ => ((maskOf (ones e (voteForm f) f.srcA.toNat)).toNat, 0)) e
  else
    predEffect (voteForm f) f.dst.toNat (fun _ _ =>
      (if rOpx f = 0 then decide (ones e (voteForm f) f.srcA.toNat ≠ [])
       else decide (ones e (voteForm f) f.srcA.toNat = e.acts (voteForm f)), 0)) e

theorem exec_vote : exec (.vote r f) s = issue s r (voteForm f) (voteEffect f) := rfl

theorem vote_dst_ok (hr : Runs s r (voteForm f) e) : (if rOpx f = 2 then Role.reg 1 else .pred).ok f.dst false = true := by
  obtain ⟨-, hdst, -⟩ := rForm_legal_iff.mp (runs_legal hr)
  exact hdst

theorem vote_pred_lt (hr : Runs s r (voteForm f) e) (h : rOpx f ≠ 2) : f.dst.toNat < 8 := by
  have hdst := vote_dst_ok hr
  rw [if_neg h] at hdst
  exact role_pred_lt hdst

theorem vote_any_writes (hs : Canonical s) (hr : Runs s r (voteForm f) e) (h : rOpx f = 0) :
    WritesPredicate (.vote r f) s e (voteForm f) f.dst.toNat (fun _ => ones e (voteForm f) f.srcA.toNat != []) 0 := by
  refine writesPredicate_of_predEffect (val := fun _ _ => decide (ones e (voteForm f) f.srcA.toNat ≠ [])) hs hr exec_vote ?_
    (vote_pred_lt hr (by omega)) fun _ => ?_
  · rw [voteEffect, if_neg (by omega)]
    simp only [h, if_true]
  · rw [Bool.eq_iff_iff]; simp

/-- Every acting lane holds 1 when the lanes that hold 1 are the acting ones. -/
theorem vote_all_writes (hs : Canonical s) (hr : Runs s r (voteForm f) e) (h : rOpx f = 1) :
    WritesPredicate (.vote r f) s e (voteForm f) f.dst.toNat
      (fun _ => (e.acts (voteForm f)).all fun l => e.g.pred l f.srcA.toNat) 0 := by
  refine writesPredicate_of_predEffect
    (val := fun _ _ => decide (ones e (voteForm f) f.srcA.toNat = e.acts (voteForm f))) hs hr exec_vote ?_
    (vote_pred_lt hr (by omega)) fun _ => ?_
  · rw [voteEffect, if_neg (by omega)]
    simp only [h, Nat.one_ne_zero, if_false]
  · rw [Bool.eq_iff_iff, decide_eq_true_eq, List.all_eq_true]
    exact List.filter_eq_self

/-- The ballot goes to one register, uniform when DST names an s register, which the checks of R104 then pass. -/
theorem vote_ballot_writes (hs : Canonical s) (hr : Runs s r (voteForm f) e) (h : rOpx f = 2) :
    WritesResult (.vote r f) s e { voteForm f with uniform := isS f.dst } ⟨f.dst, 1⟩
      (fun _ => (maskOf (ones e (voteForm f) f.srcA.toNat)).toNat) 0 := by
  have hdst := vote_dst_ok hr
  rw [if_pos h] at hdst
  have huses : (voteForm f).dsts ++ (voteForm f).srcs.map (·.1) = [⟨f.dst, 1⟩] := by
    rw [voteForm, if_pos h]
    rfl
  have hj : Runs s r { voteForm f with uniform := isS f.dst } e :=
    runs_withUniform hr fun hS => by
      rw [huses, List.all_cons, isS_uni hS]
      rfl
  refine writesResult_of_laneEffect (val := fun _ _ => (maskOf (ones e (voteForm f) f.srcA.toNat)).toNat) hs hr hj exec_vote ?_
    hdst (Or.inl rfl) id fun _ => Nat.mod_eq_of_lt (BitVec.isLt _)
  rw [voteEffect, if_pos h]

end Predicates

/-- Settles O6: each instruction is a `predEffect`, or a `laneEffect` for the ballot of `vote`. -/
theorem predicates : Obligations.Predicates := by
  unfold Obligations.Predicates
  exact ⟨fun s r f e hs hr => setp_writes hs hr, fun s r f e hs hr => setpI_writes hs hr, fun s r f e hs hr => plop_writes hs hr,
    fun s r f e hs hr => ⟨vote_any_writes hs hr, vote_all_writes hs hr, vote_ballot_writes hs hr⟩⟩

/-! ### Special values, sticky flags and the exchange between lanes (R111, R112, R114) -/

section SpecialValues

variable {s : State} {r : GroupRef} {f : RFields} {e : Env}

/-- The special values of a lane in the order of their selectors (R111). -/
def specials (e : Env) (core quad lane : Nat) : List Nat :=
  let b := ((blockOf e.s e.c e.g).map (·.number)).getD 0
  [lane, e.g.index, b, b % e.l.gridX, b / e.l.gridX % e.l.gridY, b / (e.l.gridX * e.l.gridY), core, quad, e.g.active.toNat,
   e.s.power.now, e.s.desk.steepNumber]

theorem special_eq_getD (e : Env) (sel lane : Nat) : special e sel lane = (specials e e.c e.quad lane).getD sel 0 := by
  match sel with
  | 0 | 1 | 2 | 3 | 4 | 5 | 6 | 7 | 8 | 9 | 10 => rfl
  | _ + 11 => rfl

/-- Reading leaves the special values as they are. -/
theorem specials_readsOnly {t : State} (h : ReadsOnly s t) (e : Env) (core quad lane : Nat) :
    specials { e with s := t } core quad lane = specials (e.before s) core quad lane := by
  unfold ReadsOnly at h
  rw [h]
  rfl

theorem svRegs_cases (sel : Nat) : svRegs sel = 1 ∨ svRegs sel = 2 := by
  unfold svRegs
  split
  · exact Or.inr rfl
  · exact Or.inl rfl

theorem exec_rdSv : exec (.rdSv r f) s = issue s r (rdSvForm f) (fun e =>
    laneEffect (rdSvForm f) ⟨f.dst, svRegs f.srcA.toNat⟩ (fun l _ => (special e f.srcA.toNat l, 0)) e) := rfl

theorem rdSv_writes (hs : Canonical s) (hr : Runs s r (rdSvForm f) e) :
    WritesResult (.rdSv r f) s e (rdSvForm f) ⟨f.dst, svRegs f.srcA.toNat⟩ (fun l =>
      (specials (e.before s) r.core r.quad l).getD f.srcA.toNat 0 % 2 ^ (32 * svRegs f.srcA.toNat)) 0 := by
  have hlegal : (rdSvForm f).legal = true := runs_legal hr
  obtain ⟨-, hdst, -⟩ := rForm_legal_iff.mp hlegal
  have hc : e.c = r.core := (ready_env hr.ready).2.1
  have hq : e.quad = r.quad := ready_quad (e := e.before s) hr.ready
  refine writesResult_of_laneEffect hs hr hr exec_rdSv rfl hdst (svRegs_cases _) id fun l => ?_
  rw [special_eq_getD, specials_readsOnly (hr.sees hs).1 e, hc, hq]

/-- The form of `flg.rd`. -/
def flgRdForm (f : RFields) : Form := rForm f (.reg 1) .unused .unused .unused (f.mod == 0) true false

theorem exec_flgRd : exec (.flgRd r f) s = issue s r (flgRdForm f)
    (laneEffect (flgRdForm f) ⟨f.dst, 1⟩ fun _ g => (g.flags.toNat, 0)) := rfl

theorem flgRd_writes (hs : Canonical s) (hr : Runs s r (flgRdForm f) e) :
    WritesResult (.flgRd r f) s e (flgRdForm f) ⟨f.dst, 1⟩
      (fun _ => e.g.flags.toNat) 0 := by
  obtain ⟨-, hdst, -⟩ := rForm_legal_iff.mp (runs_legal hr)
  refine writesResult_of_laneEffect (val := fun _ g => g.flags.toNat) hs hr hr exec_flgRd rfl hdst (Or.inl rfl)
    (fun _ => rfl) fun _ => ?_
  exact Nat.mod_eq_of_lt (e.g.flags.isLt.trans (show 2 ^ 5 < 2 ^ 32 by decide))

/-- The form of `flg.clr`. -/
def flgClrForm (f : RFields) : Form := rForm f .unused (.reg 1) .unused .unused (f.mod == 0) true false

/-- What `flg.clr` does behind the checks of an issue. -/
def flgClrEffect (f : RFields) (e : Env) : Except Trap State :=
  if e.acts (flgClrForm f) = [] then .ok (advance e (flgClrForm f) e.s)
  else .ok (withGroup e (flgClrForm f) { e.g with flags := e.g.flags &&& ~~~((e.g.reg 0 f.srcA.toNat).setWidth 5) })

theorem exec_flgClr : exec (.flgClr r f) s = issue s r (flgClrForm f) (flgClrEffect f) := rfl

theorem setWidth_reg (e : Env) (code : BitVec 9) : (e.g.reg 0 code.toNat).setWidth 5 = BitVec.ofNat 5 (src e code 1 0) := by
  rw [src, run_one]
  rfl

theorem flgClr_clears (hs : Canonical s) (hr : Runs s r (flgClrForm f) e) :
    ∃ t g, MovesOn (.flgClr r f) s t e g ∧ Advanced e.g g ∧ g.flags =
      if e.acts (flgClrForm f) = [] then e.g.flags else e.g.flags &&& ~~~(BitVec.ofNat 5 (src e f.srcA 1 0)) := by
  obtain ⟨hf, hmaps, -, hgs⟩ := hr.sees hs
  have hx := exec_flgClr (r := r) (f := f) (s := s)
  rw [issue_runs hr, flgClrEffect] at hx
  by_cases ha : e.acts (flgClrForm f) = []
  · rw [if_pos ha] at hx ⊢
    have hg : e.s.group e.c e.k = some e.g := by rw [← hgs, State.group, State.group, State.core, State.core, hf.cores]
    obtain ⟨ho, -, g, hg', hm, hp⟩ := goTo_moves e (flgClrForm f) (e.g.pc + 8) hmaps hg
    exact ⟨_, g, movesOn_of_groupMoved hx hf ho hg' hm hp⟩
  · rw [if_neg ha, setWidth_reg] at hx
    rw [if_neg ha]
    obtain ⟨ho, g, hg', hm, hp⟩ := withGroup_moves (flgClrForm f) _ hmaps
    exact ⟨_, g, movesOn_of_groupMoved hx hf ho hg' hm hp⟩

/-- The source lane that OPX selects for lane `l`, by the list of its four modes (R114, LOG 139). -/
def sourceLane (opx l b : Nat) : Int :=
  [((b % 32 : Nat) : Int), (l : Int) - b, ((l + b : Nat) : Int), ((l ^^^ (b % 32) : Nat) : Int)].getD opx 0

theorem shflLane_eq_sourceLane {opx : Nat} (h : opx < 4) (l b : Nat) : shflLane opx l b = sourceLane opx l b := by
  match opx, h with
  | 0, _ | 1, _ | 2, _ | 3, _ => rfl

/-- The form of `shfl`. -/
def shflForm (f : RFields) : Form :=
  rForm f (.reg 1) (.reg 1) (.reg 1) .unused (modStd f [0] false false 4 && isV f.dst) false false

/-- What lane `l` receives: SRC_A of its source lane, or its own when that lane does not act (R114). -/
def shflValue (f : RFields) (e : Env) (l : Nat) : Nat :=
  let m := sourceLane (rOpx f) l (src e f.srcB 1 l)
  if 0 ≤ m ∧ m.toNat ∈ e.acts (shflForm f) then src e f.srcA 1 m.toNat else src e f.srcA 1 l

theorem exec_shfl : exec (.shfl r f) s = issue s r (shflForm f) (fun e => laneEffect (shflForm f) ⟨f.dst, 1⟩ (fun l g =>
    let m := shflLane (rOpx f) l (g.reg l f.srcB.toNat).toNat
    let from_ := if 0 ≤ m ∧ (e.acts (shflForm f)).contains m.toNat then m.toNat else l
    ((g.reg from_ f.srcA.toNat).toNat, 0)) e) := rfl

theorem isV_not_isS {code : BitVec 9} (h : isV code = true) : isS code = false := by
  simp only [isV, decide_eq_true_eq] at h
  simp only [isS, Bool.and_eq_false_iff, decide_eq_false_iff_not]
  omega

theorem shfl_writes (hs : Canonical s) (hr : Runs s r (shflForm f) e) :
    WritesResult (.shfl r f) s e (shflForm f) ⟨f.dst, 1⟩ (shflValue f e) 0 := by
  obtain ⟨hmod, hdst, -⟩ := rForm_legal_iff.mp (runs_legal hr)
  obtain ⟨hstd, hv⟩ := Bool.and_eq_true_iff.mp hmod
  refine writesResult_of_laneEffect hs hr hr exec_shfl rfl hdst (Or.inl rfl)
    (fun hS => absurd hS (by simp [isV_not_isS hv])) fun l => ?_
  refine (Nat.mod_eq_of_lt (BitVec.isLt _)).trans ?_
  simp only [← run_one, List.contains_iff_mem, shflLane_eq_sourceLane (modStd_opx_lt hstd)]
  exact apply_ite (src e f.srcA 1) _ _ _

end SpecialValues

/-- Settles O9: `rd.sv`, `flg.rd` and `shfl` are each a `laneEffect`, and `flg.clr` moves its group on with fewer flags. -/
theorem specialValues : Obligations.SpecialValues := by
  unfold Obligations.SpecialValues
  exact ⟨fun s r f e hs hr => ⟨_, rfl, rdSv_writes hs hr⟩, fun s r f e hs hr => flgRd_writes hs hr,
    fun s r f e hs hr => flgClr_clears hs hr, fun s r f e hs hr => shfl_writes hs hr⟩

end Sys2Proof.GroupInstr

namespace Sys2Proof.FaultEvent

open Machine

variable {s t u : State}

/-! ## O27: what memory and translation may change -/

/-- Two states that differ in no more than memory, its caches and reservations, translation, and the accesses in flight. -/
def OnlyMemory (s t : State) : Prop :=
  t = { s with dram := t.dram, clusters := t.clusters, cores := t.cores, xlat := t.xlat, accesses := t.accesses, nextAcc := t.nextAcc }

theorem OnlyMemory.refl (s : State) : OnlyMemory s s := rfl

theorem OnlyMemory.trans (h : OnlyMemory s t) (h' : OnlyMemory t u) : OnlyMemory s u := by
  unfold OnlyMemory at *
  exact h'.trans (by rw [h])

theorem OnlyMemory.fold {β : Type} (f : State → β → State) (xs : List β) (h : OnlyMemory s t) (hf : ∀ t x, OnlyMemory t (f t x)) :
    OnlyMemory s (xs.foldl f t) :=
  foldl_keeps (OnlyMemory s) f xs h fun t x ht => ht.trans (hf t x)

/-- A fold that carries a value beside the state. -/
theorem OnlyMemory.foldWith {α β : Type} (a : α) (f : State × α → β → State × α) (xs : List β)
    (hf : ∀ r x, OnlyMemory r.1 (f r x).1) : OnlyMemory s (xs.foldl f (s, a)).1 :=
  foldl_keeps (fun r : State × α => OnlyMemory s r.1) f xs (s := (s, a)) (.refl s) fun r x hr => hr.trans (hf r x)

theorem onlyMemory_of_readsOnly (h : ReadsOnly s t) : OnlyMemory s t := by
  unfold ReadsOnly at h
  rw [h]
  rfl

theorem OnlyMemory.ctxs (h : OnlyMemory s t) : t.ctxs = s.ctxs := by rw [h]

/-- A fault's image is made of none of that. -/
theorem OnlyMemory.faultImage (h : OnlyMemory s t) (f : FaultInfo) : faultImage t f = faultImage s f := by
  rw [h]
  rfl

theorem drainLine_reads (s : State) (n line : Nat) : ReadsOnly s (drainLine s n line) :=
  ReadsOnly.fold _ _ _ fun t _ => by
    split
    · exact drainOldest_reads t n
    · exact ReadsOnly.refl t

/-- A write at the home cluster cache. -/
theorem homeWrite_reads (s : State) (line : Nat) (d : Line) (m : BitVec 128) (p : BitVec 4) (na : Bool) :
    ReadsOnly s (homeWrite s line d m p na) := by
  have hdrain := drainLine_reads s (homeOfLine line) line
  have direct (l : List Nat) (t : State) : ReadsOnly t (l.foldl (fun (s : State) i =>
      if (maskSector m i == BitVec.allOnes 32) = true then vaultWrite s (4 * line + i) (getSector d i) (bit p i) else
        vaultWrite (vaultRead s (4 * line + i)).2 (4 * line + i)
          (getSector (mergeLine (putSector 0 i (vaultRead s (4 * line + i)).1.1) d m) i)
          ((vaultRead s (4 * line + i)).1.2 || bit p i)) t) :=
    ReadsOnly.fold _ _ _ fun t i => by
      split
      · exact vaultWrite_reads t _ _ _
      · exact (vaultRead_reads t _).trans (vaultWrite_reads _ _ _ _)
  have fills (l : List Nat) (key : Nat) (t : State) : ReadsOnly t (l.foldl (fun (s : State) i =>
      if (maskSector m i == BitVec.allOnes 32 || bit ((s.cluster (homeOfLine line)).way key).valid i) = true then s
      else ccFill s (homeOfLine line) key line i (setBit 0 i true)) t) :=
    ReadsOnly.fold _ _ _ fun t i => by
      split
      · exact ReadsOnly.refl t
      · exact ccFill_reads t _ _ _ _ _
  unfold homeWrite
  dsimp only
  split
  · exact hdrain.trans (direct _ _)
  · split
    · exact (hdrain.trans (fills _ _ _)).trans (modCluster_reads _ _ _)
    · split
      · exact hdrain.trans (direct _ _)
      · exact ((hdrain.trans (ccAlloc_reads _ _ _)).trans (fills _ _ _)).trans (modCluster_reads _ _ _)

/-- Clearing reservations. -/
theorem clearGranule_memory (s : State) (g : Nat) (own : Option (Nat × Nat × Nat)) : OnlyMemory s (clearGranule s g own) := by
  have hf (f : Nat → CoreWork → CoreWork) : OnlyMemory s ((keysOf s.cores).foldl (fun s c => s.modWork c (f c)) s) :=
    .fold _ _ (.refl s) fun _ _ => rfl
  unfold clearGranule
  dsimp only
  split
  · exact hf _
  · exact (hf _).trans rfl

theorem clearGranules_memory (s : State) (gs : List Nat) (own : Nat → Option (Nat × Nat × Nat)) :
    OnlyMemory s (clearGranules s gs own) :=
  .fold _ _ (.refl s) fun t g => by
    split
    · exact clearGranule_memory t g _
    · exact .refl t

theorem dramWrite_memory (s : State) (pa : Nat) (bs : List Byte) (p : Nat → Bool) (na : Bool) : OnlyMemory s (dramWrite s pa bs p na) :=
  .foldWith 0 _ _ fun r _ => (onlyMemory_of_readsOnly (homeWrite_reads r.1 _ _ _ _ _)).trans (clearGranules_memory _ _ _)

theorem vaultPutSector_reads (s : State) (k o : Nat) (bs : List Byte) (p : Bool) : ReadsOnly s (vaultPutSector s k o bs p) := by
  unfold vaultPutSector
  split
  · exact vaultWrite_reads s _ _ _
  · exact (vaultRead_reads s k).trans (vaultWrite_reads _ _ _ _)

theorem vaultPut_memory (s : State) (pa : Nat) (bs : List Byte) (p : Nat → Bool) : OnlyMemory s (vaultPut s pa bs p) := by
  have hput : OnlyMemory s ((sectorParts pa bs.length).foldl (fun (r : State × Nat) q =>
      (vaultPutSector r.1 q.1 q.2.1 (sub bs r.2 q.2.2) (p q.1), r.2 + q.2.2)) (s, 0)).1 :=
    .foldWith 0 _ _ fun r _ => onlyMemory_of_readsOnly (vaultPutSector_reads r.1 _ _ _ _)
  unfold vaultPut
  dsimp only
  split
  · exact hput
  · exact hput.trans (clearGranules_memory _ _ _)

/-- Writing a table entry, where its node exists. -/
theorem putEntry_memory (s : State) (ctx level va : Nat) (w : DWord) : OnlyMemory s (putEntry s ctx level va w) := by
  unfold putEntry
  split
  · exact dramWrite_memory s _ _ _ _
  · exact .refl s

theorem setMigrating_memory (s : State) (ctx page : Nat) (b : Bool) : OnlyMemory s (setMigrating s ctx page b) :=
  .fold _ _ (t := setLeaves s ctx _) rfl fun t _ => (putEntry_memory t _ _ _ _).trans rfl

/-- Noting a page dirty. -/
theorem noteWrite_memory (s : State) (ctx va : Nat) (l : Leaf) : OnlyMemory s (noteWrite s ctx va l) := by
  have hput (t : State) (page : Nat) : OnlyMemory t (putDirty t ctx page) := by
    unfold putDirty
    split
    · exact dramWrite_memory t _ _ _ _
    · exact .refl t
  unfold noteWrite
  split
  · unfold noteDirty
    split
    · exact .refl s
    · split
      · exact .refl s
      · exact OnlyMemory.trans (t := setDirty s ctx _) rfl (hput _ _)
  · exact .refl s

/-- Issuing a store tile. -/
theorem issueStoreTile_memory {core str ctx launch n : Nat} {d : TsDesc} (h : issueStoreTile s core str ctx launch d n = .ok t) :
    OnlyMemory s t := by
  have hadd {α : Type} (dev : Bool) (xs : List α) (g : α → Access) (a : Access) (t : State) :
      OnlyMemory t (if dev then xs.foldl (fun s x => addAccess s (g x)) t else addAccess t a) := by
    split
    · exact .fold _ _ (.refl t) fun _ _ => rfl
    · rfl
  unfold issueStoreTile at h
  dsimp only at h
  split at h
  · cases h
  · cases h
    refine .fold _ _ (onlyMemory_of_readsOnly (lookUps_reads s _ _ _)) fun t b => ?_
    split
    · exact .refl t
    · split
      · exact .refl t
      · exact (noteWrite_memory t ctx _ _).trans (hadd _ _ _ _ _)

/-- The store tiles that complete their writes when a fault is raised. -/
theorem flushStores_memory (s : State) (ctx : Nat) : OnlyMemory s (flushStores s ctx) := by
  refine .fold _ _ (.refl s) fun t c => ?_
  split
  · exact .refl t
  split
  · exact .refl t
  split
  · exact .refl t
  refine .fold _ _ (.refl t) fun t k => ?_
  split
  · split
    · refine .fold _ _ (.refl t) fun t n => ?_
      split
      · exact issueStoreTile_memory ‹_›
      · exact .refl t
    · exact .refl t
  · exact .refl t

/-! ## O27: what keeps the contexts' fault records -/

/-- The contexts' fault records and migration sessions are kept, and their map stays canonical. -/
def KeepsRecords (s t : State) : Prop :=
  swf (fun _ => Ctx.fresh) s.ctxs = true → swf (fun _ => Ctx.fresh) t.ctxs = true ∧
    ∀ n, (t.ctx n).faultRecord = (s.ctx n).faultRecord ∧ (t.ctx n).migSession = (s.ctx n).migSession

theorem KeepsRecords.of_ctxs (h : t.ctxs = s.ctxs) : KeepsRecords s t := by
  intro hs
  simp only [State.ctx, h]
  exact ⟨hs, fun _ => ⟨trivial, trivial⟩⟩

theorem KeepsRecords.refl (s : State) : KeepsRecords s s := .of_ctxs rfl

theorem KeepsRecords.trans (h : KeepsRecords s t) (h' : KeepsRecords t u) : KeepsRecords s u := fun hs =>
  have ⟨ht, hst⟩ := h hs
  have ⟨hu, htu⟩ := h' ht
  ⟨hu, fun n => ⟨(htu n).1.trans (hst n).1, (htu n).2.trans (hst n).2⟩⟩

theorem KeepsRecords.fold {β : Type} (f : State → β → State) (xs : List β) (h : KeepsRecords s t) (hf : ∀ t x, KeepsRecords t (f t x)) :
    KeepsRecords s (xs.foldl f t) :=
  foldl_keeps (KeepsRecords s) f xs h fun t x ht => ht.trans (hf t x)

theorem OnlyMemory.keeps (h : OnlyMemory s t) : KeepsRecords s t := .of_ctxs h.ctxs

theorem keeps_of_onlyPorts (h : OnlyPorts s t) : KeepsRecords s t := .of_ctxs (by rw [h])

theorem KeepsRecords.modCtx {n : Nat} {f : Ctx → Ctx} (hr : ∀ c, (f c).faultRecord = c.faultRecord)
    (hm : ∀ c, (f c).migSession = c.migSession) : KeepsRecords s (s.modCtx n f) := fun hs =>
  ⟨swf_sput hs, fun i => by
    rw [State.ctx_modCtx _ hs]
    split
    · rename_i hi
      exact hi ▸ ⟨hr _, hm _⟩
    · exact ⟨rfl, rfl⟩⟩

/-! ### Queues -/

/-- Charging a core's time to the ledgers. -/
theorem chargeCore_keeps (s : State) (c : Nat) : KeepsRecords s (chargeCore s c) := by
  unfold chargeCore
  split
  · rename_i since l _ _
    have hledger : KeepsRecords s (s.modCtx l.ctx fun x =>
        { x with coreCycles := satAdd 64 x.coreCycles (clockOf s.power.now - clockOf since) }) := .modCtx (fun _ => rfl) fun _ => rfl
    refine hledger.trans (.of_ctxs ?_)
    dsimp only
    split <;> rfl
  · exact .refl s

theorem chargeQueue_keeps (s : State) (n : Nat) : KeepsRecords s (chargeQueue s n) :=
  .fold _ _ (.refl s) fun t c => by
    split
    · exact chargeCore_keeps t c
    · exact .refl t

theorem joinRecord_keeps {ctx page : Nat} {w : Waiter} {info : FaultInfo} {r : Joined} (h : joinRecord s ctx page w info = (r, t)) :
    KeepsRecords s t := by
  have hset := setMigrating_memory s ctx page true
  unfold joinRecord at h
  split at h
  · cases h
    split
    · exact .refl s
    · exact .of_ctxs rfl
  · split at h
    · cases h
      exact .refl s
    · dsimp only at h
      split at h <;> cases h
      · exact hset.keeps
      · exact (hset.trans (u := setRecord _ _ _) rfl).keeps.trans (keeps_of_onlyPorts (smtSend_only _ _ _))

theorem physWrite_keeps {pa tenant : Nat} {bs : List Byte} {p : Nat → Bool} {dev : Bool}
    (h : physWrite s pa bs p tenant dev = .ok t) : KeepsRecords s t := by
  unfold physWrite at h
  split at h
  · cases h
    split
    · exact (vaultPut_memory s _ _ _).keeps
    · exact (dramWrite_memory s _ _ _ _).keeps
  · split at h <;> cases h
    unfold lsWrite
    split
    · exact .refl s
    · exact .of_ctxs rfl
  · cases h
    exact .of_ctxs rfl
  · cases h

/-- Writing a queue's state record. -/
theorem writeRecord_keeps (s : State) (n : Nat) : KeepsRecords s (writeRecord s n) := by
  have hcharge := chargeQueue_keeps s n
  unfold writeRecord
  dsimp only
  split
  · exact hcharge
  have hlook := hcharge.trans (onlyMemory_of_readsOnly (lookUp_reads (chargeQueue s n) .desk ((chargeQueue s n).queue n).ctx
    ((chargeQueue s n).queue n).record)).keeps
  split
  · split
    · split
      · exact hlook.trans (.of_ctxs rfl)
      · exact hlook
    · split
      · exact (hlook.trans (noteWrite_memory _ _ _ _).keeps).trans (physWrite_keeps ‹_›)
      · exact hlook
    · exact hlook
  · split
    · exact hlook
    · rename_i hjoin
      exact hlook.trans (joinRecord_keeps hjoin)
  · exact hlook

theorem setQState_keeps (s : State) (n : Nat) (st : QState) : KeepsRecords s (setQState s n st) := by
  unfold setQState
  split
  · exact .refl s
  · dsimp only
    refine KeepsRecords.trans ?_ (writeRecord_keeps _ n)
    split
    · exact KeepsRecords.trans (t := s.modQueue n _) (.of_ctxs rfl) (keeps_of_onlyPorts (sendEvent_only _ _ _ _ _ _))
    · exact .of_ctxs rfl

theorem stopQueues_keeps (s : State) (ctx : Nat) : KeepsRecords s (stopQueues s ctx) :=
  .fold _ _ (.refl s) fun t n => KeepsRecords.trans (t := t.modQueue n _) (.of_ctxs rfl) (setQState_keeps _ n _)

/-! ### Plans and launches -/

/-- A plan that fails without a report. -/
theorem planFail_keeps (s : State) (n step : Nat) (st : Status) : KeepsRecords s (planFail s n step st false) := by
  unfold planFail sendAbort
  dsimp only
  rw [if_neg Bool.false_ne_true]
  refine KeepsRecords.trans ?_ (keeps_of_onlyPorts (peerSend_only _ _ _ _))
  exact .of_ctxs rfl

theorem failPlansOf_keeps (s : State) (ctx : Nat) : KeepsRecords s (failPlansOf s ctx) :=
  .fold _ _ (.refl s) fun t n => by
    split
    · exact planFail_keeps t n _ _
    · exact .refl t

theorem pruneGranules_keeps (s : State) : KeepsRecords s (pruneGranules s) :=
  .fold _ _ (.refl s) fun t n => by
    split
    · exact .refl t
    · exact .of_ctxs rfl

theorem dropEnded_keeps (s : State) (n : Nat) : KeepsRecords s (dropEnded s n) := by
  unfold dropEnded
  split
  · split
    · exact .of_ctxs rfl
    · exact .refl s
  · exact .refl s

theorem discardLaunch_keeps (s : State) (n : Nat) : KeepsRecords s (discardLaunch s n) := by
  unfold discardLaunch
  dsimp only
  refine KeepsRecords.trans ?_ (dropEnded_keeps _ n)
  refine KeepsRecords.trans (.trans ?_ (pruneGranules_keeps _)) (.of_ctxs rfl)
  refine .fold _ _ (.refl s) fun t c => .of_ctxs ?_
  split <;> split <;> split <;> rfl

/-! ### Grants of cores -/

theorem startLaunch_keeps {n : Nat} (h : startLaunch s n = some t) : KeepsRecords s t := by
  unfold startLaunch at h
  split at h
  · cases h
  split at h
  · cases h
    exact .refl s
  split at h
  · cases h
    exact .of_ctxs rfl
  · obtain ⟨cs, -, rfl⟩ := Option.map_eq_some_iff.mp h
    exact .of_ctxs rfl

theorem giveCore_keeps (s : State) (n c : Nat) : KeepsRecords s (giveCore s n c) := .of_ctxs rfl

theorem stopCore_keeps (s : State) (c : Nat) : KeepsRecords s (stopCore s c) := by
  unfold stopCore
  split
  · exact .refl s
  · split <;> exact .of_ctxs rfl

theorem stopForServing_keeps (s : State) (n c : Nat) : KeepsRecords s (stopForServing s n c) := by
  have hstop (away : List Nat) : KeepsRecords s (away.foldl stopCore s) := .fold _ _ (.refl s) fun t c => stopCore_keeps t c
  have hgive (t : State) : KeepsRecords t (if (t.core c).work.launch = none then giveCore t n c
      else t.modCore c fun k => { k with takenFor := some n }) := by
    split
    · exact giveCore_keeps t n c
    · exact .of_ctxs rfl
  unfold stopForServing
  exact (hstop _).trans (hgive _)

theorem grantServing_keeps (s : State) (n : Nat) : KeepsRecords s (grantServing s n) := by
  unfold grantServing
  split
  · exact .refl s
  dsimp only
  split
  · exact .refl s
  split
  · exact .refl s
  rename_i hstart
  refine .fold _ _ (.fold _ _ (startLaunch_keeps hstart) fun t c => ?_) fun t c => ?_
  · split
    · exact giveCore_keeps t n c
    · exact .refl t
  · split
    · exact stopForServing_keeps t n c
    · exact .refl t

theorem giveFill_keeps (s : State) (n c : Nat) : KeepsRecords s (giveFill s n c) := by
  unfold giveFill
  split
  · rename_i hstart
    refine .fold _ _ ((startLaunch_keeps hstart).trans (.of_ctxs ?_)) fun t c => giveCore_keeps t n c
    split <;> rfl
  · exact .refl s

theorem resumeOn_keeps (s : State) (c n : Nat) (l : Launch) : KeepsRecords s (resumeOn s c n l) := by
  unfold resumeOn
  split
  · exact .of_ctxs rfl
  dsimp only
  split
  · exact .refl s
  split
  · exact .fold _ _ (t := bindChannels s n _) (.of_ctxs rfl) fun _ _ => .of_ctxs rfl
  · exact .refl s

theorem fillCore_keeps (s : State) (c : Nat) : KeepsRecords s (fillCore s c) := by
  unfold fillCore
  split
  · exact .refl s
  split
  · exact resumeOn_keeps s c _ _
  · dsimp only
    split
    · exact giveFill_keeps s _ c
    · exact .refl s

theorem grantCores_keeps (s : State) : KeepsRecords s (grantCores s) := by
  have hserve : KeepsRecords s ((servingOrder s).foldl grantServing s) := .fold _ _ (.refl s) fun t n => grantServing_keeps t n
  unfold grantCores
  dsimp only
  split
  · exact hserve
  · exact .fold _ _ hserve fun t c => fillCore_keeps t c

/-! ## O27: the EVENT of KIND 2 (R360, R600) -/

/-- Recording the fault sets the context's record and leaves its migration session. -/
theorem recordFault_ctx (hs : swf (fun _ => Ctx.fresh) s.ctxs = true) (f : FaultInfo) :
    ((recordFault s f).ctx f.ctx).faultRecord = faultImage s f ∧ ((recordFault s f).ctx f.ctx).migSession = (s.ctx f.ctx).migSession := by
  unfold recordFault
  rw [State.ctx_modCtx _ hs, if_pos rfl]
  exact ⟨rfl, rfl⟩

theorem recordFault_wf (hs : swf (fun _ => Ctx.fresh) s.ctxs = true) (f : FaultInfo) :
    swf (fun _ => Ctx.fresh) (recordFault s f).ctxs = true :=
  swf_sput hs

/-- What a fault of a LIVE context does before its EVENT is sent (R360). -/
def faultEnds (s : State) (f : FaultInfo) : State :=
  let s := failPlansOf (stopQueues (recordFault (flushStores s f.ctx) f) f.ctx) f.ctx
  grantCores ((launchesOf s f.ctx).foldl discardLaunch s)

theorem raiseFault_live {f : FaultInfo} (h : (s.ctx f.ctx).state = .live) :
    raiseFault s f = sendEvent (faultEnds s f) ((faultEnds s f).ctx f.ctx).migSession 2 f.ctx f.status
      (leBytes 64 ((faultEnds s f).ctx f.ctx).faultRecord.toNat) := by
  simp only [raiseFault, faultEnds, h, decide_true, Bool.true_or, Bool.not_true, Bool.false_eq_true, if_false, if_true]

theorem faultEnds_keeps (s : State) (f : FaultInfo) : KeepsRecords (recordFault (flushStores s f.ctx) f) (faultEnds s f) := by
  unfold faultEnds
  refine KeepsRecords.trans (.fold _ _ ?_ discardLaunch_keeps) (grantCores_keeps _)
  exact (stopQueues_keeps _ _).trans (failPlansOf_keeps _ _)

/-- By then the context holds the fault's image, made of the state that raised it, and its own migration session. -/
theorem faultEnds_ctx (hs : swf (fun _ => Ctx.fresh) s.ctxs = true) (f : FaultInfo) :
    ((faultEnds s f).ctx f.ctx).faultRecord = faultImage s f ∧ ((faultEnds s f).ctx f.ctx).migSession = (s.ctx f.ctx).migSession := by
  have hflush := flushStores_memory s f.ctx
  obtain ⟨hsf, hkeep⟩ := hflush.keeps hs
  obtain ⟨hrec, hses⟩ := recordFault_ctx hsf f
  obtain ⟨hrec', hses'⟩ := (faultEnds_keeps s f (recordFault_wf hsf f)).2 f.ctx
  exact ⟨hrec'.trans (hrec.trans (hflush.faultImage f)), hses'.trans (hses.trans (hkeep f.ctx).2)⟩

/-- The EVENT of KIND 2 carries the record. -/
theorem raiseFault_sends_record (hs : Canonical s) {f : FaultInfo} (h : (s.ctx f.ctx).state = .live) :
    raiseFault s f = sendEvent (faultEnds s f) (s.ctx f.ctx).migSession 2 f.ctx f.status (leBytes 64 (faultImage s f).toNat) := by
  obtain ⟨hrec, hses⟩ := faultEnds_ctx hs.ctxs f
  rw [raiseFault_live h, hrec, hses]

end Sys2Proof.FaultEvent

namespace Sys2Proof.FaultRecord

open Machine

/-! ## O27: the layout of a fault record (R600) -/

/-- Bits [lo + width - 1 : lo] of a record, as (lo, width). -/
abbrev Span := Nat × Nat

/-- Two spans share no bit. -/
abbrev Span.Apart (a b : Span) : Prop := a.1 + a.2 ≤ b.1 ∨ b.1 + b.2 ≤ a.1

/-- A value at its place in a record. -/
structure Entry where
  span  : Span
  value : Nat

/-- The 64-byte record that holds a list of entries. -/
def record : List Entry → BitVec 512
  | [] => 0#512
  | e :: es => at_ 512 e.span.1 e.value ||| record es

/-- Every value fits its span. -/
def Fits (es : List Entry) : Prop := ∀ e ∈ es, e.value < 2 ^ e.span.2

@[simp] theorem at_zero (n lo : Nat) : at_ n lo 0 = 0 := by simp [at_]

theorem fld_or {n : Nat} (x y : BitVec n) (lo len : Nat) : fld (x ||| y) lo len = fld x lo len ||| fld y lo len := by
  simp [fld, Nat.shiftRight_or_distrib, Nat.or_mod_two_pow]

theorem bit_of_fld {n i : Nat} {x : BitVec n} {b : Bool} (h : fld x i 1 = b2n b) : bit x i = b := by
  have hb : b = decide (fld x i 1 = 1) := by rw [h]; cases b <;> rfl
  rw [hb]
  simp [bit, fld, BitVec.getLsbD, Nat.testBit_eq_decide_div_mod_eq, Nat.shiftRight_eq_div_pow]

/-- A number placed inside the record is read back from its own span. -/
theorem fld_at_same {n lo w v : Nat} (hv : v < 2 ^ w) (hw : lo + w ≤ n) : fld (at_ n lo v) lo w = v := by
  refine Nat.eq_of_testBit_eq fun i => ?_
  rcases Nat.lt_or_ge i w with hi | hi
  · have hlt : lo + i < n := by omega
    simp [fld, at_, Nat.testBit_mod_two_pow, Nat.testBit_shiftLeft, hi, hlt]
  · have hvi := Nat.testBit_lt_two_pow (hv.trans_le (Nat.pow_le_pow_right two_pos hi))
    simp [fld, Nat.testBit_mod_two_pow, hvi, Nat.not_lt.mpr hi]

/-- A span apart from the one where a number is placed reads as zero. -/
theorem fld_at_apart {n lo w v : Nat} {sp : Span} (hv : v < 2 ^ w) (h : Span.Apart (lo, w) sp) : fld (at_ n lo v) sp.1 sp.2 = 0 := by
  refine Nat.eq_of_testBit_eq fun i => ?_
  simp only [fld, at_, BitVec.toNat_ofNat, Nat.testBit_mod_two_pow, Nat.testBit_shiftRight, Nat.testBit_shiftLeft,
    Nat.zero_testBit, Bool.and_eq_false_iff, decide_eq_false_iff_not]
  by_cases hi : i < sp.2 ∧ lo ≤ sp.1 + i
  · have hw : w ≤ sp.1 + i - lo := by obtain ⟨h1, h2⟩ := hi; dsimp only [Span.Apart] at h; omega
    exact .inr (.inr (.inr (Nat.testBit_lt_two_pow (hv.trans_le (Nat.pow_le_pow_right two_pos hw)))))
  · omega

/-- A span that no entry touches reads as zero. -/
theorem fld_record_gap {es : List Entry} {sp : Span} (hf : Fits es) (ha : ∀ a ∈ es.map Entry.span, Span.Apart a sp) :
    fld (record es) sp.1 sp.2 = 0 := by
  induction es with
  | nil => simp only [record, fld, BitVec.toNat_zero, Nat.zero_shiftRight, Nat.zero_mod]
  | cons e es ih =>
    obtain ⟨hv, hf⟩ := List.forall_mem_cons.mp hf
    obtain ⟨he, ha⟩ := List.forall_mem_cons.mp ha
    rw [record, fld_or, fld_at_apart hv he, ih hf ha, Nat.or_zero]

/-- Where no two entries share a bit, every entry is read back from its span. -/
theorem fld_record {es : List Entry} (hf : Fits es) (ha : (es.map Entry.span).Pairwise Span.Apart)
    (hw : ∀ a ∈ es.map Entry.span, a.1 + a.2 ≤ 512) : ∀ e ∈ es, fld (record es) e.span.1 e.span.2 = e.value := by
  induction es with
  | nil => simp
  | cons e es ih =>
    obtain ⟨hv, hf'⟩ := List.forall_mem_cons.mp hf
    obtain ⟨hw, hws⟩ := List.forall_mem_cons.mp hw
    obtain ⟨he, ha⟩ := List.pairwise_cons.mp ha
    refine List.forall_mem_cons.mpr ⟨?_, fun x hx => ?_⟩
    · rw [record, fld_or, fld_at_same hv hw, fld_record_gap hf' fun a h => (he a h).symm, Nat.or_zero]
    · rw [record, fld_or, fld_at_apart hv (he _ (List.mem_map_of_mem hx)), ih hf' ha hws x hx, Nat.zero_or]

/-- The entries of a fault record, from the high bits down (R600). -/
def faultEntries (s : State) (f : FaultInfo) : List Entry :=
  [⟨(384, 64), s.power.now⟩, ⟨(320, 64), steepNow s⟩, ⟨(300, 1), b2n f.pa.isSome⟩, ⟨(256, 44), f.pa.getD 0⟩,
   ⟨(248, 1), b2n f.va.isSome⟩, ⟨(192, 56), f.va.getD 0 % 2 ^ 56⟩, ⟨(128, 56), fld f.pc 0 56⟩, ⟨(96, 32), f.pos⟩, ⟨(80, 12), f.queue⟩,
   ⟨(77, 1), b2n f.lane.isSome⟩, ⟨(72, 5), f.lane.getD 0⟩, ⟨(64, 4), f.slot⟩, ⟨(48, 9), f.core⟩, ⟨(44, 2), f.unit⟩, ⟨(40, 4), f.kind⟩,
   ⟨(32, 8), tenantOf s f.ctx⟩, ⟨(16, 10), f.ctx⟩, ⟨(0, 16), f.status.toNat⟩]

/-- Where those entries lie. -/
def faultSpans : List Span :=
  [(384, 64), (320, 64), (300, 1), (256, 44), (248, 1), (192, 56), (128, 56), (96, 32), (80, 12), (77, 1), (72, 5), (64, 4), (48, 9),
   (44, 2), (40, 4), (32, 8), (16, 10), (0, 16)]

/-- The reserved bits of a fault record (R600). -/
def reservedSpans : List Span :=
  [(26, 6), (46, 2), (57, 7), (68, 4), (78, 2), (92, 4), (184, 8), (249, 7), (301, 19), (448, 64)]

theorem faultEntries_spans (s : State) (f : FaultInfo) : (faultEntries s f).map Entry.span = faultSpans := rfl

/-- A field that a fault may lack: its value at `lo` under a flag at `flag`, or nothing. -/
def flagged (flag lo : Nat) (g : Nat → Nat) (o : Option Nat) : BitVec 512 :=
  match o with | some v => at_ 512 flag 1 ||| at_ 512 lo (g v) | none => 0

theorem flagged_eq {flag lo : Nat} {g : Nat → Nat} (hg : g 0 = 0) (o : Option Nat) :
    flagged flag lo g o = at_ 512 flag (b2n o.isSome) ||| at_ 512 lo (g (o.getD 0)) := by
  cases o <;> simp [flagged, b2n, hg]

/-- The model's image is the record of those entries. -/
theorem faultImage_eq_record (s : State) (f : FaultInfo) : faultImage s f = record (faultEntries s f) := by
  have himage : faultImage s f = at_ 512 384 s.power.now ||| at_ 512 320 (steepNow s) ||| flagged 300 256 id f.pa |||
      flagged 248 192 (· % 2 ^ 56) f.va ||| at_ 512 128 (fld f.pc 0 56) ||| at_ 512 96 f.pos ||| at_ 512 80 f.queue |||
      flagged 77 72 id f.lane ||| at_ 512 64 f.slot ||| at_ 512 48 f.core ||| at_ 512 44 f.unit ||| at_ 512 40 f.kind |||
      at_ 512 32 (tenantOf s f.ctx) ||| at_ 512 16 f.ctx ||| at_ 512 0 f.status.toNat := rfl
  rw [himage, flagged_eq rfl, flagged_eq rfl, flagged_eq rfl]
  simp only [record, faultEntries, BitVec.or_zero, BitVec.or_assoc, id]

/-- What a fault says fits the fields that R600 gives it. -/
structure FieldsFit (s : State) (f : FaultInfo) : Prop where
  ctx    : f.ctx < 1024
  tenant : tenantOf s f.ctx < 256
  kind   : f.kind < 16
  unit   : f.unit < 4
  core   : f.core < 512
  slot   : f.slot < 16
  lane   : ∀ l, f.lane = some l → l < 32
  queue  : f.queue < 4096
  pos    : f.pos < 2 ^ 32
  pa     : ∀ p, f.pa = some p → p < 2 ^ 44
  steep  : steepNow s < 2 ^ 64
  time   : s.power.now < 2 ^ 64

theorem b2n_lt_two (b : Bool) : b2n b < 2 ^ 1 := by cases b <;> decide

theorem getD_zero_lt {o : Option Nat} {n : Nat} (hn : 0 < n) (h : ∀ x, o = some x → x < n) : o.getD 0 < n := by
  cases o with
  | none => exact hn
  | some x => exact h x rfl

theorem faultEntries_fit {s : State} {f : FaultInfo} (h : FieldsFit s f) : Fits (faultEntries s f) := by
  have hlane := getD_zero_lt (by decide) h.lane
  have hpa := getD_zero_lt (by decide) h.pa
  have h56 (x : Nat) : x % 2 ^ 56 < 2 ^ 56 := Nat.mod_lt _ (by decide)
  simp only [Fits, faultEntries, List.forall_mem_cons]
  exact ⟨h.time, h.steep, b2n_lt_two _, hpa, b2n_lt_two _, h56 _, h56 _, h.pos, h.queue, b2n_lt_two _, hlane, h.slot, h.core, h.unit,
    h.kind, h.tenant, h.ctx, f.status.isLt, List.forall_mem_nil _⟩

/-- Every field of R600 reads as what the fault says. -/
theorem faultImage_fields {s : State} {f : FaultInfo} (h : FieldsFit s f) :
    ∀ e ∈ faultEntries s f, fld (faultImage s f) e.span.1 e.span.2 = e.value := by
  rw [faultImage_eq_record]
  refine fld_record (faultEntries_fit h) ?_ ?_
  · rw [faultEntries_spans]; decide
  · rw [faultEntries_spans]; decide

/-- The reserved bits read as zero. -/
theorem faultImage_reserved {s : State} {f : FaultInfo} (h : FieldsFit s f) :
    ∀ sp ∈ reservedSpans, fld (faultImage s f) sp.1 sp.2 = 0 := by
  have hapart : ∀ sp ∈ reservedSpans, ∀ a ∈ faultSpans, Span.Apart a sp := by decide
  rw [faultImage_eq_record]
  exact fun sp hsp => fld_record_gap (faultEntries_fit h) (hapart sp hsp)

/-! ## O27: FAULT_RECORD (R363, R600) -/

/-- The entry that FAULT_RECORD is, at every context's index. -/
theorem catEntry_faultRecord {s : State} {n : Nat} {e : CatEntry} (hn : n < 1024) (h : catEntry s (0x5000 + n) 0x0A = some e) :
    e = ⟨0x0A, "FAULT_RECORD", 0x50, .ro, 0⟩ := by
  have hidx : catIndex (0x5000 + n) = some catCtx := by
    unfold catIndex
    repeat rw [if_neg (by omega)]
    exact if_pos (by omega)
  unfold catEntry at h
  split at h
  · cases h
  · rw [hidx] at h
    exact (Option.some.inj h).symm

/-- The values of a context's index. -/
theorem catValue_ctx {s : State} {n : Nat} {e : CatEntry} (hn : n < 1024) (ha : e.action = false) (h0 : e.sub ≠ 0) :
    catValue s (0x5000 + n) e = valCtx s n e.sub := by
  unfold catValue
  dsimp only
  rw [ha, if_neg Bool.false_ne_true, if_neg h0]
  repeat rw [if_neg (by omega)]
  rw [if_pos (by omega), Nat.add_sub_cancel_left]

/-- Settles O27: the image is a record of apart entries, each read back from its place; FAULT_RECORD is the context's record; and
nothing between recording a fault and its EVENT changes that record. -/
theorem faultRecordFields : Obligations.FaultRecordFields := by
  unfold Obligations.FaultRecordFields
  refine ⟨?layout, ?entry, ?event⟩
  case layout =>
    intro s f hctx htenant hkind hunit hcore hslot hlane hqueue hpos hpa hsteep htime
    have h : FieldsFit s f := ⟨hctx, htenant, hkind, hunit, hcore, hslot, hlane, hqueue, hpos, hpa, hsteep, htime⟩
    have hfields := faultImage_fields h
    simp only [faultEntries, List.forall_mem_cons] at hfields
    obtain ⟨time, steep, paValid, pa, vaValid, va, pc, pos, queue, laneValid, lane, slot, core, unit, kind, tenant, ctx, status, -⟩ := hfields
    have hreserved := faultImage_reserved h
    simp only [reservedSpans, List.forall_mem_cons] at hreserved
    obtain ⟨r26, r46, r57, r68, r78, r92, r184, r249, r301, r448, -⟩ := hreserved
    exact ⟨status, ctx, r26, tenant, kind, unit, r46, core, r57, slot, r68, lane, bit_of_fld laneValid, r78, queue, r92, pos, pc, r184, va,
      bit_of_fld vaValid, r249, pa, bit_of_fld paValid, r301, steep, time, r448⟩
  case entry =>
    intro s n e hn he
    obtain rfl := catEntry_faultRecord hn he
    exact catValue_ctx hn rfl (by decide)
  case event =>
    intro s f hs hlive
    exact ⟨FaultEvent.faultEnds s f, FaultEvent.raiseFault_sends_record hs hlive⟩

end Sys2Proof.FaultRecord
